-- ==== Sys2Proof/Word.lean ====
section
/-! DEFINITION. The words the machine moves and their plainest arithmetic (R4 to R6). -/

namespace Sys2Proof

/-- A 32-bit register or code word (R26, R34). -/
abbrev Word := BitVec 32
/-- A byte of memory (R4). -/
abbrev Byte := BitVec 8
/-- A 48-bit virtual or physical address (R183, R207). -/
abbrev Addr := BitVec 48
/-- A 64-bit value held in a register pair (R5). -/
abbrev DWord := BitVec 64
/-- An F1 register field (Table 2.2). -/
abbrev Reg7 := BitVec 7
/-- An F2 register field (Table 2.3). -/
abbrev Reg8 := BitVec 8

/-- Names one thread: its quire (a stable index of the quire table) and its lane rank (R75). -/
structure ThreadId where
  quire : Nat
  lane  : Nat
  deriving DecidableEq, Repr

/-- The pair value of R5: the low register holds bits [31:0]. -/
abbrev pairOf (lo hi : Word) : DWord := hi ++ lo

end Sys2Proof
end

