-- ==== Sys2Proof/Config.lean ====
section
/-! DEFINITION. What the spec leaves to the implementation or leaves open: opaque constants without a body, so that no proof
can see a value. `tick` is the model's own counter (State.tick); `salt` separates the values drawn in one step. -/

namespace Sys2Proof.Config

/-- An undefined 32-bit value (R2): log entry 1. -/
opaque freeWord (tick salt : Nat) : Word
/-- An undefined byte (R2): log entry 1. -/
opaque freeByte (tick salt : Nat) : Byte
/-- An unpredictable choice (R2, R41, R241): log entry 1. -/
opaque freeBool (tick salt : Nat) : Bool
/-- An undefined number, a choice among several. -/
opaque freeNat (tick salt : Nat) : Nat

/-- The set of an L1 of `granules` granules that holds a line (R176 fixes 16 ways and leaves the index open). -/
opaque l1Set (granules line : Nat) : Nat
/-- The set of a slice that holds a line (R204 fixes 16 ways and leaves the index open). -/
opaque sliceSet (line : Nat) : Nat
/-- The set of a main TLB that holds a page (R187 fixes 8 ways and leaves the index open). -/
opaque tlbSet (root page size : Nat) : Nat
/-- DEV_ID (Table 16.1 names the register and gives no value). -/
opaque devId : Word
/-- The check of a save-area record (R376, Table 15.7): a function of the record's bytes. -/
opaque ctxCheck (bytes : List Byte) : BitVec 64
/-- The image of the boot ROM (R394, R396). -/
opaque bootRom : List Byte
/-- The public key in the boot ROM that verifies the security processor's firmware (R396). -/
opaque bootKey : List Byte
/-- The public key that an image of that firmware holds to verify the device firmware (R396). -/
opaque firmwareKey (image : List Byte) : List Byte
/-- The seeds of the attestation key that the device secret gives at a reset (R396): three times 16 bytes. -/
opaque attestSeeds (reset : Nat) : List Byte
/-- The certificate chain of an attestation key (R396). -/
opaque certChain (publicKey : List Byte) : List Byte
/-- The device's private number of session `n`'s key exchange (R394). -/
opaque dheScalar (n : Nat) : Nat
/-- The `n`th partition key that the random source of the security processor gives (R392). -/
opaque drawnKey (n : Nat) : BitVec 512
/-- Places of a byte within its channel (R186: fixed by the security processor, shows only in timing): the bank. -/
opaque bankOf (line : Nat) : Nat

end Sys2Proof.Config
end

