-- ==== Sys2Proof/Syntax.lean ====
section
/-! DEFINITION. The abstract syntax: one constructor of `Instr` for each row of spec/opcode_table.json, 177 instructions
(chapters 02 and 04 to 15) and 87 steps of the part's other agents (95_what_each_step_holds). -/

namespace Sys2Proof

/-- STALL, SETEN and SETD of F2 word 0 (Table 2.3). -/
structure Hdr where
  st    : BitVec 3
  seten : Bool
  setd  : BitVec 3
  deriving DecidableEq, Repr

/-- Memory spaces, Table 2.10, SUB[5:3]. -/
inductive Space where
  | p | s | c | k | g
  deriving DecidableEq, Repr

/-- Access sizes, Table 2.10, SUB[2:0]. -/
inductive Size where
  | n8 | i8 | n16 | i16 | w32 | w64 | x4
  deriving DecidableEq, Repr

/-- Order codes, Table 2.10, C[4:3]; code 3 is acquire-release on the slice atomics (R47) and reserved elsewhere. -/
inductive Order where
  | plain | acq | rel | acqrel
  deriving DecidableEq, Repr

/-- Scopes, Table 2.10, C[2:0]. -/
inductive Scope where
  | none | q | cr | cl | dv | sy
  deriving DecidableEq, Repr

/-- Fields of LD, ST, LDQ and STQ (Table 2.10). -/
structure MemF where
  d     : Reg8
  a     : Reg8
  b     : Reg8
  lu    : Bool
  ep    : BitVec 2
  order : Order
  scope : Scope
  space : Space
  size  : Size
  imm   : BitVec 10
  deriving DecidableEq, Repr

/-- Fields of ATOM, CAS, RED and ATOMQ (Table 9.5, R218). `k` is C[7]: 0 `.g`, 1 `.k`. -/
structure AtomF where
  d     : Reg8
  a     : Reg8
  b     : Reg8
  k     : Bool
  ep    : BitVec 2
  order : Order
  scope : Scope
  w     : BitVec 2
  op    : BitVec 4
  imm   : BitVec 10
  deriving DecidableEq, Repr

/-- A barrier or station named by an immediate or by a q register (Tables 10.2 and 12.6). -/
inductive ObjName where
  | imm (n : BitVec 4)
  | reg (q : Reg8)
  deriving DecidableEq, Repr

/-- A handle word by immediate or q register (Tables 10.2 and 13.6). -/
inductive HWord where
  | imm (w : BitVec 6)
  | reg (q : Reg8)
  deriving DecidableEq, Repr

/-- Fields of BARARV, BARWT and BARSYN (Table 10.2). `v` is the v register of the expected phase. -/
structure BarF where
  gang  : Bool
  v     : Reg8
  num   : ObjName
  scope : Scope
  deriving DecidableEq, Repr

/-- FENCE kinds (R49). -/
inductive FenceKind where
  | acq | rel | full
  deriving DecidableEq, Repr

/-- The units named by the assignment of R22, for one hardware partition, with the physical address ranges (first byte,
byte after the last) of its stacks, and the interleave scheme of each 1 GiB block of them, where not 0 (R186). -/
structure UnitSet where
  clusters : List Nat
  slices   : List Nat
  hbm      : List Nat
  mem      : List (Nat × Nat)
  schemes  : List (Nat × BitVec 3)
  deriving DecidableEq, Repr

/-- A firmware image with the signature that comes with it (R396). -/
structure SignedImage where
  image : List Byte
  signature : List Byte
  deriving DecidableEq, Repr

/-- An access that arrives from outside, through the host port (R399) or a peer port (R406). `part` is the partition the
access is made for (that of its virtual function, or the peer window's); `write` carries the bytes, `read` a count. -/
inductive OutsideAccess where
  | read  (part : Nat) (pa : Nat) (count : Nat)
  | write (part : Nat) (pa : Nat) (data : List Byte)
  /-- R406: an atomic transaction of a peer: an operation of Table 9.6 on 4 bytes, or 8 where `wide` (log entry 107). -/
  | atomic (part : Nat) (pa op : Nat) (wide : Bool) (data : List Byte)
  /-- R243, R408: another chip of a grid, by its rank, brings to the barrier unit of rank 0 how many of its live threads have
  arrived at grid barrier `n` in the current phase. -/
  | counts (gid n rank arrived live : Nat)
  /-- R243, R408: rank 0 tells the other chips that grid barrier `n` has completed its phase. -/
  | completed (gid n : Nat)
  deriving DecidableEq, Repr

/-- The launch that a partition's queue has next (R312), with the address and the length of each of the buffers that the host
declares with it (R391; log entry 56). -/
structure LaunchEntry where
  part    : Nat
  buffers : List (Nat × Nat)
  deriving DecidableEq, Repr

/-- A scheduler packet at the management endpoint, with the partition that is bound to the port it comes by (R407). -/
structure PortPacket where
  part  : Nat
  bytes : List Byte
  deriving DecidableEq, Repr

/-- One constructor per row of the opcode table. Register operands are the encoded fields; `st` is STALL. -/
inductive Instr where
  -- Table 2.6, F1 integer (chapter 05)
  | add (d a b : Reg7) (st : BitVec 3)
  | addI32Sat (d a b : Reg7) (st : BitVec 3)
  | addN32Sat (d a b : Reg7) (st : BitVec 3)
  | addc (d a b : Reg7) (st : BitVec 3)
  | sub (d a b : Reg7) (st : BitVec 3)
  | subI32Sat (d a b : Reg7) (st : BitVec 3)
  | subN32Sat (d a b : Reg7) (st : BitVec 3)
  | subb (d a b : Reg7) (st : BitVec 3)
  | mul (d a b : Reg7) (st : BitVec 3)
  | mulhI32 (d a b : Reg7) (st : BitVec 3)
  | mulhN32 (d a b : Reg7) (st : BitVec 3)
  | mad (d a b : Reg7) (st : BitVec 3)
  | madwI32 (d a b : Reg7) (st : BitVec 3)
  | madwN32 (d a b : Reg7) (st : BitVec 3)
  | minI32 (d a b : Reg7) (st : BitVec 3)
  | minN32 (d a b : Reg7) (st : BitVec 3)
  | maxI32 (d a b : Reg7) (st : BitVec 3)
  | maxN32 (d a b : Reg7) (st : BitVec 3)
  | and (d a b : Reg7) (st : BitVec 3)
  | or (d a b : Reg7) (st : BitVec 3)
  | xor (d a b : Reg7) (st : BitVec 3)
  | andn (d a b : Reg7) (st : BitVec 3)
  | shl (d a b : Reg7) (st : BitVec 3)
  | shr (d a b : Reg7) (st : BitVec 3)
  | shra (d a b : Reg7) (st : BitVec 3)
  | rot (d a b : Reg7) (st : BitVec 3)
  | funnel (d a b : Reg7) (st : BitVec 3)
  | bfeI32 (d a b : Reg7) (st : BitVec 3)
  | bfeN32 (d a b : Reg7) (st : BitVec 3)
  | bfi (d a b : Reg7) (st : BitVec 3)
  | bswz (d a b : Reg7) (st : BitVec 3)
  | neg (d a : Reg7) (st : BitVec 3)
  | abs (d a : Reg7) (st : BitVec 3)
  | popc (d a : Reg7) (st : BitVec 3)
  | clz (d a : Reg7) (st : BitVec 3)
  | brev (d a : Reg7) (st : BitVec 3)
  | isetI32 (p : BitVec 3) (cond : BitVec 4) (a b : Reg7) (st : BitVec 3)
  | isetN32 (p : BitVec 3) (cond : BitVec 4) (a b : Reg7) (st : BitVec 3)
  | isetI64 (p : BitVec 3) (cond : BitVec 4) (a b : Reg7) (st : BitVec 3)
  | isetN64 (p : BitVec 3) (cond : BitVec 4) (a b : Reg7) (st : BitVec 3)
  | add64 (d a b : Reg7) (st : BitVec 3)
  | sub64 (d a b : Reg7) (st : BitVec 3)
  | mul64 (d a b : Reg7) (st : BitVec 3)
  | shl64 (d a b : Reg7) (st : BitVec 3)
  | shr64 (d a b : Reg7) (st : BitVec 3)
  | shra64 (d a b : Reg7) (st : BitVec 3)
  | icvt (d a : Reg7) (sel : BitVec 7) (st : BitVec 3)
  | leaI32 (k : BitVec 2) (d a b : Reg7) (st : BitVec 3)
  | leaN32 (k : BitVec 2) (d a b : Reg7) (st : BitVec 3)
  | sel (p : BitVec 3) (d a b : Reg7) (st : BitVec 3)
  -- Table 2.7, F1 float (chapter 06); `m` is the modifier of operand A
  | fadd (m : BitVec 2) (d a b : Reg7) (st : BitVec 3)
  | fsub (m : BitVec 2) (d a b : Reg7) (st : BitVec 3)
  | fmul (m : BitVec 2) (d a b : Reg7) (st : BitVec 3)
  | ffma (m : BitVec 2) (d a b : Reg7) (st : BitVec 3)
  | fmin (m : BitVec 2) (d a b : Reg7) (st : BitVec 3)
  | fmax (m : BitVec 2) (d a b : Reg7) (st : BitVec 3)
  | fset (p : BitVec 3) (cond : BitVec 4) (a b : Reg7) (st : BitVec 3)
  | frnd (d a : Reg7) (mode : BitVec 7) (st : BitVec 3)
  | fclass (d a : Reg7) (st : BitVec 3)
  | fsqrt (d a : Reg7) (st : BitVec 3)
  | frcp (d a : Reg7) (st : BitVec 3)
  | frsq (d a : Reg7) (st : BitVec 3)
  | fex2 (d a : Reg7) (st : BitVec 3)
  | flg2 (d a : Reg7) (st : BitVec 3)
  | pkaddF16 (d a b : Reg7) (st : BitVec 3)
  | pkmulF16 (d a b : Reg7) (st : BitVec 3)
  | pkfmaF16 (d a b : Reg7) (st : BitVec 3)
  | pkfmaBf16 (d a b : Reg7) (st : BitVec 3)
  -- Table 2.7, narrow formats (chapter 07)
  | cvt (d a : Reg7) (sel : BitVec 7) (st : BitVec 3)
  | qnt (d a : Reg7) (slot : BitVec 7) (st : BitVec 3)
  | dqnt (d a : Reg7) (slot : BitVec 7) (st : BitVec 3)
  | had (d a : Reg7) (slot : BitVec 7) (st : BitVec 3)
  | pack4 (d a b : Reg7) (st : BitVec 3)
  | unpk4 (d a : Reg7) (sel : BitVec 7) (st : BitVec 3)
  | scale (d a b : Reg7) (st : BitVec 3)
  | fslot (d : Reg7) (slot sel : BitVec 7) (st : BitVec 3)
  -- Table 2.8, uniform ALU
  | uniformAluReg (op : BitVec 6) (d a b : Reg8) (st : BitVec 3)
  | uniformAluImm (op : BitVec 6) (d a : Reg8) (imm : BitVec 10) (st : BitVec 3)
  | moviQ (d : Reg8) (imm : Word) (st : BitVec 3)
  | addQLi (d a : Reg8) (imm : Word) (st : BitVec 3)
  | moviI64 (d : Reg8) (imm : Word) (st : BitVec 3)
  | movVq (d a : Reg8) (st : BitVec 3)
  -- Table 4.3, control and quire-wide (chapter 04)
  | bra (off : Word) (st : BitVec 3)
  | brq (neg : Bool) (qp : BitVec 3) (off : Word) (st : BitVec 3)
  | call (off : Word) (st : BitVec 3)
  | brx (a : Reg8) (st : BitVec 3)
  | callx (a : Reg8) (st : BitVec 3)
  | ret (st : BitVec 3)
  | exit (st : BitVec 3)
  | nop (st : BitVec 3)
  | yield (st : BitVec 3)
  | qsync (st : BitVec 3)
  | plop (d a b c : BitVec 3) (table : BitVec 8) (st : BitVec 3)
  | qplop (d a b c : BitVec 3) (table : BitVec 8) (st : BitVec 3)
  | vote (kind : BitVec 2) (d a : BitVec 3) (st : BitVec 3)
  | ballot (d : Reg8) (a : BitVec 3) (st : BitVec 3)
  | lxch (kind : BitVec 3) (d a b : Reg8) (c : BitVec 3) (n : BitVec 5) (st : BitVec 3)
  | qred (op : BitVec 4) (d a : Reg8) (st : BitVec 3)
  | qscan (op : BitVec 4) (d a : Reg8) (excl : Bool) (st : BitVec 3)
  | match_ (wide : Bool) (d a : Reg8) (st : BitVec 3)
  -- Table 2.8, long-immediate vector forms
  | moviLi (d : Reg8) (imm : Word) (st : BitVec 3)
  | addLi (d a : Reg8) (imm : Word) (st : BitVec 3)
  | mulLi (d a : Reg8) (imm : Word) (st : BitVec 3)
  | madLi (d a : Reg8) (imm : Word) (st : BitVec 3)
  | andLi (d a : Reg8) (imm : Word) (st : BitVec 3)
  | orLi (d a : Reg8) (imm : Word) (st : BitVec 3)
  | xorLi (d a : Reg8) (imm : Word) (st : BitVec 3)
  | isetI32Li (p : BitVec 3) (cond : BitVec 4) (a : Reg8) (imm : Word) (st : BitVec 3)
  | isetN32Li (p : BitVec 3) (cond : BitVec 4) (a : Reg8) (imm : Word) (st : BitVec 3)
  | faddLi (d a : Reg8) (imm : Word) (st : BitVec 3)
  | fmulLi (d a : Reg8) (imm : Word) (st : BitVec 3)
  | ffmaLi (d a : Reg8) (imm : Word) (st : BitVec 3)
  | fsetLi (p : BitVec 3) (cond : BitVec 4) (a : Reg8) (imm : Word) (st : BitVec 3)
  -- Table 8.10, access instructions (chapter 08)
  | ld (h : Hdr) (m : MemF)
  | ldSh (h : Hdr) (m : MemF)
  | st (h : Hdr) (m : MemF)
  | stSh (h : Hdr) (m : MemF)
  | ldq (h : Hdr) (m : MemF)
  | ldqSh (h : Hdr) (m : MemF)
  | stq (h : Hdr) (m : MemF)
  | stqSh (h : Hdr) (m : MemF)
  | pref (st : BitVec 3) (level : BitVec 2) (space : Space) (ep : BitVec 2) (a b : Reg8) (imm : BitVec 10)
  | cmaint (h : Hdr) (op : BitVec 2) (space : Space) (a b : Reg8) (imm : BitVec 10)
  | carve (h : Hdr) (a : Reg8) (bar : BitVec 4)
  -- Table 9.5 and R226, R229, R231 (chapter 09)
  | atom (h : Hdr) (m : AtomF)
  | cas (h : Hdr) (m : AtomF)
  | red (h : Hdr) (m : AtomF)
  | atomq (h : Hdr) (m : AtomF)
  | stamp (h : Hdr) (k : Bool) (reply : BitVec 2) (n : BitVec 5) (idx : BitVec 6) (r : BitVec 5) (d a b : Reg8)
  | stampsync (h : Hdr) (all : Bool) (idx : BitVec 6)
  | nred (h : Hdr) (op : BitVec 4) (d a b c : Reg8)
  -- Table 10.2 (chapter 10)
  | fence (h : Hdr) (kind : FenceKind) (scope : Scope)
  | bararv (h : Hdr) (f : BarF)
  | barwt (h : Hdr) (f : BarF)
  | barsyn (h : Hdr) (f : BarF)
  | gbar (h : Hdr) (kind : BitVec 2) (d a : Reg8) (scope : Scope) (n : BitVec 2)
  | stdef (st : BitVec 3) (a : Reg8) (num : ObjName)
  | hacq (h : Hdr) (hw : HWord) (base size : Reg8)
  | hexp (h : Hdr) (hw : HWord) (bytes : Reg8)
  | htake (h : Hdr) (hw : HWord) (d : Reg8)
  | hfree (h : Hdr) (hw : HWord)
  | waitc (h : Hdr) (wide : Bool) (cond : BitVec 4) (k : Bool) (scope : Scope) (d a b : Reg8)
  -- Table 12.6 (chapter 12)
  | mload (h : Hdr) (stn : ObjName) (transpose : Bool) (slot : BitVec 3) (a b : Reg8)
  | mswap (st : BitVec 3) (stn : ObjName)
  | mstream (h : Hdr) (stn : ObjName) (zero : Bool) (slot : BitVec 3) (tile : BitVec 2) (a b c : Reg8)
  | mzero (h : Hdr) (stn : ObjName) (tile : BitVec 2) (c : Reg8)
  | mfill (h : Hdr) (stn : ObjName) (space : Space) (tile : BitVec 2) (a b c : Reg8)
  | mdrain (h : Hdr) (stn : ObjName) (bf16 add : Bool) (space : Space) (tile : BitVec 2) (a b c : Reg8)
  | mdrainv (h : Hdr) (stn : ObjName) (rows : BitVec 2) (tile : BitVec 2) (d a : Reg8)
  | mopf (st : BitVec 3)
  | mwait (h : Hdr)
  | mstat (h : Hdr) (clr : Bool) (sel : BitVec 3) (d : Reg8)
  -- Table 13.6 (chapter 13)
  | cpdesc (h : Hdr) (slot : BitVec 4) (a : Reg8)
  | cpload (h : Hdr) (slot : BitVec 4) (hw : HWord) (d a : Reg8)
  | cpstore (h : Hdr) (slot : BitVec 4) (d a : Reg8)
  | cpgather (h : Hdr) (slot : BitVec 4) (hw : HWord) (d a b : Reg8)
  | cpmcast (h : Hdr) (slot : BitVec 4) (hw : HWord) (d a b : Reg8)
  | cpfill (h : Hdr) (hw : HWord) (d a b : Reg8)
  | fetchw (h : Hdr) (hw : HWord) (d : Reg8)
  | growg (h : Hdr) (d a : Reg8)
  | spend (h : Hdr) (grid : Bool) (a : Reg8)
  -- Table 14.7 (chapter 14)
  | bagnew (h : Hdr) (d a b c : Reg8)
  | bagput (h : Hdr) (rsz : BitVec 2) (d a b : Reg8) (p : BitVec 3)
  | bagcut (h : Hdr) (a : Reg8)
  | bagcnt (h : Hdr) (all : Bool) (d a b : Reg8)
  | bagmap (h : Hdr) (d a b : Reg8)
  | bagdrn (h : Hdr) (a : Reg8)
  | baggrow (h : Hdr) (a b : Reg8)
  | bagfree (h : Hdr) (a : Reg8)
  -- Table 15.5 (chapter 15)
  | trap (h : Hdr) (n : BitVec 8)
  | svc (h : Hdr) (n : BitVec 8)
  | tret (h : Hdr)
  | movs (st : BitVec 3) (wide uni : Bool) (d : Reg8) (num : BitVec 8)
  | movsw (st : BitVec 3) (wide uni : Bool) (a : Reg8) (num : BitVec 8)
  | brk (st : BitVec 3) (n : BitVec 8)
  | ctxsv (h : Hdr) (unit : BitVec 2)
  | ctxld (h : Hdr) (unit : BitVec 2)
  -- Steps of threads, schedulers and distributors (chapters 02, 04, 13, 15)
  | clauseStart (members : List ThreadId)
  | quireSwapOut (q : Nat)
  | quireActivate (q : Nat)
  | reconvergenceIssue (q : Nat) (at_ : Addr)
  | threadRetire (t : ThreadId)
  | trapEntry (t : ThreadId)
  | launchAccept (entry : LaunchEntry)
  | placementStep (part : Nat) (firstCores : List Nat)
  | preemptUnitsFree (gang : Nat)
  | teamEnd (team : Nat)
  | carveApply (team : Nat)
  -- Steps of the matrix unit, handle file, ports and copy streamer
  | matrixOpStart (core id : Nat)
  | matrixOpComplete (core id : Nat)
  | handleWaiterExecute (team h : Nat)
  | portWaiterIssue (t : ThreadId)
  | copyStart (id : Nat)
  | copyPieceDelivery (id piece : Nat)
  | copyComplete (id : Nat)
  -- Steps of the slices, the fabric and the reply side of the cores
  | sliceLoadServe (req : Nat)
  | sliceUpdateApply (req : Nat)
  | sliceAtomicApply (req : Nat)
  | stampRun (req : Nat)
  | waitQueueResend (req : Nat)
  | barrierUnitArrival (req : Nat)
  | stampCacheDrop (op slice : Nat)
  | writebackMerge (core line : Nat)
  | memoryReply (req : Nat)
  | fenceComplete (op : Nat)
  | nredArrival (req : Nat)
  | nredResult (op : Nat)
  | monitorRegister (req : Nat)
  | waitcReply (req : Nat)
  | monitorPollRetry (req : Nat)
  | leafNoProgress (leaf plane : Nat)
  | planeDeclareDead (plane : Nat)
  | rehashResume
  | sliceReplayRequest (req : Nat)
  | mcRequestArrive (ctrl pc bank line : Nat)
  | mcCommandSlot (ctrl pc : Nat)
  | refreshDue (ctrl pc bank : Nat)
  | activationAlert (ctrl pc bank : Nat)
  | mcQosWrite (ctrl k : Nat) (value : Word)
  | pageWalkComplete (core id : Nat)
  | tlbinvAll (part : Nat)
  | tlbinvBlock (part : Nat) (va : Nat)
  | tlbinvDone (part : Nat)
  | bagOpApply (stack : Nat)
  | bagOpResend (id : Nat)
  | bagVerdict (id : Nat)
  -- Reliability, debug and checkpoint
  | uceConsume (gang line : Nat)
  | uceUnconsumed (line : Nat)
  | gangKill (gang : Nat)
  | dbgHalt (part : Nat) (value : Word)
  | dbgResume (part : Nat) (value : Word)
  | dbgKill (part : Nat) (value : Word)
  | ckSave (part : Nat)
  | ckRestore (part : Nat)
  | ckDone (part : Nat)
  -- Host, links and security processor
  | devEnable (value : Word)
  | warmReset
  | coldReset
  | partitionReset (part : Nat)
  | bringupReady (firmware : List SignedImage)
  | partitionAssign (units : List UnitSet)
  | lqTailWrite (part : Nat) (value : Word)
  | eqHeadWrite (part : Nat) (value : Word)
  | registerWrite (part : Nat) (offset : Nat) (value : DWord)
  | hostMemoryAccess (acc : OutsideAccess)
  | peerPortAccess (acc : OutsideAccess)
  | launch (part : Nat) (record : List Byte)
  | reserve (part : Nat) (record : List Byte) (firstCores : List Nat)
  | commit (packet : PortPacket)
  | abort (packet : PortPacket)
  | kill (packet : PortPacket)
  | getVersion
  | getCapabilities
  | negotiateAlgorithms (hashes sigs kems ciphers : Nat)
  | getDigests
  | getCertificate (slot offset length : Nat)
  | challenge (slot : Nat) (nonce : List Byte)
  | getMeasurements (index : Nat) (nonce : List Byte)
  | keyExchange (part : Nat) (share : List Byte)
  | finish (session : Nat) (verify : List Byte)
  | endSession (session : Nat)
  | keyload (session slot part : Nat) (wrapped digest : List Byte)
  | keydrop (session slot : Nat)
  | checkedExecutionCompulsory (part : Nat)
  deriving DecidableEq, Repr

end Sys2Proof
end

