-- ==== Sys2Proof/WellFormed.lean ====
section
/-! DEFINITION. Well-formed instructions: the static decode checks of R33 to R35, R43 to R51 and of each chapter's
encoding table. What depends on the machine (the clause's class R20, roles R52, features R53, bound format slots R157,
co-residency R243) is checked at issue. -/

namespace Sys2Proof

/-- A v register in an 8-bit field (Table 2.4). -/
def isV (r : Reg8) : Bool := r.toNat < 128
/-- An even v register, naming a pair (R5). -/
def isVPair (r : Reg8) : Bool := isV r && r.toNat % 2 == 0
/-- A v register that is a multiple of 4, naming a quad. -/
def isVQuad (r : Reg8) : Bool := isV r && r.toNat % 4 == 0
/-- q0 to q159. -/
def isQ (r : Reg8) : Bool := r.toNat < 160
/-- An even q register, naming a pair. -/
def isQPair (r : Reg8) : Bool := isQ r && r.toNat % 2 == 0
/-- A q register that is a multiple of 4, naming a quad. -/
def isQQuad (r : Reg8) : Bool := isQ r && r.toNat % 4 == 0
/-- A queue port, 160 to 165 (Table 2.4). -/
def isPort (r : Reg8) : Bool := decide (160 ≤ r.toNat) && decide (r.toNat ≤ 165)
/-- A q register or a queue port (R35). -/
def isQPort (r : Reg8) : Bool := r.toNat ≤ 165
/-- A v index register, or 0xFF for none. -/
def isVIdx (r : Reg8) : Bool := isV r || r == 0xFF#8
/-- A q index register, or 0xFF for none. -/
def isQIdx (r : Reg8) : Bool := isQ r || r == 0xFF#8
/-- An even F1 register field, naming a pair (R5). -/
def isPair7 (r : Reg7) : Bool := r.toNat % 2 == 0

/-- R33, an instruction of variable latency that writes a register: SETEN is 1. -/
def Hdr.writes (h : Hdr) : Bool := h.seten
/-- R33, an instruction of variable latency that writes none: SETD is zero when SETEN is 0. -/
def Hdr.free (h : Hdr) : Bool := h.seten || h.setd == 0

/-- The operation codes of Table 2.6 that a uniform form may carry: 0x2F is unassigned. -/
def uopAssigned (op : BitVec 6) : Bool := op.toNat != 0x2F
/-- Unary operation codes 0x1F to 0x23. -/
def uopUnary (op : BitVec 6) : Bool := decide (0x1F ≤ op.toNat) && decide (op.toNat ≤ 0x23)
/-- ISET codes 0x24 to 0x27; their D is a pc field. -/
def uopIset (op : BitVec 6) : Bool := decide (0x24 ≤ op.toNat) && decide (op.toNat ≤ 0x27)
/-- Codes that read D and then write it. -/
def uopDestructive (op : BitVec 6) : Bool := [0x0B, 0x0C, 0x0D, 0x1A, 0x1D, 0x1E].contains op.toNat
/-- Codes whose D is a pair: MADW, the 64-bit arithmetic and LEA. -/
def uopPairD (op : BitVec 6) : Bool :=
  [0x0C, 0x0D].contains op.toNat || (decide (0x28 ≤ op.toNat) && decide (op.toNat ≤ 0x2D)) ||
  (decide (0x30 ≤ op.toNat) && decide (op.toNat ≤ 0x37))
/-- Codes whose A is a pair: the 64-bit compares and arithmetic, and LEA. -/
def uopPairA (op : BitVec 6) : Bool :=
  [0x26, 0x27].contains op.toNat || (decide (0x28 ≤ op.toNat) && decide (op.toNat ≤ 0x2D)) ||
  (decide (0x30 ≤ op.toNat) && decide (op.toNat ≤ 0x37))
/-- Codes whose B is a pair: the 64-bit compares, ADD.64, SUB.64 and MUL.64. -/
def uopPairB (op : BitVec 6) : Bool := [0x26, 0x27, 0x28, 0x29, 0x2A].contains op.toNat

/-- ICVT selector: the source is 64 bits wide (Table 5.4). -/
def icvtSrcWide (s : BitVec 7) : Bool := s.extractLsb' 0 2 == 3#2
/-- ICVT selector: the destination is 64 bits wide. -/
def icvtDstWide (s : BitVec 7) : Bool := s.extractLsb' 3 2 == 3#2

/-- Register fields of ICVT (R124). -/
def icvtOk (even : Bool) (evenA : Bool) (s : BitVec 7) : Bool :=
  (!icvtDstWide s || even) && (!icvtSrcWide s || evenA)

/-- A pc field of 8 bits with an integer condition: bit 7 zero, condition 0 to 5 (R121). -/
def isPcInt (d : Reg8) : Bool := d.toNat < 128 && decide ((d.extractLsb' 3 4).toNat ≤ 5)

/-- D of a uniform ALU operation (R46, R111): a pc field, a pair without ports, no port in a destructive D, or q or port. -/
def uopDOk (op : BitVec 6) (d : Reg8) : Bool :=
  if uopIset op then isPcInt d
  else if uopPairD op then isQPair d
  else if uopDestructive op then isQ d
  else isQPort d

/-- A of a uniform ALU operation. -/
def uopAOk (op : BitVec 6) (a : Reg8) : Bool := if uopPairA op then isQPair a else isQPort a

/-- B of the register form 0x80: zero for unary codes, a selector for ICVT, a pair, or q or port (R46). -/
def uopBOk (op : BitVec 6) (d a b : Reg8) : Bool :=
  if uopUnary op then b == 0
  else if op.toNat == 0x2E then
    b.toNat < 128 && (!icvtDstWide (b.setWidth 7) || isQPair d) && (!icvtSrcWide (b.setWidth 7) || isQPair a)
  else if uopPairB op then isQPair b
  else isQPort b

/-- R35: a port is read through at most one field. -/
def portsOnce (op : BitVec 6) (a b : Reg8) : Bool :=
  !(isPort a && a == b && !uopUnary op && op.toNat != 0x2E)

/-- R51 and Table 2.10 for the order and scope of an access. -/
def orderOk (o : Order) (sc : Scope) : Bool := (o == .plain) == (sc == .none)

/-- R51 as far as space, order, scope and hints go. -/
def MemF.spaceOk (m : MemF) (sh : Bool) : Bool :=
  orderOk m.order m.scope && m.order != .acqrel &&
  !((m.space == .s || m.space == .c) && (m.scope == .dv || m.scope == .sy)) &&
  !(m.space == .p && m.order != .plain) &&
  (!sh || m.space == .g) &&
  (m.space == .g || m.space == .p || (m.ep == 0 && !m.lu))

/-- The base register of a memory access (R48, R194). -/
def MemF.baseOk (m : MemF) : Bool :=
  match m.space with
  | .g => isQPair m.a
  | .p => isQ m.a || m.a == 0xFF#8
  | _ => isQ m.a

/-- The data register of a vector access: single, pair or quad by size. -/
def vDataOk (s : Size) (d : Reg8) : Bool :=
  match s with | .w64 => isVPair d | .x4 => isVQuad d | _ => isV d
/-- The data register of a uniform access. -/
def qDataOk (s : Size) (d : Reg8) : Bool :=
  match s with | .w64 => isQPair d | .x4 => isQQuad d | _ => isQ d

/-- LD and LD.sh (R194). -/
def wfLd (h : Hdr) (m : MemF) (sh : Bool) : Bool :=
  h.writes && m.spaceOk sh && m.order != .rel && m.baseOk && isVIdx m.b && vDataOk m.size m.d
/-- ST and ST.sh: no acquire, no `.i8` or `.i16` size code (R51). -/
def wfSt (h : Hdr) (m : MemF) (sh : Bool) : Bool :=
  h.free && m.spaceOk sh && m.order != .acq && m.size != .i8 && m.size != .i16 && m.baseOk && isVIdx m.b && vDataOk m.size m.d
/-- LDQ and LDQ.sh: `.p` is not listed (R194). -/
def wfLdq (h : Hdr) (m : MemF) (sh : Bool) : Bool :=
  h.writes && m.spaceOk sh && m.order != .rel && m.space != .p && m.baseOk && isQIdx m.b && qDataOk m.size m.d
/-- STQ and STQ.sh. -/
def wfStq (h : Hdr) (m : MemF) (sh : Bool) : Bool :=
  h.free && m.spaceOk sh && m.order != .acq && m.size != .i8 && m.size != .i16 && m.space != .p && m.baseOk &&
  isQIdx m.b && qDataOk m.size m.d

/-- PREF and CMAINT address fields: space `.g` or `.p`, base as for LD, v index. -/
def wfLine (space : Space) (a b : Reg8) : Bool :=
  (match space with | .g => isQPair a | .p => isQ a || a == 0xFF#8 | _ => false) && isVIdx b

/-- The base register of an atomic or stamp: a pair for `.g`, a single q for `.k`. -/
def gkBase (k : Bool) (a : Reg8) : Bool := if k then isQ a else isQPair a

/-- Order, scope, priority and base of a slice atomic (R47, R222). -/
def AtomF.common (m : AtomF) : Bool :=
  orderOk m.order m.scope && (!m.k || m.ep == 0) && gkBase m.k m.a

/-- Table 9.6: which operation codes exist at width W; `exchWide` allows `exch` at W 2 (ATOMQ only). -/
def atomOpOk (w : BitVec 2) (op : BitVec 4) (exchWide : Bool) : Bool :=
  match w.toNat with
  | 0 => decide (op.toNat ≤ 14)
  | 1 => decide (op.toNat ≤ 11)
  | 2 => decide (op.toNat ≤ 8) || (op.toNat == 9 && exchWide) || (decide (12 ≤ op.toNat) && decide (op.toNat ≤ 14))
  | _ => false

/-- The reply size of STAMP in words: codes 0 to 3 give 0, 1, 4 and 16 (R229). -/
def stampReply (c : BitVec 2) : Nat := match c.toNat with | 0 => 0 | 1 => 1 | 2 => 4 | _ => 16

/-- A barrier name (Table 10.2): a gang barrier immediate is 0 to 3. -/
def ObjName.ok (gang : Bool) : ObjName → Bool
  | .imm n => !gang || decide (n.toNat < 4)
  | .reg q => isQ q

/-- A handle word (Table 10.2): bit 5 of an immediate is read by HTAKE alone. -/
def HWord.ok (take : Bool) : HWord → Bool
  | .imm w => take || !w.getLsbD 5
  | .reg q => isQ q

/-- Spaces 1 to 4 of MFILL and MDRAIN, with a pair for a `.g` base. -/
def tileBase (space : Space) (a : Reg8) : Bool :=
  match space with | .p => false | .g => isQPair a | _ => isQ a

/-- Bytes of a BAGPUT record over 4: its register block (Table 14.7). -/
def recordRegs (rsz : BitVec 2) : Nat := 2 <<< rsz.toNat

/-- The scope of a system register, Table 15.1. -/
inductive SysScope where
  | t | q | s
  deriving DecidableEq, Repr

/-- Table 15.1: scope and width (true for 64 bits) of a system register number; none when the number is reserved. -/
def sysReg (n : BitVec 8) : Option (SysScope × Bool) :=
  match n.toNat with
  | 0 | 1 | 2 => some (.t, false)
  | 3 | 4 | 5 | 6 => some (.s, false)
  | 7 => some (.s, true)
  | 8 => some (.q, false)
  | 9 | 10 | 11 | 12 | 13 | 14 => some (.s, false)
  | 16 | 17 => some (.t, false)
  | 18 | 19 | 20 => some (.t, true)
  | 21 | 22 | 23 | 24 => some (.t, false)
  | 25 | 26 | 27 | 28 => some (.s, true)
  | 32 | 33 | 34 | 35 | 36 | 37 | 38 | 39 => some (.q, false)
  | _ => none

/-- MOVS and MOVSW (R375): the register exists, `.n64` only on 64-bit registers, no q operand with a T register, no v
operand of MOVSW with a Q or S register, and an operand of the named kind. -/
def wfMovs (write wide uni : Bool) (r : Reg8) (n : BitVec 8) : Bool :=
  match sysReg n with
  | none => false
  | some (sc, w64) =>
    (!wide || w64) && !(uni && sc == .t) && !(write && !uni && sc != .t) &&
    (match uni, wide with
     | true, true => isQPair r
     | true, false => isQ r
     | false, true => isVPair r
     | false, false => isV r)

/-- CVT selector: SAT with a destination of E2M1, INT4 or INT8 is reserved (R160). -/
def cvtSelOk (s : BitVec 7) : Bool :=
  !(s.getLsbD 6 && [0, 3, 4].contains (s.extractLsb' 3 3).toNat)

/-- The static decode checks of each constructor. A step of another agent has no encoding and no check. -/
def Instr.wf : Instr → Bool
  | .madwI32 d _ _ _ | .madwN32 d _ _ _ => isPair7 d
  | .isetI32 _ c _ _ _ | .isetN32 _ c _ _ _ => decide (c.toNat ≤ 5)
  | .isetI64 _ c a b _ | .isetN64 _ c a b _ => decide (c.toNat ≤ 5) && isPair7 a && isPair7 b
  | .add64 d a b _ | .sub64 d a b _ | .mul64 d a b _ => isPair7 d && isPair7 a && isPair7 b
  | .shl64 d a _ _ | .shr64 d a _ _ | .shra64 d a _ _ => isPair7 d && isPair7 a
  | .icvt d a s _ => icvtOk (isPair7 d) (isPair7 a) s
  | .leaI32 _ d a _ _ | .leaN32 _ d a _ _ => isPair7 d && isPair7 a
  | .fset _ c _ _ _ => c.toNat != 6 && c.toNat != 7
  | .frnd _ _ m _ => decide (m.toNat < 4)
  | .cvt _ _ s _ => cvtSelOk s
  | .qnt _ _ s _ | .dqnt _ _ s _ | .had _ _ s _ => decide (s.toNat < 8)
  | .unpk4 _ _ s _ => decide (s.toNat < 4)
  | .fslot _ s k _ => decide (s.toNat < 8) && decide (k.toNat < 5)
  | .uniformAluReg op d a b _ =>
    uopAssigned op && uopDOk op d && uopAOk op a && uopBOk op d a b && portsOnce op a b
  | .uniformAluImm op d a _ _ =>
    uopAssigned op && !uopUnary op && op.toNat != 0x2E && uopDOk op d && uopAOk op a
  | .moviQ d _ _ => isQPort d
  | .addQLi d a _ _ => isQPort d && isQPort a
  | .moviI64 d _ _ => isQPair d
  | .movVq d a _ => isV d && isQPort a
  | .brx a _ | .callx a _ => isVPair a
  | .vote k _ _ _ => decide (k.toNat ≤ 2)
  | .ballot d _ _ => isQ d
  | .lxch k d a b _ n _ =>
    decide (k.toNat ≤ 4) && isV d && isV a && (if k == 0 then isV b && n == 0 else b == 0)
  | .qred op d a _ => decide (op.toNat ≤ 10) && isQ d && isV a
  | .qscan op d a _ _ => decide (op.toNat ≤ 10) && isV d && isV a
  | .match_ w d a _ => isV d && (if w then isVPair a else isV a)
  | .moviLi d _ _ => isV d
  | .addLi d a _ _ | .mulLi d a _ _ | .madLi d a _ _ | .andLi d a _ _ | .orLi d a _ _ | .xorLi d a _ _
  | .faddLi d a _ _ | .fmulLi d a _ _ | .ffmaLi d a _ _ => isV d && isV a
  | .isetI32Li _ c a _ _ | .isetN32Li _ c a _ _ => decide (c.toNat ≤ 5) && isV a
  | .fsetLi _ c a _ _ => c.toNat != 6 && c.toNat != 7 && isV a
  | .ld h m => wfLd h m false
  | .ldSh h m => wfLd h m true
  | .st h m => wfSt h m false
  | .stSh h m => wfSt h m true
  | .ldq h m => wfLdq h m false
  | .ldqSh h m => wfLdq h m true
  | .stq h m => wfStq h m false
  | .stqSh h m => wfStq h m true
  | .pref _ lv sp _ a b _ => decide (lv.toNat ≤ 2) && wfLine sp a b
  | .cmaint h op sp a b _ => h.free && decide (op.toNat ≤ 2) && wfLine sp a b
  | .carve h a _ => h.free && isQ a
  | .atom h m =>
    h.writes && m.common && decide (m.w.toNat ≤ 1) && atomOpOk m.w m.op false && isVIdx m.b &&
    (if m.w == 0 then isV m.d else isVPair m.d)
  | .cas h m =>
    h.writes && m.common && decide (m.w.toNat ≤ 1) && m.op == 0 && isVIdx m.b &&
    (if m.w == 0 then isVPair m.d else isVQuad m.d)
  | .red h m =>
    h.free && m.common && m.order != .acq && m.order != .acqrel && atomOpOk m.w m.op false && isVIdx m.b &&
    (match m.w.toNat with | 0 => isV m.d | 1 => isVPair m.d | _ => isVQuad m.d)
  | .atomq h m =>
    h.writes && m.common && atomOpOk m.w m.op true && isQIdx m.b &&
    (match m.w.toNat with | 0 => isQ m.d | 1 => isQPair m.d | _ => isQQuad m.d)
  | .stamp h k rp n _ r d a b =>
    (if stampReply rp == 0 then h.free else h.writes) && gkBase k a && isVIdx b && isV d &&
    decide (n.toNat ≤ 16) && decide (r.toNat + stampReply rp ≤ 32) &&
    decide (d.toNat + n.toNat ≤ 128) && decide (d.toNat + stampReply rp ≤ 128)
  | .stampsync h _ _ => h.free
  | .nred h op d a b c => h.writes && decide (op.toNat ≤ 10) && isQ d && isQPair a && isQ b && isQ c
  | .fence h _ sc => h.free && sc != .none
  | .bararv h f => h.writes && isV f.v && f.num.ok f.gang
  | .barwt h f => h.free && isV f.v && f.num.ok f.gang
  | .barsyn h f => h.free && f.v == 0 && f.num.ok f.gang
  | .gbar h k d a _ _ =>
    decide (k.toNat ≤ 2) && (if k == 0 then h.writes && isV d else h.free && d == 0) &&
    (if k == 1 then isV a else a == 0)
  | .stdef _ a n => isQ a && n.ok false
  | .hacq h w a b => h.free && w.ok false && isQ a && isQ b
  | .hexp h w a => h.free && w.ok false && isQ a
  | .htake h w d => h.writes && w.ok true && isQ d
  | .hfree h w => h.free && w.ok false
  | .waitc h w c k _ d a b =>
    h.writes && decide (c.toNat ≤ 5) && gkBase k a && (if w then isQPair d && isQPair b else isQ d && isQ b)
  | .mload h s _ _ a b => h.free && s.ok false && isQ a && isQ b
  | .mswap _ s => s.ok false
  | .mstream h s _ _ _ a b c => h.free && s.ok false && isQ a && isQ b && isQ c
  | .mzero h s _ c => h.free && s.ok false && isQ c
  | .mfill h s sp _ a b c => h.free && s.ok false && tileBase sp a && isQ b && isQ c
  | .mdrain h s _ _ sp _ a b c => h.free && s.ok false && tileBase sp a && isQ b && isQ c
  | .mdrainv h s r _ d a =>
    h.writes && s.ok false && decide (r.toNat ≤ 2) && isV d && decide (d.toNat + 8 * (1 <<< r.toNat) ≤ 128) && isQ a
  | .mwait h => h.free
  | .mstat h _ s d => h.writes && decide (s.toNat ≤ 4) && isQ d
  | .cpdesc h _ a => h.writes && isQPair a
  | .cpload h _ w d a => h.free && w.ok false && isQ d && decide (a.toNat ≤ 155)
  | .cpstore h _ d a => h.free && isQ d && decide (a.toNat ≤ 155)
  | .cpgather h _ w d a b => h.free && w.ok false && isQ d && isQ a && isQ b
  | .cpmcast h _ w d a b => h.free && w.ok false && isQ d && decide (a.toNat ≤ 155) && isQ b
  | .cpfill h w d a b => h.free && w.ok false && isQ d && isQ a && isQ b
  | .fetchw h w d => h.writes && w.ok false && isQ d
  | .growg h d a => h.writes && isQ d && isQ a
  | .spend h _ a => h.free && isQ a
  | .bagnew h d a b c => h.writes && isQ d && isQPair a && isQ b && isQ c
  | .bagput h rsz d a b p =>
    (if p == 7 then h.free else h.writes) && isV d && decide (d.toNat + recordRegs rsz ≤ 128) && isQ a && isV b
  | .bagcut h a | .bagdrn h a | .bagfree h a => h.free && isQ a
  | .bagcnt h all d a b => h.writes && isV d && isQ a && (if all then b == 0 else isV b)
  | .bagmap h d a b => h.writes && isVPair d && decide (d.toNat ≤ 124) && isQ a && isV b
  | .baggrow h a b => h.free && isQ a && isQ b
  | .trap h _ | .svc h _ | .tret h => h.free
  | .movs _ w u d n => wfMovs false w u d n
  | .movsw _ w u a n => wfMovs true w u a n
  | .ctxsv h _ | .ctxld h _ => h.free
  | _ => true

/-- True for the 177 instructions, false for the steps of other agents, which have no encoding. -/
def Instr.isInstr : Instr → Bool
  | .clauseStart .. | .quireSwapOut .. | .quireActivate .. | .reconvergenceIssue .. | .threadRetire .. | .trapEntry ..
  | .launchAccept .. | .placementStep .. | .preemptUnitsFree .. | .teamEnd .. | .carveApply .. | .matrixOpStart ..
  | .matrixOpComplete .. | .handleWaiterExecute .. | .portWaiterIssue .. | .copyStart .. | .copyPieceDelivery ..
  | .copyComplete .. | .sliceLoadServe .. | .sliceUpdateApply .. | .sliceAtomicApply .. | .stampRun ..
  | .waitQueueResend .. | .writebackMerge .. | .memoryReply .. | .fenceComplete .. | .nredArrival .. | .nredResult ..
  | .monitorRegister .. | .waitcReply .. | .monitorPollRetry .. | .leafNoProgress .. | .planeDeclareDead ..
  | .rehashResume | .sliceReplayRequest .. | .mcRequestArrive .. | .mcCommandSlot .. | .refreshDue ..
  | .activationAlert .. | .mcQosWrite .. | .pageWalkComplete .. | .tlbinvAll .. | .tlbinvBlock .. | .tlbinvDone ..
  | .bagOpApply .. | .bagOpResend .. | .bagVerdict .. | .uceConsume .. | .uceUnconsumed .. | .gangKill .. | .dbgHalt ..
  | .dbgResume .. | .dbgKill .. | .ckSave .. | .ckRestore .. | .ckDone .. | .devEnable .. | .warmReset | .coldReset
  | .partitionReset .. | .bringupReady .. | .partitionAssign .. | .lqTailWrite .. | .eqHeadWrite .. | .registerWrite ..
  | .hostMemoryAccess .. | .peerPortAccess .. | .launch .. | .reserve .. | .commit .. | .abort .. | .kill ..
  | .getVersion | .getCapabilities | .negotiateAlgorithms .. | .getDigests | .getCertificate .. | .challenge ..
  | .getMeasurements .. | .keyExchange .. | .finish .. | .endSession .. | .keyload .. | .keydrop ..
  | .barrierUnitArrival .. | .stampCacheDrop .. | .checkedExecutionCompulsory .. => false
  | _ => true

end Sys2Proof
end

