-- ==== Sys2Proof/Decode.lean ====
section
/-! DEFINITION. The decoder, total on any words and rejecting by name, and after it the encoder, both written from
Tables 2.2 to 2.10 and the encoding tables of the chapters (R26, R31, R32, R43 to R51). -/

namespace Sys2Proof

/-- Why words are no instruction. Each raises ILLOP at issue (R50, R51). -/
inductive DecodeErr where
  /-- No word, or an F2 opcode without its second word. -/
  | truncated
  /-- An opcode the opcode map does not assign. -/
  | unassigned
  /-- A field outside its type, a reserved field that is not zero, or a reserved combination. -/
  | reserved
  deriving DecidableEq, Repr

/-- Field of a word: `n` bits from bit `lo`. -/
abbrev fld (w : Word) (lo n : Nat) : BitVec n := w.extractLsb' lo n

/-- Table 2.10, SUB[5:3]. -/
def Space.ofCode (c : BitVec 3) : Option Space :=
  match c.toNat with | 0 => some .p | 1 => some .s | 2 => some .c | 3 => some .k | 4 => some .g | _ => none
/-- Table 2.10, SUB[2:0]. -/
def Size.ofCode (c : BitVec 3) : Option Size :=
  match c.toNat with
  | 0 => some .n8 | 1 => some .i8 | 2 => some .n16 | 3 => some .i16 | 4 => some .w32 | 5 => some .w64 | 6 => some .x4
  | _ => none
/-- Table 2.10, C[4:3]. -/
def Order.ofCode (c : BitVec 2) : Order :=
  match c.toNat with | 0 => .plain | 1 => .acq | 2 => .rel | _ => .acqrel
/-- Table 2.10, C[2:0]. -/
def Scope.ofCode (c : BitVec 3) : Option Scope :=
  match c.toNat with
  | 0 => some .none | 1 => some .q | 2 => some .cr | 3 => some .cl | 4 => some .dv | 5 => some .sy | _ => none

/-- The code of a space. -/
def Space.code : Space → BitVec 3
  | .p => 0 | .s => 1 | .c => 2 | .k => 3 | .g => 4
/-- The code of a size. -/
def Size.code : Size → BitVec 3
  | .n8 => 0 | .i8 => 1 | .n16 => 2 | .i16 => 3 | .w32 => 4 | .w64 => 5 | .x4 => 6
/-- The code of an order. -/
def Order.code : Order → BitVec 2
  | .plain => 0 | .acq => 1 | .rel => 2 | .acqrel => 3
/-- The code of a scope. -/
def Scope.code : Scope → BitVec 3
  | .none => 0 | .q => 1 | .cr => 2 | .cl => 3 | .dv => 4 | .sy => 5

/-- The words of an F2 instruction, split into the fields of Table 2.3. -/
structure F2 where
  a   : Reg8
  d   : Reg8
  h   : Hdr
  imm : BitVec 10
  sub : BitVec 6
  c   : Reg8
  b   : Reg8
  li  : Word
  deriving DecidableEq, Repr

/-- Table 2.3. -/
def F2.ofWords (w0 w1 : Word) : F2 :=
  { a := fld w0 23 8, d := fld w0 15 8,
    h := { st := fld w0 8 3, seten := w0.getLsbD 14, setd := fld w0 11 3 },
    imm := fld w1 22 10, sub := fld w1 16 6, c := fld w1 8 8, b := fld w1 0 8, li := w1 }

/-- C of a memory access, apart from space and size (Table 2.10). -/
def F2.memF (f : F2) : Option MemF := do
  let scope ← Scope.ofCode (f.c.extractLsb' 0 3)
  let space ← Space.ofCode (f.sub.extractLsb' 3 3)
  let size ← Size.ofCode (f.sub.extractLsb' 0 3)
  pure { d := f.d, a := f.a, b := f.b, lu := f.c.getLsbD 7, ep := f.c.extractLsb' 5 2,
         order := Order.ofCode (f.c.extractLsb' 3 2), scope, space, size, imm := f.imm }

/-- Fields of a slice atomic (R218). -/
def F2.atomF (f : F2) : Option AtomF := do
  let scope ← Scope.ofCode (f.c.extractLsb' 0 3)
  pure { d := f.d, a := f.a, b := f.b, k := f.c.getLsbD 7, ep := f.c.extractLsb' 5 2,
         order := Order.ofCode (f.c.extractLsb' 3 2), scope, w := f.sub.extractLsb' 4 2,
         op := f.sub.extractLsb' 0 4, imm := f.imm }

/-- A barrier or station named by C[7], B and IMM10 (Table 10.2). -/
def F2.barName (f : F2) : ObjName := if f.c.getLsbD 7 then .reg f.b else .imm (f.imm.extractLsb' 0 4)
/-- A station named by IMM10 alone (R294). -/
def F2.station (f : F2) : ObjName := if f.imm.getLsbD 9 then .reg (f.imm.extractLsb' 0 8) else .imm (f.imm.extractLsb' 0 4)
/-- A handle word named by IMM10[9], C and IMM10[5:0] (Tables 10.2, 13.6). -/
def F2.handle (f : F2) : HWord := if f.imm.getLsbD 9 then .reg f.c else .imm (f.imm.extractLsb' 0 6)
/-- Fields of a team or gang barrier instruction whose phase register is `v`. -/
def F2.barF (f : F2) (v : Reg8) : Option BarF := do
  let scope ← Scope.ofCode (f.c.extractLsb' 0 3)
  pure { gang := f.sub.getLsbD 0, v, num := f.barName, scope }

/-- F1 words (Tables 2.6 and 2.7): the instruction whose opcode and fields these are, before the checks. -/
def parseF1 (w : Word) : Option Instr :=
  let b : Reg7 := fld w 25 7
  let a : Reg7 := fld w 18 7
  let d : Reg7 := fld w 11 7
  let st : BitVec 3 := fld w 8 3
  let p : BitVec 3 := fld w 11 3
  let cond : BitVec 4 := fld w 14 4
  let k : BitVec 2 := fld w 0 2
  match (fld w 0 8).toNat with
  | 0x00 => some (.add d a b st)
  | 0x01 => some (.addI32Sat d a b st)
  | 0x02 => some (.addN32Sat d a b st)
  | 0x03 => some (.addc d a b st)
  | 0x04 => some (.sub d a b st)
  | 0x05 => some (.subI32Sat d a b st)
  | 0x06 => some (.subN32Sat d a b st)
  | 0x07 => some (.subb d a b st)
  | 0x08 => some (.mul d a b st)
  | 0x09 => some (.mulhI32 d a b st)
  | 0x0A => some (.mulhN32 d a b st)
  | 0x0B => some (.mad d a b st)
  | 0x0C => some (.madwI32 d a b st)
  | 0x0D => some (.madwN32 d a b st)
  | 0x0E => some (.minI32 d a b st)
  | 0x0F => some (.minN32 d a b st)
  | 0x10 => some (.maxI32 d a b st)
  | 0x11 => some (.maxN32 d a b st)
  | 0x12 => some (.and d a b st)
  | 0x13 => some (.or d a b st)
  | 0x14 => some (.xor d a b st)
  | 0x15 => some (.andn d a b st)
  | 0x16 => some (.shl d a b st)
  | 0x17 => some (.shr d a b st)
  | 0x18 => some (.shra d a b st)
  | 0x19 => some (.rot d a b st)
  | 0x1A => some (.funnel d a b st)
  | 0x1B => some (.bfeI32 d a b st)
  | 0x1C => some (.bfeN32 d a b st)
  | 0x1D => some (.bfi d a b st)
  | 0x1E => some (.bswz d a b st)
  | 0x1F => some (.neg d a st)
  | 0x20 => some (.abs d a st)
  | 0x21 => some (.popc d a st)
  | 0x22 => some (.clz d a st)
  | 0x23 => some (.brev d a st)
  | 0x24 => some (.isetI32 p cond a b st)
  | 0x25 => some (.isetN32 p cond a b st)
  | 0x26 => some (.isetI64 p cond a b st)
  | 0x27 => some (.isetN64 p cond a b st)
  | 0x28 => some (.add64 d a b st)
  | 0x29 => some (.sub64 d a b st)
  | 0x2A => some (.mul64 d a b st)
  | 0x2B => some (.shl64 d a b st)
  | 0x2C => some (.shr64 d a b st)
  | 0x2D => some (.shra64 d a b st)
  | 0x2E => some (.icvt d a b st)
  | 0x30 | 0x31 | 0x32 | 0x33 => some (.leaI32 k d a b st)
  | 0x34 | 0x35 | 0x36 | 0x37 => some (.leaN32 k d a b st)
  | 0x38 | 0x39 | 0x3A | 0x3B | 0x3C | 0x3D | 0x3E | 0x3F => some (.sel (fld w 0 3) d a b st)
  | 0x40 | 0x41 | 0x42 | 0x43 => some (.fadd k d a b st)
  | 0x44 | 0x45 | 0x46 | 0x47 => some (.fsub k d a b st)
  | 0x48 | 0x49 | 0x4A | 0x4B => some (.fmul k d a b st)
  | 0x4C | 0x4D | 0x4E | 0x4F => some (.ffma k d a b st)
  | 0x50 | 0x51 | 0x52 | 0x53 => some (.fmin k d a b st)
  | 0x54 | 0x55 | 0x56 | 0x57 => some (.fmax k d a b st)
  | 0x58 => some (.fset p cond a b st)
  | 0x59 => some (.frnd d a b st)
  | 0x5A => some (.fclass d a st)
  | 0x5B => some (.fsqrt d a st)
  | 0x5C => some (.frcp d a st)
  | 0x5D => some (.frsq d a st)
  | 0x5E => some (.fex2 d a st)
  | 0x5F => some (.flg2 d a st)
  | 0x60 => some (.pkaddF16 d a b st)
  | 0x61 => some (.pkmulF16 d a b st)
  | 0x62 => some (.pkfmaF16 d a b st)
  | 0x63 => some (.pkfmaBf16 d a b st)
  | 0x70 => some (.cvt d a b st)
  | 0x71 => some (.qnt d a b st)
  | 0x72 => some (.dqnt d a b st)
  | 0x73 => some (.had d a b st)
  | 0x74 => some (.pack4 d a b st)
  | 0x75 => some (.unpk4 d a b st)
  | 0x76 => some (.scale d a b st)
  | 0x77 => some (.fslot d a b st)
  | _ => none

/-- Uniform, control, quire-wide and long-immediate opcodes (Table 2.8). -/
def parseControl (op : Nat) (f : F2) : Option Instr :=
  let st := f.h.st
  let p3 (r : Reg8) : BitVec 3 := r.extractLsb' 0 3
  match op with
  | 0x80 => some (.uniformAluReg f.sub f.d f.a f.b st)
  | 0x81 => some (.uniformAluImm f.sub f.d f.a f.imm st)
  | 0x82 => some (.moviQ f.d f.li st)
  | 0x83 => some (.addQLi f.d f.a f.li st)
  | 0x84 => some (.moviI64 f.d f.li st)
  | 0x85 => some (.movVq f.d f.a st)
  | 0x90 => some (.bra f.li st)
  | 0x91 => some (.brq (f.a.getLsbD 3) (p3 f.a) f.li st)
  | 0x92 => some (.call f.li st)
  | 0x93 => some (.brx f.a st)
  | 0x94 => some (.callx f.a st)
  | 0x95 => if f.sub = 0 then some (.ret st) else some (.exit st)
  | 0x96 => if f.sub = 0 then some (.nop st) else some (.yield st)
  | 0x97 => some (.qsync st)
  | 0x98 => some (.plop (p3 f.d) (p3 f.a) (p3 f.b) (p3 f.c) (f.imm.extractLsb' 0 8) st)
  | 0x99 => some (.qplop (p3 f.d) (p3 f.a) (p3 f.b) (p3 f.c) (f.imm.extractLsb' 0 8) st)
  | 0x9A => some (.vote (f.sub.extractLsb' 0 2) (p3 f.d) (p3 f.a) st)
  | 0x9B => some (.ballot f.d (p3 f.a) st)
  | 0x9C => some (.lxch (f.sub.extractLsb' 0 3) f.d f.a f.b (p3 f.c) (f.imm.extractLsb' 0 5) st)
  | 0x9D => some (.qred (f.sub.extractLsb' 0 4) f.d f.a st)
  | 0x9E => some (.qscan (f.sub.extractLsb' 0 4) f.d f.a (f.c.getLsbD 0) st)
  | 0x9F => some (.match_ (f.sub.getLsbD 0) f.d f.a st)
  | 0xE0 => some (.moviLi f.d f.li st)
  | 0xE1 => some (.addLi f.d f.a f.li st)
  | 0xE2 => some (.mulLi f.d f.a f.li st)
  | 0xE3 => some (.madLi f.d f.a f.li st)
  | 0xE4 => some (.andLi f.d f.a f.li st)
  | 0xE5 => some (.orLi f.d f.a f.li st)
  | 0xE6 => some (.xorLi f.d f.a f.li st)
  | 0xE7 => some (.isetI32Li (p3 f.d) (f.d.extractLsb' 3 4) f.a f.li st)
  | 0xE8 => some (.isetN32Li (p3 f.d) (f.d.extractLsb' 3 4) f.a f.li st)
  | 0xE9 => some (.faddLi f.d f.a f.li st)
  | 0xEA => some (.fmulLi f.d f.a f.li st)
  | 0xEB => some (.ffmaLi f.d f.a f.li st)
  | 0xEC => some (.fsetLi (p3 f.d) (f.d.extractLsb' 3 4) f.a f.li st)
  | _ => none

/-- Memory, atomic and sync opcodes (Table 2.9, 0xA0 to 0xBF). -/
def parseMemory (op : Nat) (f : F2) : Option Instr :=
  match op with
  | 0xA0 => f.memF.map (.ld f.h)
  | 0xA1 => f.memF.map (.ldSh f.h)
  | 0xA2 => f.memF.map (.st f.h)
  | 0xA3 => f.memF.map (.stSh f.h)
  | 0xA4 => f.memF.map (.ldq f.h)
  | 0xA5 => f.memF.map (.ldqSh f.h)
  | 0xA6 => f.memF.map (.stq f.h)
  | 0xA7 => f.memF.map (.stqSh f.h)
  | 0xA8 => (Space.ofCode (f.sub.extractLsb' 3 3)).map fun sp =>
      .pref f.h.st (f.sub.extractLsb' 0 2) sp (f.c.extractLsb' 5 2) f.a f.b f.imm
  | 0xA9 => (Space.ofCode (f.sub.extractLsb' 3 3)).map fun sp => .cmaint f.h (f.sub.extractLsb' 0 2) sp f.a f.b f.imm
  | 0xAA => some (.carve f.h f.a (f.imm.extractLsb' 0 4))
  | 0xB0 => f.atomF.map (.atom f.h)
  | 0xB1 => f.atomF.map (.cas f.h)
  | 0xB2 => f.atomF.map (.red f.h)
  | 0xB3 => f.atomF.map (.atomq f.h)
  | 0xB4 => some (.stamp f.h (f.c.getLsbD 7) (f.c.extractLsb' 5 2) (f.c.extractLsb' 0 5) f.sub (f.imm.extractLsb' 0 5)
      f.d f.a f.b)
  | 0xB5 => some (.stampsync f.h (f.c.getLsbD 0) f.sub)
  | 0xB6 => some (.nred f.h (f.sub.extractLsb' 0 4) f.d f.a f.b f.c)
  | 0xB8 => (Scope.ofCode (f.sub.extractLsb' 0 3)).bind fun sc =>
      match (f.sub.extractLsb' 3 2).toNat with
      | 1 => some (.fence f.h .acq sc) | 2 => some (.fence f.h .rel sc) | 3 => some (.fence f.h .full sc) | _ => none
  | 0xB9 => (f.barF f.d).map (.bararv f.h)
  | 0xBA => (f.barF f.a).map (.barwt f.h)
  | 0xBB => (f.barF 0).map (.barsyn f.h)
  | 0xBC => (Scope.ofCode (f.c.extractLsb' 0 3)).map fun sc =>
      .gbar f.h (f.sub.extractLsb' 0 2) f.d f.a sc (f.imm.extractLsb' 0 2)
  | 0xBD => some (.stdef f.h.st f.a f.barName)
  | 0xBE =>
      match f.sub.toNat with
      | 0 => some (.hacq f.h f.handle f.a f.b)
      | 1 => some (.hexp f.h f.handle f.a)
      | 2 => some (.htake f.h f.handle f.d)
      | 3 => some (.hfree f.h f.handle)
      | _ => none
  | 0xBF => (Scope.ofCode (f.c.extractLsb' 0 3)).map fun sc =>
      .waitc f.h (f.sub.getLsbD 4) (f.sub.extractLsb' 0 4) (f.c.getLsbD 7) sc f.d f.a f.b
  | _ => none

/-- Matrix, copy, bag and system opcodes (Table 2.9, 0xC0 to 0xDF and 0xF0 to 0xF7). -/
def parseUnits (op : Nat) (f : F2) : Option Instr :=
  let h := f.h
  let slot4 : BitVec 4 := f.sub.extractLsb' 0 4
  let tile : BitVec 2 := f.sub.extractLsb' 0 2
  match op with
  | 0xC0 => some (.mload h f.station (f.sub.getLsbD 3) (f.sub.extractLsb' 0 3) f.a f.b)
  | 0xC1 => some (.mswap h.st f.station)
  | 0xC2 => some (.mstream h f.station (f.sub.getLsbD 5) (f.sub.extractLsb' 2 3) tile f.a f.b f.c)
  | 0xC3 => some (.mzero h f.station tile f.c)
  | 0xC4 => (Space.ofCode (f.sub.extractLsb' 2 3)).map fun sp => .mfill h f.station sp tile f.a f.b f.c
  | 0xC5 => (Space.ofCode (f.sub.extractLsb' 2 3)).map fun sp =>
      .mdrain h f.station (f.d.getLsbD 0) (f.sub.getLsbD 5) sp tile f.a f.b f.c
  | 0xC6 => some (.mdrainv h f.station (f.sub.extractLsb' 2 2) tile f.d f.a)
  | 0xC7 => some (.mopf h.st)
  | 0xC8 => some (.mwait h)
  | 0xC9 => some (.mstat h (f.sub.getLsbD 5) (f.sub.extractLsb' 0 3) f.d)
  | 0xD0 => some (.cpdesc h slot4 f.a)
  | 0xD1 => some (.cpload h slot4 f.handle f.d f.a)
  | 0xD2 => some (.cpstore h slot4 f.d f.a)
  | 0xD3 => some (.cpgather h slot4 f.handle f.d f.a f.b)
  | 0xD4 => some (.cpmcast h slot4 f.handle f.d f.a f.b)
  | 0xD5 => some (.cpfill h f.handle f.d f.a f.b)
  | 0xD6 => if f.sub = 0 then some (.fetchw h f.handle f.d) else some (.growg h f.d f.a)
  | 0xD7 => some (.spend h (f.sub.getLsbD 0) f.a)
  | 0xD8 => some (.bagnew h f.d f.a f.b f.c)
  | 0xD9 => some (.bagput h (f.sub.extractLsb' 0 2) f.d f.a f.b (f.c.extractLsb' 0 3))
  | 0xDA => some (.bagcut h f.a)
  | 0xDB => some (.bagcnt h (f.sub.getLsbD 0) f.d f.a f.b)
  | 0xDC => some (.bagmap h f.d f.a f.b)
  | 0xDD => some (.bagdrn h f.a)
  | 0xDE => some (.baggrow h f.a f.b)
  | 0xDF => some (.bagfree h f.a)
  | 0xF0 => some (.trap h (f.imm.extractLsb' 0 8))
  | 0xF1 => some (.svc h (f.imm.extractLsb' 0 8))
  | 0xF2 => some (.tret h)
  | 0xF3 => some (.movs h.st (f.sub.getLsbD 1) (f.sub.getLsbD 0) f.d f.b)
  | 0xF4 => some (.movsw h.st (f.sub.getLsbD 1) (f.sub.getLsbD 0) f.a f.b)
  | 0xF5 => some (.brk h.st (f.imm.extractLsb' 0 8))
  | 0xF6 => some (.ctxsv h (f.sub.extractLsb' 0 2))
  | 0xF7 => some (.ctxld h (f.sub.extractLsb' 0 2))
  | _ => none

/-- F2 words by the ranges of Table 1.3. -/
def parseF2 (w0 w1 : Word) : Option Instr :=
  let op := (fld w0 0 8).toNat
  let f := F2.ofWords w0 w1
  if op < 0xA0 then parseControl op f
  else if op < 0xC0 then parseMemory op f
  else if op < 0xE0 then parseUnits op f
  else if op < 0xF0 then parseControl op f
  else parseUnits op f

/-! ### The encoder -/

/-- Table 2.2. -/
def f1Word (op : BitVec 8) (st : BitVec 3) (d a b : Reg7) : Word := (b ++ a ++ d ++ st ++ op : BitVec (7 + 7 + 7 + 3 + 8))

/-- Table 2.3, word 0. -/
def f2Word0 (op : BitVec 8) (h : Hdr) (d a : Reg8) : Word :=
  (0#1 ++ a ++ d ++ BitVec.ofBool h.seten ++ h.setd ++ h.st ++ op : BitVec (1 + 8 + 8 + 1 + 3 + 3 + 8))

/-- Table 2.3, word 1. -/
def f2Word1 (imm : BitVec 10) (sub : BitVec 6) (c b : Reg8) : Word := (imm ++ sub ++ c ++ b : BitVec (10 + 6 + 8 + 8))

/-- An F2 instruction. -/
def encF2 (op : BitVec 8) (h : Hdr) (d a : Reg8) (imm : BitVec 10) (sub : BitVec 6) (c b : Reg8) : List Word :=
  [f2Word0 op h d a, f2Word1 imm sub c b]

/-- SETEN and SETD of an instruction of fixed latency (R33). -/
def Hdr.fixed (st : BitVec 3) : Hdr := { st, seten := false, setd := 0 }

/-- A predicate register number in an 8-bit field. -/
abbrev pf (p : BitVec 3) : Reg8 := p.setWidth 8
/-- A pc field of 7 bits (Table 2.4). -/
abbrev pc7 (p : BitVec 3) (c : BitVec 4) : Reg7 := (c ++ p : BitVec (4 + 3))
/-- A pc field of 8 bits. -/
abbrev pc8 (p : BitVec 3) (c : BitVec 4) : Reg8 := (0#1 ++ c ++ p : BitVec (1 + 4 + 3))

/-- C of a memory access (Table 2.10). -/
def MemF.c (m : MemF) : Reg8 :=
  (BitVec.ofBool m.lu ++ m.ep ++ m.order.code ++ m.scope.code : BitVec (1 + 2 + 2 + 3))
/-- SUB of a memory access. -/
def MemF.sub (m : MemF) : BitVec 6 := (m.space.code ++ m.size.code : BitVec (3 + 3))
/-- C of a slice atomic. -/
def AtomF.c (m : AtomF) : Reg8 :=
  (BitVec.ofBool m.k ++ m.ep ++ m.order.code ++ m.scope.code : BitVec (1 + 2 + 2 + 3))

/-- The words of a memory access. -/
def encMem (op : BitVec 8) (h : Hdr) (m : MemF) : List Word := encF2 op h m.d m.a m.imm m.sub m.c m.b
/-- The words of a slice atomic. -/
def encAtom (op : BitVec 8) (h : Hdr) (m : AtomF) : List Word :=
  encF2 op h m.d m.a m.imm (m.w ++ m.op : BitVec (2 + 4)) m.c m.b
/-- A long-immediate instruction. -/
def encLi (op : BitVec 8) (st : BitVec 3) (d a : Reg8) (imm : Word) : List Word := [f2Word0 op (.fixed st) d a, imm]

/-- B of an object named as in Table 10.2. -/
def ObjName.b : ObjName → Reg8 | .imm _ => 0 | .reg q => q
/-- C[7] of an object named as in Table 10.2. -/
def ObjName.fromReg : ObjName → Bool | .imm _ => false | .reg _ => true
/-- IMM10 of an object named as in Table 10.2. -/
def ObjName.imm10 : ObjName → BitVec 10 | .imm n => n.setWidth 10 | .reg _ => 0
/-- IMM10 of a station named as in R294. -/
def ObjName.station : ObjName → BitVec 10
  | .imm n => n.setWidth 10
  | .reg q => (1#1 ++ 0#1 ++ q : BitVec (1 + 1 + 8))
/-- IMM10 of a handle word. -/
def HWord.imm10 : HWord → BitVec 10 | .imm w => w.setWidth 10 | .reg _ => 0x200
/-- C of a handle word. -/
def HWord.c : HWord → Reg8 | .imm _ => 0 | .reg q => q

/-- The words of BARARV, BARWT and BARSYN. -/
def encBar (op : BitVec 8) (h : Hdr) (d a : Reg8) (f : BarF) : List Word :=
  encF2 op h d a f.num.imm10 ((0#5 ++ BitVec.ofBool f.gang : BitVec (5 + 1)))
    (BitVec.ofBool f.num.fromReg ++ 0#4 ++ f.scope.code : BitVec (1 + 4 + 3)) f.num.b

/-- FENCE kind, SUB[4:3]. -/
def FenceKind.code : FenceKind → BitVec 2 | .acq => 1 | .rel => 2 | .full => 3

/-- One bit as a field of width 6. -/
abbrev bit6 (b : Bool) : BitVec 6 := (0#5 ++ BitVec.ofBool b : BitVec (5 + 1))

/-- An F1 instruction whose opcode carries two low bits. -/
abbrev op2 (hi : BitVec 6) (k : BitVec 2) : BitVec 8 := (hi ++ k : BitVec (6 + 2))

/-- The F1 words of an instruction of Table 2.6 or 2.7. -/
def encodeF1 : Instr → List Word
  | .add d a b st => [f1Word 0x00 st d a b]
  | .addI32Sat d a b st => [f1Word 0x01 st d a b]
  | .addN32Sat d a b st => [f1Word 0x02 st d a b]
  | .addc d a b st => [f1Word 0x03 st d a b]
  | .sub d a b st => [f1Word 0x04 st d a b]
  | .subI32Sat d a b st => [f1Word 0x05 st d a b]
  | .subN32Sat d a b st => [f1Word 0x06 st d a b]
  | .subb d a b st => [f1Word 0x07 st d a b]
  | .mul d a b st => [f1Word 0x08 st d a b]
  | .mulhI32 d a b st => [f1Word 0x09 st d a b]
  | .mulhN32 d a b st => [f1Word 0x0A st d a b]
  | .mad d a b st => [f1Word 0x0B st d a b]
  | .madwI32 d a b st => [f1Word 0x0C st d a b]
  | .madwN32 d a b st => [f1Word 0x0D st d a b]
  | .minI32 d a b st => [f1Word 0x0E st d a b]
  | .minN32 d a b st => [f1Word 0x0F st d a b]
  | .maxI32 d a b st => [f1Word 0x10 st d a b]
  | .maxN32 d a b st => [f1Word 0x11 st d a b]
  | .and d a b st => [f1Word 0x12 st d a b]
  | .or d a b st => [f1Word 0x13 st d a b]
  | .xor d a b st => [f1Word 0x14 st d a b]
  | .andn d a b st => [f1Word 0x15 st d a b]
  | .shl d a b st => [f1Word 0x16 st d a b]
  | .shr d a b st => [f1Word 0x17 st d a b]
  | .shra d a b st => [f1Word 0x18 st d a b]
  | .rot d a b st => [f1Word 0x19 st d a b]
  | .funnel d a b st => [f1Word 0x1A st d a b]
  | .bfeI32 d a b st => [f1Word 0x1B st d a b]
  | .bfeN32 d a b st => [f1Word 0x1C st d a b]
  | .bfi d a b st => [f1Word 0x1D st d a b]
  | .bswz d a b st => [f1Word 0x1E st d a b]
  | .neg d a st => [f1Word 0x1F st d a 0]
  | .abs d a st => [f1Word 0x20 st d a 0]
  | .popc d a st => [f1Word 0x21 st d a 0]
  | .clz d a st => [f1Word 0x22 st d a 0]
  | .brev d a st => [f1Word 0x23 st d a 0]
  | .isetI32 p c a b st => [f1Word 0x24 st (pc7 p c) a b]
  | .isetN32 p c a b st => [f1Word 0x25 st (pc7 p c) a b]
  | .isetI64 p c a b st => [f1Word 0x26 st (pc7 p c) a b]
  | .isetN64 p c a b st => [f1Word 0x27 st (pc7 p c) a b]
  | .add64 d a b st => [f1Word 0x28 st d a b]
  | .sub64 d a b st => [f1Word 0x29 st d a b]
  | .mul64 d a b st => [f1Word 0x2A st d a b]
  | .shl64 d a b st => [f1Word 0x2B st d a b]
  | .shr64 d a b st => [f1Word 0x2C st d a b]
  | .shra64 d a b st => [f1Word 0x2D st d a b]
  | .icvt d a s st => [f1Word 0x2E st d a s]
  | .leaI32 k d a b st => [f1Word (op2 12#6 k) st d a b]
  | .leaN32 k d a b st => [f1Word (op2 13#6 k) st d a b]
  | .sel p d a b st => [f1Word ((7#5 ++ p : BitVec (5 + 3))) st d a b]
  | .fadd m d a b st => [f1Word (op2 16#6 m) st d a b]
  | .fsub m d a b st => [f1Word (op2 17#6 m) st d a b]
  | .fmul m d a b st => [f1Word (op2 18#6 m) st d a b]
  | .ffma m d a b st => [f1Word (op2 19#6 m) st d a b]
  | .fmin m d a b st => [f1Word (op2 20#6 m) st d a b]
  | .fmax m d a b st => [f1Word (op2 21#6 m) st d a b]
  | .fset p c a b st => [f1Word 0x58 st (pc7 p c) a b]
  | .frnd d a m st => [f1Word 0x59 st d a m]
  | .fclass d a st => [f1Word 0x5A st d a 0]
  | .fsqrt d a st => [f1Word 0x5B st d a 0]
  | .frcp d a st => [f1Word 0x5C st d a 0]
  | .frsq d a st => [f1Word 0x5D st d a 0]
  | .fex2 d a st => [f1Word 0x5E st d a 0]
  | .flg2 d a st => [f1Word 0x5F st d a 0]
  | .pkaddF16 d a b st => [f1Word 0x60 st d a b]
  | .pkmulF16 d a b st => [f1Word 0x61 st d a b]
  | .pkfmaF16 d a b st => [f1Word 0x62 st d a b]
  | .pkfmaBf16 d a b st => [f1Word 0x63 st d a b]
  | .cvt d a s st => [f1Word 0x70 st d a s]
  | .qnt d a s st => [f1Word 0x71 st d a s]
  | .dqnt d a s st => [f1Word 0x72 st d a s]
  | .had d a s st => [f1Word 0x73 st d a s]
  | .pack4 d a b st => [f1Word 0x74 st d a b]
  | .unpk4 d a s st => [f1Word 0x75 st d a s]
  | .scale d a b st => [f1Word 0x76 st d a b]
  | .fslot d s k st => [f1Word 0x77 st d s k]
  | _ => []

/-- The words of a class 0 instruction in format F2 (Table 2.8, Table 4.3). -/
def encodeControl : Instr → List Word
  | .uniformAluReg op d a b st => encF2 0x80 (.fixed st) d a 0 op 0 b
  | .uniformAluImm op d a imm st => encF2 0x81 (.fixed st) d a imm op 0 0
  | .moviQ d imm st => encLi 0x82 st d 0 imm
  | .addQLi d a imm st => encLi 0x83 st d a imm
  | .moviI64 d imm st => encLi 0x84 st d 0 imm
  | .movVq d a st => encF2 0x85 (.fixed st) d a 0 0 0 0
  | .bra off st => encLi 0x90 st 0 0 off
  | .brq n q off st => encLi 0x91 st 0 (0#4 ++ BitVec.ofBool n ++ q : BitVec (4 + 1 + 3)) off
  | .call off st => encLi 0x92 st 0 0 off
  | .brx a st => encF2 0x93 (.fixed st) 0 a 0 0 0 0
  | .callx a st => encF2 0x94 (.fixed st) 0 a 0 0 0 0
  | .ret st => encF2 0x95 (.fixed st) 0 0 0 0 0 0
  | .exit st => encF2 0x95 (.fixed st) 0 0 0 1 0 0
  | .nop st => encF2 0x96 (.fixed st) 0 0 0 0 0 0
  | .yield st => encF2 0x96 (.fixed st) 0 0 0 1 0 0
  | .qsync st => encF2 0x97 (.fixed st) 0 0 0 0 0 0
  | .plop d a b c t st => encF2 0x98 (.fixed st) (pf d) (pf a) (t.setWidth 10) 0 (pf c) (pf b)
  | .qplop d a b c t st => encF2 0x99 (.fixed st) (pf d) (pf a) (t.setWidth 10) 0 (pf c) (pf b)
  | .vote k d a st => encF2 0x9A (.fixed st) (pf d) (pf a) 0 (k.setWidth 6) 0 0
  | .ballot d a st => encF2 0x9B (.fixed st) d (pf a) 0 0 0 0
  | .lxch k d a b c n st => encF2 0x9C (.fixed st) d a (n.setWidth 10) (k.setWidth 6) (pf c) b
  | .qred op d a st => encF2 0x9D (.fixed st) d a 0 (op.setWidth 6) 0 0
  | .qscan op d a x st => encF2 0x9E (.fixed st) d a 0 (op.setWidth 6) ((BitVec.ofBool x).setWidth 8) 0
  | .match_ w d a st => encF2 0x9F (.fixed st) d a 0 (bit6 w) 0 0
  | .moviLi d imm st => encLi 0xE0 st d 0 imm
  | .addLi d a imm st => encLi 0xE1 st d a imm
  | .mulLi d a imm st => encLi 0xE2 st d a imm
  | .madLi d a imm st => encLi 0xE3 st d a imm
  | .andLi d a imm st => encLi 0xE4 st d a imm
  | .orLi d a imm st => encLi 0xE5 st d a imm
  | .xorLi d a imm st => encLi 0xE6 st d a imm
  | .isetI32Li p c a imm st => encLi 0xE7 st (pc8 p c) a imm
  | .isetN32Li p c a imm st => encLi 0xE8 st (pc8 p c) a imm
  | .faddLi d a imm st => encLi 0xE9 st d a imm
  | .fmulLi d a imm st => encLi 0xEA st d a imm
  | .ffmaLi d a imm st => encLi 0xEB st d a imm
  | .fsetLi p c a imm st => encLi 0xEC st (pc8 p c) a imm
  | _ => []

/-- The words of a class 1 or class 5 instruction (Tables 8.10, 9.5, 10.2). -/
def encodeMemory : Instr → List Word
  | .ld h m => encMem 0xA0 h m
  | .ldSh h m => encMem 0xA1 h m
  | .st h m => encMem 0xA2 h m
  | .stSh h m => encMem 0xA3 h m
  | .ldq h m => encMem 0xA4 h m
  | .ldqSh h m => encMem 0xA5 h m
  | .stq h m => encMem 0xA6 h m
  | .stqSh h m => encMem 0xA7 h m
  | .pref st lv sp ep a b imm =>
    encF2 0xA8 (.fixed st) 0 a imm (sp.code ++ 0#1 ++ lv : BitVec (3 + 1 + 2)) (0#1 ++ ep ++ 0#5 : BitVec (1 + 2 + 5)) b
  | .cmaint h op sp a b imm => encF2 0xA9 h 0 a imm (sp.code ++ 0#1 ++ op : BitVec (3 + 1 + 2)) 0 b
  | .carve h a bar => encF2 0xAA h 0 a (bar.setWidth 10) 0 0 0
  | .atom h m => encAtom 0xB0 h m
  | .cas h m => encAtom 0xB1 h m
  | .red h m => encAtom 0xB2 h m
  | .atomq h m => encAtom 0xB3 h m
  | .stamp h k rp n idx r d a b =>
    encF2 0xB4 h d a (r.setWidth 10) idx (BitVec.ofBool k ++ rp ++ n : BitVec (1 + 2 + 5)) b
  | .stampsync h all idx => encF2 0xB5 h 0 0 0 idx ((BitVec.ofBool all).setWidth 8) 0
  | .nred h op d a b c => encF2 0xB6 h d a 0 (op.setWidth 6) c b
  | .fence h k sc => encF2 0xB8 h 0 0 0 (0#1 ++ k.code ++ sc.code : BitVec (1 + 2 + 3)) 0 0
  | .bararv h f => encBar 0xB9 h f.v 0 f
  | .barwt h f => encBar 0xBA h 0 f.v f
  | .barsyn h f => encBar 0xBB h 0 0 f
  | .gbar h k d a sc n => encF2 0xBC h d a (n.setWidth 10) (k.setWidth 6) (sc.code.setWidth 8) 0
  | .stdef st a n => encF2 0xBD (.fixed st) 0 a n.imm10 0 (BitVec.ofBool n.fromReg ++ 0#7 : BitVec (1 + 7)) n.b
  | .hacq h w a b => encF2 0xBE h 0 a w.imm10 0 w.c b
  | .hexp h w a => encF2 0xBE h 0 a w.imm10 1 w.c 0
  | .htake h w d => encF2 0xBE h d 0 w.imm10 2 w.c 0
  | .hfree h w => encF2 0xBE h 0 0 w.imm10 3 w.c 0
  | .waitc h w c k sc d a b =>
    encF2 0xBF h d a 0 (0#1 ++ BitVec.ofBool w ++ c : BitVec (1 + 1 + 4)) (BitVec.ofBool k ++ 0#4 ++ sc.code : BitVec (1 + 4 + 3)) b
  | _ => []

/-- The words of an instruction of classes 2, 3, 4 and 6 (Tables 12.6, 13.6, 14.7, 15.5). -/
def encodeUnits : Instr → List Word
  | .mload h s t slot a b => encF2 0xC0 h 0 a s.station (0#2 ++ BitVec.ofBool t ++ slot : BitVec (2 + 1 + 3)) 0 b
  | .mswap st s => encF2 0xC1 (.fixed st) 0 0 s.station 0 0 0
  | .mstream h s z slot tile a b c =>
    encF2 0xC2 h 0 a s.station (BitVec.ofBool z ++ slot ++ tile : BitVec (1 + 3 + 2)) c b
  | .mzero h s tile c => encF2 0xC3 h 0 0 s.station (tile.setWidth 6) c 0
  | .mfill h s sp tile a b c => encF2 0xC4 h 0 a s.station (0#1 ++ sp.code ++ tile : BitVec (1 + 3 + 2)) c b
  | .mdrain h s bf add sp tile a b c =>
    encF2 0xC5 h ((BitVec.ofBool bf).setWidth 8) a s.station (BitVec.ofBool add ++ sp.code ++ tile : BitVec (1 + 3 + 2)) c b
  | .mdrainv h s r tile d a => encF2 0xC6 h d a s.station (0#2 ++ r ++ tile : BitVec (2 + 2 + 2)) 0 0
  | .mopf st => encF2 0xC7 (.fixed st) 0 0 0 0 0 0
  | .mwait h => encF2 0xC8 h 0 0 0 0 0 0
  | .mstat h clr s d => encF2 0xC9 h d 0 0 (BitVec.ofBool clr ++ 0#2 ++ s : BitVec (1 + 2 + 3)) 0 0
  | .cpdesc h slot a => encF2 0xD0 h 0 a 0 (slot.setWidth 6) 0 0
  | .cpload h slot w d a => encF2 0xD1 h d a w.imm10 (slot.setWidth 6) w.c 0
  | .cpstore h slot d a => encF2 0xD2 h d a 0 (slot.setWidth 6) 0 0
  | .cpgather h slot w d a b => encF2 0xD3 h d a w.imm10 (slot.setWidth 6) w.c b
  | .cpmcast h slot w d a b => encF2 0xD4 h d a w.imm10 (slot.setWidth 6) w.c b
  | .cpfill h w d a b => encF2 0xD5 h d a w.imm10 0 w.c b
  | .fetchw h w d => encF2 0xD6 h d 0 w.imm10 0 w.c 0
  | .growg h d a => encF2 0xD6 h d a 0 1 0 0
  | .spend h g a => encF2 0xD7 h 0 a 0 (bit6 g) 0 0
  | .bagnew h d a b c => encF2 0xD8 h d a 0 0 c b
  | .bagput h r d a b p => encF2 0xD9 h d a 0 (r.setWidth 6) (pf p) b
  | .bagcut h a => encF2 0xDA h 0 a 0 0 0 0
  | .bagcnt h all d a b => encF2 0xDB h d a 0 (bit6 all) 0 b
  | .bagmap h d a b => encF2 0xDC h d a 0 0 0 b
  | .bagdrn h a => encF2 0xDD h 0 a 0 0 0 0
  | .baggrow h a b => encF2 0xDE h 0 a 0 0 0 b
  | .bagfree h a => encF2 0xDF h 0 a 0 0 0 0
  | .trap h n => encF2 0xF0 h 0 0 (n.setWidth 10) 0 0 0
  | .svc h n => encF2 0xF1 h 0 0 (n.setWidth 10) 0 0 0
  | .tret h => encF2 0xF2 h 0 0 0 0 0 0
  | .movs st w u d n => encF2 0xF3 (.fixed st) d 0 0 (0#4 ++ BitVec.ofBool w ++ BitVec.ofBool u : BitVec (4 + 1 + 1)) 0 n
  | .movsw st w u a n => encF2 0xF4 (.fixed st) 0 a 0 (0#4 ++ BitVec.ofBool w ++ BitVec.ofBool u : BitVec (4 + 1 + 1)) 0 n
  | .brk st n => encF2 0xF5 (.fixed st) 0 0 (n.setWidth 10) 0 0 0
  | .ctxsv h k => encF2 0xF6 h 0 0 0 (k.setWidth 6) 0 0
  | .ctxld h k => encF2 0xF7 h 0 0 0 (k.setWidth 6) 0 0
  | _ => []

/-- The words of an instruction; a step of another agent has none. -/
def encode (i : Instr) : List Word :=
  encodeF1 i ++ encodeControl i ++ encodeMemory i ++ encodeUnits i

/-! ### The decoder -/

/-- The instruction read from words: the parse, accepted only when every field it does not name is zero (its encoding
gives the same words back) and the checks of `Instr.wf` hold. -/
def accept (i : Option Instr) (ws : List Word) (rest : List Word) : Except DecodeErr (Instr × List Word) :=
  match i with
  | none => .error .unassigned
  | some i => if i.wf && encode i == ws then .ok (i, rest) else .error .reserved

/-- R26, R31, R32, R43: decode the instruction at the head of `ws`; the rest of the words is handed back. -/
def decode (ws : List Word) : Except DecodeErr (Instr × List Word) :=
  match ws with
  | [] => .error .truncated
  | w0 :: rest =>
    if (fld w0 0 8).toNat < 0x80 then accept (parseF1 w0) [w0] rest
    else match rest with
      | [] => .error .truncated
      | w1 :: rest' => accept (parseF2 w0 w1) [w0, w1] rest'

/-- A little-endian word from four bytes (R4). -/
def wordOfBytes (b0 b1 b2 b3 : Byte) : Word := (b3 ++ b2 ++ b1 ++ b0 : BitVec (8 + 8 + 8 + 8))

/-- The bytes of a word, lowest address first (R4). -/
def bytesOfWord (w : Word) : List Byte := [fld w 0 8, fld w 8 8, fld w 16 8, fld w 24 8]

/-- The words of a byte string; trailing bytes that fill no word are dropped. -/
def wordsOfBytes : List Byte → List Word
  | b0 :: b1 :: b2 :: b3 :: rest => wordOfBytes b0 b1 b2 b3 :: wordsOfBytes rest
  | _ => []

/-- The bytes of words in order. -/
def bytesOfWords : List Word → List Byte
  | [] => []
  | w :: ws => bytesOfWord w ++ bytesOfWords ws

/-- The two words of a table value: bit 0 is the least significant bit of the first word; bits above `nbits` are 0. -/
def tableWords (nbits w : Nat) : List Word :=
  let v := w % 2 ^ nbits
  [BitVec.ofNat 32 v, BitVec.ofNat 32 (v >>> 32)]

/-- The instruction the decoder reads from an opcode-table value laid out in memory byte order. -/
def decodeTableWord (nbits w : Nat) : Option Instr :=
  match decode (wordsOfBytes (bytesOfWords (tableWords nbits w))) with
  | .ok (i, _) => some i
  | .error _ => none

end Sys2Proof
end

