-- ==== Sys2Proof/Machine/Flags.lean ====
section
/-! DEFINITION. The flags register (Table 5.2), condition codes (Table 2.5) and predicates of comparison. -/

namespace Sys2Proof.Machine

/-- A set of sticky flags to be ORed into `%flags`: bits NV 0, DZ 1, OF 2, UF 3, NX 4, SAT 5, CHK 6 (Table 5.2). -/
abbrev Flags := BitVec 7

/-- Invalid, including reserved narrow codes. -/
def fNV : Flags := 0x01
/-- Division by zero. -/
def fDZ : Flags := 0x02
/-- Overflow. -/
def fOF : Flags := 0x04
/-- Underflow. -/
def fUF : Flags := 0x08
/-- Inexact. -/
def fNX : Flags := 0x10
/-- A saturating integer form clamped a result. -/
def fSAT : Flags := 0x20
/-- A checked instruction took the majority (R108). -/
def fCHK : Flags := 0x40

/-- The flag set `f` when `c` holds, nothing otherwise. -/
def flagIf (c : Bool) (f : Flags) : Flags := if c then f else 0

/-- R106: a set is an OR into the register. -/
def setFlags (flags : Word) (f : Flags) : Word := flags ||| f.setWidth 32

/-- R375, W1C: the bits that are 1 in the source are cleared. -/
def clearFlags (flags src : Word) : Word := flags &&& ~~~ src

/-- Table 2.5, codes 0 to 5 on ordered values. -/
def compareCode (code : Nat) (x y : Int) : Bool :=
  match code with
  | 0 => x == y
  | 1 => x != y
  | 2 => decide (x < y)
  | 3 => decide (x ≤ y)
  | 4 => decide (x > y)
  | _ => decide (x ≥ y)

/-- `sat(x, lo, hi)` of Table 0.2. -/
def satInt (x lo hi : Int) : Int := if x < lo then lo else if x > hi then hi else x

end Sys2Proof.Machine
end

