-- ==== Sys2Proof/Machine/SoftFloat.lean ====
section
/-! DEFINITION. Floating-point arithmetic, exact then rounded once (R127 to R143). A value is an exact dyadic or a ratio;
rounding compares whole numbers, so no result is approximate. -/

namespace Sys2Proof.Machine

/-- A floating format: precision p (hidden bit included), bias, and the greatest finite magnitude maxM × 2^maxE. -/
structure Fmt where
  width  : Nat
  p      : Nat
  bias   : Nat
  maxM   : Nat
  maxE   : Int
  /-- The code of +∞, where the format has infinities. -/
  inf    : Option Nat
  /-- The canonical NaN (Tables 6.1 and 7.1). -/
  nan    : Nat
  deriving DecidableEq, Repr

/-- binary32. -/
def fmtF32 : Fmt := { width := 32, p := 24, bias := 127, maxM := 16777215, maxE := 104, inf := some 0x7F800000, nan := 0x7FC00000 }
/-- binary16. -/
def fmtF16 : Fmt := { width := 16, p := 11, bias := 15, maxM := 2047, maxE := 5, inf := some 0x7C00, nan := 0x7E00 }
/-- bfloat16. -/
def fmtBF16 : Fmt := { width := 16, p := 8, bias := 127, maxM := 255, maxE := 120, inf := some 0x7F80, nan := 0x7FC0 }
/-- E5M2 (Table 7.1). -/
def fmtE5M2 : Fmt := { width := 8, p := 3, bias := 15, maxM := 7, maxE := 13, inf := some 0x7C, nan := 0x7E }
/-- E4M3 (Table 7.1). -/
def fmtE4M3 : Fmt := { width := 8, p := 4, bias := 7, maxM := 14, maxE := 5, inf := none, nan := 0x7F }
/-- E2M1 (Table 7.1). -/
def fmtE2M1 : Fmt := { width := 4, p := 2, bias := 1, maxM := 3, maxE := 1, inf := none, nan := 0x8 }

/-- The exponent of the smallest normal value. -/
def Fmt.emin (f : Fmt) : Int := 1 - f.bias

/-- A value as read: a NaN (signalling or quiet), an infinity, or ±m × 2^e exactly. -/
inductive FVal where
  | nan (signalling : Bool)
  | inf (neg : Bool)
  | fin (neg : Bool) (m : Nat) (e : Int)
  deriving DecidableEq, Repr

/-- R146: the value of a code by sign, exponent and fraction fields, without the NaN and infinity codes. -/
def decodeFin (f : Fmt) (code : Nat) : FVal :=
  let neg := code / 2 ^ (f.width - 1) % 2 == 1
  let frac := code % 2 ^ (f.p - 1)
  let ex := code / 2 ^ (f.p - 1) % 2 ^ (f.width - f.p)
  if ex = 0 then .fin neg frac (f.emin - (f.p - 1 : Nat))
  else .fin neg (frac + 2 ^ (f.p - 1)) (f.emin + (ex : Int) - 1 - (f.p - 1 : Nat))

/-- The value of a code of an IEEE-style format: the highest exponent field holds infinities and NaNs (R131). -/
def decodeIeee (f : Fmt) (code : Nat) : FVal :=
  let neg := code / 2 ^ (f.width - 1) % 2 == 1
  let frac := code % 2 ^ (f.p - 1)
  let ex := code / 2 ^ (f.p - 1) % 2 ^ (f.width - f.p)
  if ex = 2 ^ (f.width - f.p) - 1 then
    if frac = 0 then .inf neg else .nan (frac < 2 ^ (f.p - 2))
  else decodeFin f code

/-- A binary32 word as read. -/
def readF32 (w : Word) : FVal := decodeIeee fmtF32 w.toNat

/-- A rational magnitude num/den × 2^e, den > 0. -/
structure Ratio where
  num : Nat
  den : Nat
  e   : Int
  deriving DecidableEq, Repr

/-- Bits needed to write n. -/
def bitLen (n : Nat) : Nat := if n = 0 then 0 else n.log2 + 1

/-- n × 2^k for k ≥ 0, else n. -/
def shiftUp (n : Nat) (k : Int) : Nat := n <<< k.toNat

/-- The exponent of the leading bit of a nonzero ratio: 2^E ≤ value < 2^(E+1). -/
def Ratio.lead (r : Ratio) : Int :=
  let k : Int := (bitLen r.num : Int) - bitLen r.den
  if shiftUp r.num (-k) ≥ shiftUp r.den k then k + r.e else k - 1 + r.e

/-- How a value between two representable ones is rounded: to nearest with ties to even, or stochastically with a 16-bit
draw (R154). -/
inductive RoundMode where
  | rne
  | stochastic (u : Nat)
  deriving DecidableEq, Repr

/-- A ratio rounded to a whole number of quanta 2^q, with the exactness of the result. -/
def Ratio.quanta (r : Ratio) (mode : RoundMode) (q : Int) : Nat × Bool :=
  let n := shiftUp r.num (r.e - q)
  let d := shiftUp r.den (q - r.e)
  let k := n / d
  let rem := n % d
  let up : Bool := match mode with
    | .rne => decide (2 * rem > d) || (2 * rem == d && k % 2 == 1)
    | .stochastic u => decide (u * d < rem * 65536)
  (if up then k + 1 else k, rem == 0)

/-- A magnitude compared with m × 2^e: strictly greater. -/
def Ratio.gt (r : Ratio) (m : Nat) (e : Int) : Bool :=
  decide (shiftUp r.num (r.e - e) > shiftUp (m * r.den) (e - r.e))

/-- The code of ±k × 2^q where q is the quantum the value was rounded at (R146). -/
def Fmt.encode (f : Fmt) (neg : Bool) (k : Nat) (q : Int) : Nat :=
  let s := if neg then 2 ^ (f.width - 1) else 0
  let (k, q) := if k = 2 ^ f.p then (2 ^ (f.p - 1), q + 1) else (k, q)
  if k < 2 ^ (f.p - 1) then s + k
  else s + (q + (f.p - 1 : Nat) - f.emin + 1).toNat * 2 ^ (f.p - 1) + (k - 2 ^ (f.p - 1))

/-- The outcome of rounding a nonzero finite magnitude into a format. -/
structure Rounded where
  tooBig    : Bool
  code    : Nat
  tiny    : Bool
  inexact : Bool
  deriving DecidableEq, Repr

/-- R129, R151, R154: round ±r into f. Overflow and tininess are decided after rounding with unbounded exponent; under
stochastic rounding tininess is that of the exact value. -/
def Fmt.round (f : Fmt) (mode : RoundMode) (neg : Bool) (r : Ratio) : Rounded :=
  let lead := r.lead
  let q0 : Int := lead - (f.p - 1 : Nat)
  let q : Int := max lead f.emin - (f.p - 1 : Nat)
  let (k0, _) := r.quanta .rne q0
  let tooBig := if q0 < f.emin - (f.p - 1 : Nat) then false
    else decide (shiftUp k0 (q0 - f.maxE) > shiftUp f.maxM (f.maxE - q0))
  let mode := if r.gt f.maxM f.maxE then RoundMode.rne else mode
  let (k, exact) := r.quanta mode q
  let tiny := match mode with
    | .rne => decide (lead < f.emin - 1) || (lead == f.emin - 1 && decide (k0 < 2 ^ f.p))
    | .stochastic _ => decide (lead < f.emin)
  { tooBig, code := f.encode neg k q, tiny, inexact := !exact }

/-- The code of ±0. -/
def Fmt.zero (f : Fmt) (neg : Bool) : Nat := if neg then 2 ^ (f.width - 1) else 0
/-- The code of ±∞ (of a format that has infinities). -/
def Fmt.infinity (f : Fmt) (neg : Bool) : Nat := f.inf.getD 0 + (if neg then 2 ^ (f.width - 1) else 0)

/-- A computed value before its one rounding: a NaN, an infinity, a zero with its sign, or ±a nonzero ratio, with the
flags raised so far. -/
inductive Exact where
  | nan (fl : Flags)
  | inf (neg : Bool) (fl : Flags)
  | zero (neg : Bool) (fl : Flags)
  | fin (neg : Bool) (r : Ratio) (fl : Flags)
  deriving DecidableEq, Repr

/-- ±num/den × 2^e, a zero when num is 0. -/
def Exact.ofRatio (neg : Bool) (r : Ratio) (fl : Flags) : Exact := if r.num = 0 then .zero neg fl else .fin neg r fl

/-- Table 6.2: round an exact result to an IEEE-style format, with its flags. -/
def Exact.finish (f : Fmt) : Exact → Nat × Flags
  | .nan fl => (f.nan, fl)
  | .inf neg fl => (f.infinity neg, fl)
  | .zero neg fl => (f.zero neg, fl)
  | .fin neg r fl =>
    let o := f.round .rne neg r
    if o.tooBig then (f.infinity neg, fl ||| fOF ||| fNX)
    else (o.code, fl ||| flagIf (o.tiny && o.inexact) fUF ||| flagIf o.inexact fNX)

/-- A binary32 result. -/
def Exact.f32 (x : Exact) : Word × Flags := let (c, fl) := x.finish fmtF32; (BitVec.ofNat 32 c, fl)

/-- Is it a NaN? -/
def FVal.isNaN : FVal → Bool | .nan _ => true | _ => false
/-- Is it a signalling NaN? -/
def FVal.isSig : FVal → Bool | .nan s => s | _ => false
/-- Is it ±∞? -/
def FVal.isInf : FVal → Bool | .inf _ => true | _ => false
/-- Is it ±0? -/
def FVal.isZero : FVal → Bool | .fin _ m _ => m == 0 | _ => false
/-- The sign of a value that is no NaN. -/
def FVal.neg : FVal → Bool | .nan _ => false | .inf s => s | .fin s _ _ => s
/-- The value with its sign inverted. -/
def FVal.negate : FVal → FVal | .nan s => .nan s | .inf s => .inf !s | .fin s m e => .fin (!s) m e

/-- ±m as an integer. -/
def signed (neg : Bool) (m : Nat) : Int := if neg then -(m : Int) else m

/-- The exact sum of two finite values, as an integer multiple of 2^e (R130 gives the sign of a zero sum). -/
def addFin (s1 : Bool) (m1 : Nat) (e1 : Int) (s2 : Bool) (m2 : Nat) (e2 : Int) (fl : Flags) : Exact :=
  let e := min e1 e2
  let t := signed s1 (shiftUp m1 (e1 - e)) + signed s2 (shiftUp m2 (e2 - e))
  if t = 0 then .zero (s1 && s2 && m1 == 0 && m2 == 0) fl
  else .fin (decide (t < 0)) { num := t.natAbs, den := 1, e } fl

/-- R137, R130: the exact sum of two values that are no NaN. -/
def addVals (x y : FVal) (fl : Flags) : Exact :=
  match x, y with
  | .inf s, .inf t => if s == t then .inf s fl else .nan (fl ||| fNV)
  | .inf s, _ => .inf s fl
  | _, .inf t => .inf t fl
  | .fin s1 m1 e1, .fin s2 m2 e2 => addFin s1 m1 e1 s2 m2 e2 fl
  | _, _ => .nan fl

/-- R137: the exact product of two values that are no NaN; none when it is 0 × ∞. -/
def mulVals (x y : FVal) : Option FVal :=
  match x, y with
  | .fin s m e, .fin t n g => some (.fin (s != t) (m * n) (e + g))
  | .inf s, y => if y.isZero then none else some (.inf (s != y.neg))
  | x, .inf t => if x.isZero then none else some (.inf (x.neg != t))
  | _, _ => none

/-- A value as an exact result. -/
def FVal.exact (fl : Flags) : FVal → Exact
  | .nan _ => .nan fl
  | .inf s => .inf s fl
  | .fin s m e => .ofRatio s { num := m, den := 1, e } fl

/-- R137 FADD on values as read. -/
def faddVals (x y : FVal) : Exact :=
  let fl := flagIf (x.isSig || y.isSig) fNV
  if x.isNaN || y.isNaN then .nan fl else addVals x y fl

/-- R137 FMUL on values as read. -/
def fmulVals (x y : FVal) : Exact :=
  let fl := flagIf (x.isSig || y.isSig) fNV
  if x.isNaN || y.isNaN then .nan fl
  else match mulVals x y with
    | none => .nan (fl ||| fNV)
    | some z => z.exact fl

/-- R137 FFMA on values as read: 0 × ∞ is invalid even beside a quiet NaN. -/
def ffmaVals (x y z : FVal) : Exact :=
  let fl := flagIf (x.isSig || y.isSig || z.isSig) fNV
  if (x.isZero && y.isInf) || (x.isInf && y.isZero) then .nan (fl ||| fNV)
  else if x.isNaN || y.isNaN || z.isNaN then .nan fl
  else match mulVals x y with
    | none => .nan (fl ||| fNV)
    | some xy => addVals xy z fl

/-- R134: the modifier OP[1:0] of operand A. -/
def fmodify (m : BitVec 2) (a : Word) : Word :=
  match m.toNat with
  | 0 => a
  | 1 => a ^^^ 0x80000000
  | 2 => a &&& 0x7FFFFFFF
  | _ => a ||| 0x80000000

/-- R137 FADD.f32. -/
def f32Add (a b : Word) : Word × Flags := (faddVals (readF32 a) (readF32 b)).f32
/-- R137 FSUB.f32. -/
def f32Sub (a b : Word) : Word × Flags := (faddVals (readF32 a) (readF32 b).negate).f32
/-- R137 FMUL.f32. -/
def f32Mul (a b : Word) : Word × Flags := (fmulVals (readF32 a) (readF32 b)).f32
/-- R137 FFMA.f32. -/
def f32Fma (a b d : Word) : Word × Flags := (ffmaVals (readF32 a) (readF32 b) (readF32 d)).f32

/-- The order of two values that are no NaN: −1, 0 or 1 as x is below, equal to or above y (zeros are equal). -/
def FVal.cmp (x y : FVal) : Int :=
  match x, y with
  | .inf s, .inf t => if s == t then 0 else if s then -1 else 1
  | .inf s, _ => if s then -1 else 1
  | _, .inf t => if t then 1 else -1
  | .fin s m e, .fin t n g =>
    let k := min e g
    let d := signed s (shiftUp m (e - k)) - signed t (shiftUp n (g - k))
    if d < 0 then -1 else if d = 0 then 0 else 1
  | _, _ => 0

/-- R138 FMIN and FMAX. -/
def f32MinMax (isMax : Bool) (a b : Word) : Word × Flags :=
  let x := readF32 a
  let y := readF32 b
  let fl := flagIf (x.isSig || y.isSig) fNV
  if x.isNaN || y.isNaN then (0x7FC00000, fl)
  else if x.isZero && y.isZero then
    if isMax then (if !x.neg || !y.neg then 0x00000000 else 0x80000000, fl)
    else (if x.neg || y.neg then 0x80000000 else 0x00000000, fl)
  else
    let c := x.cmp y
    (if isMax then (if c ≥ 0 then a else b) else (if c ≤ 0 then a else b), fl)

/-- R139: the float column of Table 2.5, and whether NV is set. -/
def fsetVals (code : Nat) (x y : FVal) : Bool × Flags :=
  let nan := x.isNaN || y.isNaN
  let r : Bool := match code with
    | 14 => !nan
    | 15 => nan
    | c => if nan then decide (c ≥ 8) else compareCode (c % 8) (x.cmp y) 0
  let nv := if 2 ≤ code ∧ code ≤ 5 then nan else x.isSig || y.isSig
  (r, flagIf nv fNV)

/-- R139 FSET. -/
def f32Set (cond : BitVec 4) (a b : Word) : Bool × Flags := fsetVals cond.toNat (readF32 a) (readF32 b)

/-- R140: |x| rounded to a whole number in direction `mode`. -/
def roundMag (mode : Nat) (neg : Bool) (m : Nat) (e : Int) : Nat :=
  if e ≥ 0 then shiftUp m e
  else
    let d := 2 ^ (-e).toNat
    let k := m / d
    let rem := m % d
    let up : Bool := match mode with
      | 0 => decide (2 * rem > d) || (2 * rem == d && k % 2 == 1)
      | 1 => false
      | 2 => neg && rem != 0
      | _ => !neg && rem != 0
    if up then k + 1 else k

/-- R140 FRND. -/
def f32Rnd (mode : Nat) (a : Word) : Word × Flags :=
  match readF32 a with
  | .nan s => (0x7FC00000, flagIf s fNV)
  | .inf _ => (a, 0)
  | .fin s m e =>
    if e ≥ 0 then (a, 0)
    else
      let k := roundMag mode s m e
      (BitVec.ofNat 32 ((Exact.ofRatio s { num := k, den := 1, e := 0 } 0).finish fmtF32).1, 0)

/-- R141 FCLASS (Table 6.4). -/
def f32Class (a : Word) : Word :=
  let bit : Nat := match readF32 a with
    | .nan true => 0
    | .nan false => 1
    | .inf true => 2
    | .inf false => 9
    | .fin s m e =>
      if m = 0 then (if s then 5 else 6)
      else if m < 2 ^ 23 && e == -149 then (if s then 4 else 7)
      else (if s then 3 else 8)
  1 <<< bit

/-! ### The special functions (R142) -/

/-- The integer square root of n, by bits from `k` down: the greatest r with r² ≤ n, given n < 4^k. -/
def isqrtFrom (n : Nat) : Nat → Nat → Nat
  | 0, r => r
  | k + 1, r => let t := r + 2 ^ k; isqrtFrom n k (if t * t ≤ n then t else r)

/-- The integer square root of n. -/
def isqrt (n : Nat) : Nat := isqrtFrom n (bitLen n / 2 + 1) 0

/-- A floor r with more to come: a ratio strictly between r and r + 1 in units of 2^e, or r itself when exact. -/
def sticky (r : Nat) (exact : Bool) (e : Int) : Ratio :=
  if exact then { num := r, den := 1, e } else { num := 2 * r + 1, den := 1, e := e - 1 }

/-- ±m × 2^e with an even exponent. -/
def evenExp (m : Nat) (e : Int) : Nat × Int := if e % 2 = 0 then (m, e) else (2 * m, e - 1)

/-- √(m × 2^e). -/
def sqrtRatio (m : Nat) (e : Int) : Ratio :=
  let (m, e) := evenExp m e
  let n := m <<< 80
  let r := isqrt n
  sticky r (r * r == n) (e / 2 - 40)

/-- 1/√(m × 2^e). -/
def rsqrtRatio (m : Nat) (e : Int) : Ratio :=
  let (m, e) := evenExp m e
  let n := 2 ^ 160 / m
  let r := isqrt n
  sticky r (r * r * m == 2 ^ 160) (-(e / 2) - 80)

/-- An interval [lo, hi] of fixed-point numbers in units of 2^−n. -/
structure Interval where
  lo : Nat
  hi : Nat
  deriving DecidableEq, Repr

/-- √ of an interval. -/
def Interval.sqrt (n : Nat) (x : Interval) : Interval :=
  { lo := isqrt (x.lo <<< n), hi := isqrt (x.hi <<< n) + 1 }

/-- The product of two intervals. -/
def Interval.mul (n : Nat) (x y : Interval) : Interval :=
  { lo := (x.lo * y.lo) >>> n, hi := ((x.hi * y.hi) >>> n) + 1 }

/-- 2^f for a fraction f = bits/2^k, its bits taken from the top: `c` bounds 2^(2^−j) for the current bit. -/
def exp2Frac (n : Nat) (bits : Nat) : Nat → Interval → Interval → Interval
  | 0, _, acc => acc
  | k + 1, c, acc =>
    let c := c.sqrt n
    exp2Frac n bits k c (if bits.testBit k then acc.mul n c else acc)

/-- 2^(i + bits/2^k) at n fractional bits, as bounds of the significand in [1, 2]. -/
def exp2Bounds (n k bits : Nat) : Interval := exp2Frac n bits k { lo := 2 ^ (n + 1), hi := 2 ^ (n + 1) } { lo := 2 ^ n, hi := 2 ^ n }

/-- log2 of a significand in [1, 2): K binary digits by repeated squaring, of a truncated value x in units of 2^−n. -/
def log2Digits (n : Nat) (up : Nat) : Nat → Nat → Nat → Nat
  | 0, _, acc => acc
  | k + 1, x, acc =>
    let y := ((x * x) >>> n) + up
    if y ≥ 2 ^ (n + 1) then log2Digits n up k ((y >>> 1) + up) (2 * acc + 1) else log2Digits n up k y (2 * acc)

/-- Round the value between a lower and an upper bound when both round alike, at the first precision that decides it. -/
def decideBounds (f : Nat → Ratio × Ratio) : List Nat → Exact → (Ratio → Exact) → Exact
  | [], dflt, _ => dflt
  | n :: ns, _, mk =>
    let (lo, hi) := f n
    if (mk lo).finish fmtF32 = (mk hi).finish fmtF32 then mk lo else decideBounds f ns (mk lo) mk

/-- The precisions tried, in fractional bits. -/
def precisions : List Nat := [192, 384, 768]

/-- R142: the exact 2^x of a finite nonzero x, up to what rounding can tell. -/
def exp2Exact (s : Bool) (m : Nat) (e : Int) : Exact :=
  -- x = i + bits / 2^k with 0 ≤ bits < 2^k
  let k := (-e).toNat
  let t := signed s (shiftUp m e)
  let i : Int := t / (2 ^ k : Nat)
  let bits := (t % (2 ^ k : Nat)).toNat
  if i ≥ 128 then .fin false { num := 1, den := 1, e := 128 } 0
  else if i < -160 then .fin false { num := 3, den := 1, e := -162 } 0
  else if bits = 0 then .fin false { num := 1, den := 1, e := i } 0
  else
    decideBounds (fun n =>
      let b := exp2Bounds n k bits
      (sticky b.lo false (i - n), sticky (b.hi - 1) false (i - n))) precisions (.nan 0) (fun r => .fin false r 0)

/-- R142: the exact log2 of m × 2^e, m nonzero, up to what rounding can tell. -/
def log2Exact (m : Nat) (e : Int) : Exact :=
  let l := bitLen m - 1
  let ex : Int := e + l
  if m = 2 ^ l then
    if ex = 0 then .zero false 0 else .fin (decide (ex < 0)) { num := ex.natAbs, den := 1, e := 0 } 0
  else
    let kd := 100
    let mk (neg : Bool) (r : Ratio) : Exact := .fin neg r 0
    decideBounds (fun n =>
      let x := m <<< (n - l)
      let lo := log2Digits n 0 kd x 0
      let hi := log2Digits n 1 kd x 0
      if ex ≥ 0 then
        (sticky (ex.toNat * 2 ^ kd + lo) false (-kd), sticky (ex.toNat * 2 ^ kd + hi) false (-kd))
      else
        (sticky (ex.natAbs * 2 ^ kd - hi - 1) false (-kd), sticky (ex.natAbs * 2 ^ kd - lo - 1) false (-kd)))
      precisions (.nan 0) (mk (decide (ex < 0)))

/-- The five special functions of R142. -/
inductive SpecialFn where
  | sqrt | rcp | rsq | ex2 | lg2
  deriving DecidableEq, Repr

/-- R142 with Table 6.5. -/
def specialExact (fn : SpecialFn) (x : FVal) : Exact :=
  match x with
  | .nan s => .nan (flagIf s fNV)
  | .inf true => match fn with
    | .rcp => .zero true 0
    | .ex2 => .zero false 0
    | _ => .nan fNV
  | .inf false => match fn with
    | .rcp | .rsq => .zero false 0
    | _ => .inf false 0
  | .fin s m e =>
    if m = 0 then match fn with
      | .sqrt => .zero s 0
      | .rcp | .rsq => .inf s fDZ
      | .ex2 => .fin false { num := 1, den := 1, e := 0 } 0
      | .lg2 => .inf true fDZ
    else match fn with
      | .sqrt => if s then .nan fNV else .fin false (sqrtRatio m e) 0
      | .rcp => .fin s { num := 1, den := m, e := -e } 0
      | .rsq => if s then .nan fNV else .fin false (rsqrtRatio m e) 0
      | .ex2 => exp2Exact s m e
      | .lg2 => if s then .nan fNV else log2Exact m e

/-- R142: FSQRT, FRCP, FRSQ, FEX2 and FLG2. -/
def f32Special (fn : SpecialFn) (a : Word) : Word × Flags := (specialExact fn (readF32 a)).f32

/-! ### Packed halves (R128, R143) -/

/-- Half 0 or 1 of a register. -/
def half (w : Word) (i : Nat) : Nat := (w >>> (16 * i)).toNat % 65536

/-- A packed instruction: each half by itself, flags ORed (R132). -/
def packed (f : Fmt) (op : FVal → FVal → FVal → Exact) (a b d : Word) : Word × Flags :=
  let one (i : Nat) := (op (decodeIeee f (half a i)) (decodeIeee f (half b i)) (decodeIeee f (half d i))).finish f
  let lo := one 0
  let hi := one 1
  (BitVec.ofNat 32 (hi.1 * 65536 + lo.1), lo.2 ||| hi.2)

/-- R143 PKADD.f16. -/
def pkAdd (a b : Word) : Word × Flags := packed fmtF16 (fun x y _ => faddVals x y) a b 0
/-- R143 PKMUL.f16. -/
def pkMul (a b : Word) : Word × Flags := packed fmtF16 (fun x y _ => fmulVals x y) a b 0
/-- R143 PKFMA.f16. -/
def pkFma16 (a b d : Word) : Word × Flags := packed fmtF16 ffmaVals a b d
/-- R143 PKFMA.bf16. -/
def pkFmaBf (a b d : Word) : Word × Flags := packed fmtBF16 ffmaVals a b d

end Sys2Proof.Machine
end

