-- ==== Sys2Proof/Machine/NarrowArith.lean ====
section
/-! DEFINITION. Element formats, block scales, format slots, conversion, quantisation and the block transform as
functions of operand values (R146 to R166). -/

namespace Sys2Proof.Machine

/-- Element formats, Table 7.1, in code order. -/
inductive Elem where
  | e2m1 | e4m3 | e5m2 | i4 | i8 | bf16 | f16 | f32
  deriving DecidableEq, Repr

/-- The format of a code of Table 7.1. -/
def Elem.ofCode (c : Nat) : Elem :=
  match c with
  | 0 => .e2m1 | 1 => .e4m3 | 2 => .e5m2 | 3 => .i4 | 4 => .i8 | 5 => .bf16 | 6 => .f16 | _ => .f32

/-- Element width in bits. -/
def Elem.bits : Elem → Nat
  | .e2m1 | .i4 => 4 | .e4m3 | .e5m2 | .i8 => 8 | .bf16 | .f16 => 16 | .f32 => 32

/-- The floating format of an element format; unused for the integers. -/
def Elem.fmt : Elem → Fmt
  | .e2m1 => fmtE2M1 | .e4m3 => fmtE4M3 | .e5m2 => fmtE5M2 | .bf16 => fmtBF16 | .f16 => fmtF16 | _ => fmtF32

/-- Is it INT4 or INT8? -/
def Elem.isInt : Elem → Bool | .i4 | .i8 => true | _ => false

/-- An element as read: its value, and whether its code is reserved (E2M1 0b1000, R147). -/
structure ElemVal where
  val      : FVal
  reserved : Bool := false
  deriving DecidableEq, Repr

/-- R146, R147: the value of an element code (bits above the width ignored). E4M3 and E5M2 NaNs are quiet. -/
def Elem.read (el : Elem) (code : Nat) : ElemVal :=
  let c := code % 2 ^ el.bits
  match el with
  | .i4 => let v : Int := (BitVec.ofNat 4 c).toInt; { val := .fin (decide (v < 0)) v.natAbs 0 }
  | .i8 => let v : Int := (BitVec.ofNat 8 c).toInt; { val := .fin (decide (v < 0)) v.natAbs 0 }
  | .e2m1 => if c = 8 then { val := .nan false, reserved := true } else { val := decodeFin fmtE2M1 c }
  | .e4m3 => if c % 128 = 127 then { val := .nan false } else { val := decodeFin fmtE4M3 c }
  | .e5m2 => match decodeIeee fmtE5M2 c with
    | .nan _ => { val := .nan false }
    | v => { val := v }
  | _ => { val := decodeIeee el.fmt c }

/-- The code of the largest finite magnitude with a sign. -/
def Fmt.largest (f : Fmt) (neg : Bool) : Nat := f.encode neg f.maxM f.maxE

/-- E2M1 has no −0: a zero of either sign is 0b0000 (R147). -/
def fixZero (el : Elem) (code : Nat) : Nat := if el = .e2m1 && code = 8 then 0 else code

/-- An n-bit two's complement code. -/
def intCode (el : Elem) (v : Int) : Nat := (BitVec.ofInt el.bits v).toNat

/-- R151: a magnitude rounded to an integer and clamped to [lo, hi], NV when clamped. -/
def toIntElem (el : Elem) (mode : RoundMode) (lo hi : Int) (neg : Bool) (r : Ratio) : Nat × Flags :=
  let mode := if r.gt hi.natAbs 0 then RoundMode.rne else mode
  let v := signed neg (r.quanta mode 0).1
  let y := satInt v lo hi
  (intCode el y, flagIf (y != v) fNV)

/-- Table 7.4, NaN column, with `nv` when the source is signalling or reserved. -/
def nanElem (el : Elem) (nv : Bool) : Nat × Flags :=
  match el with
  | .e2m1 => (8, fNV)
  | .i4 | .i8 => (0, fNV)
  | _ => (el.fmt.nan, flagIf nv fNV)

/-- Table 7.4, ±∞ column. -/
def infElem (el : Elem) (sat : Bool) (neg : Bool) (lo hi : Int) : Nat × Flags :=
  match el with
  | .e2m1 => (8, fNV)
  | .i4 | .i8 => (intCode el (if neg then lo else hi), fNV)
  | .e4m3 => if sat then (el.fmt.largest neg, fOF ||| fNX) else (0x7F, fNV)
  | _ => if sat then (el.fmt.largest neg, fOF ||| fNX) else (el.fmt.infinity neg, 0)

/-- Table 7.4, finite overflow. -/
def overElem (el : Elem) (sat : Bool) (neg : Bool) : Nat × Flags :=
  match el with
  | .e2m1 => (el.fmt.largest neg, fOF ||| fNX)
  | .e4m3 => (if sat then el.fmt.largest neg else 0x7F, fOF ||| fNX)
  | _ => (if sat then el.fmt.largest neg else el.fmt.infinity neg, fOF ||| fNX)

/-- R151, R154: a finite nonzero magnitude converted to an element code. -/
def finElem (el : Elem) (sat : Bool) (mode : RoundMode) (lo hi : Int) (neg : Bool) (r : Ratio) : Nat × Flags :=
  if el.isInt then toIntElem el mode lo hi neg r
  else
    let o := el.fmt.round mode neg r
    if o.tooBig then overElem el sat neg
    else (fixZero el o.code, flagIf (o.tiny && o.inexact) fUF ||| flagIf o.inexact fNX)

/-- The integer range of a conversion: the whole two's complement range. -/
def elemRange : Elem → Int × Int
  | .i4 => (-8, 7) | _ => (-128, 127)

/-- R151 with Table 7.4: convert a value as read into an element code. -/
def convertElem (el : Elem) (sat : Bool) (mode : RoundMode) (lo hi : Int) (x : ElemVal) : Nat × Flags :=
  match x.val with
  | .nan s => let o := nanElem el (s || x.reserved); (o.1, o.2)
  | .inf neg => infElem el sat neg lo hi
  | .fin neg m e =>
    if m = 0 then (if el.isInt || el = .e2m1 then 0 else el.fmt.zero neg, 0)
    else finElem el sat mode lo hi neg { num := m, den := 1, e }

/-- R159: a narrow value as a destination, zero-extended for a float format, sign-extended for an integer. -/
def extendElem (el : Elem) (code : Nat) : Word :=
  match el with
  | .i4 => (BitVec.ofNat 4 code).signExtend 32
  | .i8 => (BitVec.ofNat 8 code).signExtend 32
  | _ => BitVec.ofNat 32 code

/-- R160 CVT with the selector of Table 7.7. -/
def cvtWord (sel : BitVec 7) (a : Word) : Word × Flags :=
  let goal := Elem.ofCode (sel.extractLsb' 3 3).toNat
  let from_ := Elem.ofCode (sel.extractLsb' 0 3).toNat
  let (lo, hi) := elemRange goal
  let (c, fl) := convertElem goal (sel.getLsbD 6) .rne lo hi (from_.read a.toNat)
  (extendElem goal c, fl)

/-! ### Scales (R148 to R150) -/

/-- Block scale formats. -/
inductive BScale where
  | none | e3m5 | e8m0
  deriving DecidableEq, Repr

/-- R148, R149: the value m × 2^e of a scale code; none when the code is reserved. Without a block scale it is 1. -/
def BScale.value (b : BScale) (code : Nat) : Option (Nat × Int) :=
  match b with
  | .none => some (1, 0)
  | .e3m5 =>
    if code = 255 then Option.none
    else
      let e := code / 32
      let m := code % 32
      if e = 0 then some (m, -7) else some (32 + m, (e : Int) - 8)
  | .e8m0 => if code = 255 then Option.none else some (1, (code : Int) - 127)

/-! ### Format slots (R155 to R157) -/

/-- A format slot: word 0 of Table 7.5 and SEED. -/
structure Slot where
  w0   : Word
  seed : Word
  deriving DecidableEq, Repr

/-- V. -/
def Slot.bound (s : Slot) : Bool := s.w0.getLsbD 31
/-- ROUND. -/
def Slot.stochastic (s : Slot) : Bool := s.w0.getLsbD 13
/-- ACC. -/
def Slot.accInt (s : Slot) : Bool := (s.w0.extractLsb' 11 2).toNat == 1
/-- HAD: the Hadamard points, 0 for none. -/
def Slot.points (s : Slot) : Nat := match (s.w0.extractLsb' 9 2).toNat with | 0 => 0 | 1 => 16 | 2 => 32 | _ => 64
/-- BAND. -/
def Slot.band (s : Slot) : Bool := s.w0.getLsbD 8
/-- BSCALE. -/
def Slot.bscale (s : Slot) : BScale := match (s.w0.extractLsb' 6 2).toNat with | 1 => .e3m5 | 2 => .e8m0 | _ => .none
/-- BLOCK in elements. -/
def Slot.block (s : Slot) : Nat := match (s.w0.extractLsb' 4 2).toNat with | 0 => 8 | 1 => 16 | _ => 32
/-- ELEM. -/
def Slot.elem (s : Slot) : Elem := Elem.ofCode (s.w0.extractLsb' 0 4).toNat

/-- R156: a slot of a launch record that breaks no rule. -/
def Slot.ok (s : Slot) : Bool :=
  if !s.bound then s.w0 == 0 && s.seed == 0
  else
    s.w0.extractLsb' 14 17 == 0 && decide ((s.w0.extractLsb' 11 2).toNat ≤ 1) && decide ((s.w0.extractLsb' 6 2).toNat ≤ 2) &&
    decide ((s.w0.extractLsb' 4 2).toNat ≤ 2) && decide ((s.w0.extractLsb' 0 4).toNat ≤ 6) &&
    (!(s.elem == .bf16 || s.elem == .f16) || (s.w0.extractLsb' 4 2 == 0 && s.w0.extractLsb' 6 2 == 0)) &&
    (!s.accInt || (s.elem.isInt && s.w0.extractLsb' 6 2 == 0 && !s.band))

/-- R161: the block size QNT and DQNT work on (8 for BF16 and FP16). -/
def Slot.blockSize (s : Slot) : Nat := if s.elem == .bf16 || s.elem == .f16 then 8 else s.block
/-- Words of a packed block. -/
def Slot.blockWords (s : Slot) : Nat := s.blockSize * s.elem.bits / 32

/-- R152 `sr_hash`. -/
def srHash (seed team tid k x : Word) : Nat :=
  let h := seed ^^^ (team * 0x9E3779B9) ^^^ (tid * 0x85EBCA6B)
  let h := h ^^^ (k * 0xC2B2AE35) ^^^ x
  let h := h ^^^ (h >>> 16)
  let h := h * 0x7FEB352D
  let h := h ^^^ (h >>> 15)
  let h := h * 0x846CA68B
  let h := h ^^^ (h >>> 16)
  (h.extractLsb' 16 16).toNat

/-- R161: the greatest element magnitude that a scale must reach. -/
def Elem.emax : Elem → Nat
  | .e2m1 => 6 | .e4m3 => 448 | .e5m2 => 57344 | .i4 => 7 | .i8 => 127 | _ => 1

/-- The greatest finite magnitude of a list of values, as m × 2^e. -/
def amaxOf (xs : List FVal) : FVal :=
  xs.foldl (fun acc x => match x with
    | .fin _ m e => if (FVal.fin false m e).cmp acc > 0 then .fin false m e else acc
    | _ => acc) (.fin false 0 0)

/-- R161: the least code whose value times emax reaches amax; the greatest code when none does. -/
def scaleCode (b : BScale) (emax : Nat) (amax : FVal) : Nat :=
  ((List.range 255).find? fun c => match b.value c with
    | some (m, e) => (FVal.fin false (m * emax) e).cmp amax ≥ 0
    | Option.none => false).getD 254

/-- R161: one element of QNT. `x` is the word as read and k its index. -/
def qntElem (s : Slot) (team tid : Word) (sm : Nat) (se : Int) (k : Nat) (x : Word) : Nat × Flags :=
  let el := s.elem
  let hi : Int := if el.isInt then el.emax else 0
  match readF32 x with
  | .nan _ | .inf _ => ((nanElem el true).1, fNV)
  | .fin neg m e =>
    if sm = 0 then (0, 0)
    else if m = 0 then (if el.isInt || el = .e2m1 then 0 else el.fmt.zero neg, 0)
    else
      let mode := if s.stochastic then RoundMode.stochastic (srHash s.seed team tid (BitVec.ofNat 32 k) x) else .rne
      finElem el true mode (-hi) hi neg { num := m, den := sm, e := e - se }

/-- Pack element codes of `bits` bits into words, element 0 lowest (R161). -/
def packWords (bits : Nat) (codes : List Nat) (nwords : Nat) : List Word :=
  (List.range nwords).map fun j =>
    let w := 32 / bits
    BitVec.ofNat 32 (((codes.drop (w * j)).take w).foldr (fun c acc => acc * 2 ^ bits + c) 0)

/-- R161 QNT: the words written at D, scale last. -/
def qntBlock (s : Slot) (team tid : Word) (xs : List Word) : List Word × Flags :=
  let c := scaleCode s.bscale s.elem.emax (amaxOf (xs.map readF32))
  let (sm, se) := if s.bscale = .none then (1, 0) else (s.bscale.value c).getD (1, 0)
  let es := xs.mapIdx fun k x => qntElem s team tid sm se k x
  let ws := packWords s.elem.bits (es.map (·.1)) s.blockWords
  (if s.bscale = .none then ws else ws ++ [BitVec.ofNat 32 c], es.foldl (fun f e => f ||| e.2) 0)

/-- Unpack element k of packed words. -/
def elemAt (bits : Nat) (ws : List Word) (k : Nat) : Nat :=
  (ws.getD (k * bits / 32) 0).toNat / 2 ^ (k * bits % 32) % 2 ^ bits

/-- R162: one element of DQNT, scale sm × 2^se. -/
def dqntElem (el : Elem) (sm : Nat) (se : Int) (code : Nat) : Word × Flags :=
  let x := el.read code
  if x.reserved then (0x7FC00000, fNV)
  else (fmulVals x.val (.fin false sm se)).f32

/-- R162 DQNT: n words from the packed words and the scale word. -/
def dqntBlock (s : Slot) (ws : List Word) (scale : Word) : List Word × Flags :=
  match s.bscale.value (scale.toNat % 256) with
  | Option.none => (List.replicate s.blockSize 0x7FC00000, fNV)
  | some (sm, se) =>
    let es := (List.range s.blockSize).map fun k => dqntElem s.elem sm se (elemAt s.elem.bits ws k)
    (es.map (·.1), es.foldl (fun f e => f ||| e.2) 0)

/-- R158: one stage of the transform at stride h, on values indexed by i. -/
def hadStage (h : Nat) (ys : List Word) : List Word × Flags :=
  let es := ys.mapIdx fun i y =>
    if i / h % 2 = 0 then f32Add y (ys.getD (i + h) 0) else f32Sub (ys.getD (i - h) 0) y
  (es.map (·.1), es.foldl (fun f e => f ||| e.2) 0)

/-- R158: the constant c of an n-point transform. -/
def hadScale (n : Nat) : Word := if n = 16 then 0x3E800000 else if n = 32 then 0x3E3504F3 else 0x3E000000

/-- R158: the stages in rising order of stride, then the scaling. -/
def hadBlock (xs : List Word) : List Word × Flags :=
  let n := xs.length
  let stages := (List.range (n.log2)).foldl (fun (acc : List Word × Flags) s =>
    let r := hadStage (2 ^ s) acc.1
    (r.1, acc.2 ||| r.2)) (xs, 0)
  let es := stages.1.map fun y => f32Mul y (hadScale n)
  (es.map (·.1), es.foldl (fun f e => f ||| e.2) stages.2)

/-- R164 PACK4. -/
def pack4Word (a b : Word) : Word :=
  let half (w : Word) : BitVec 16 :=
    (w.extractLsb' 24 4 ++ w.extractLsb' 16 4 ++ w.extractLsb' 8 4 ++ w.extractLsb' 0 4 : BitVec (4 + 4 + 4 + 4))
  (half b ++ half a : BitVec (16 + 16))

/-- R164 UNPK4: bit 0 of the selector is the half, bit 1 the sign extension. -/
def unpk4Word (sel : BitVec 7) (a : Word) : Word :=
  let g := if sel.getLsbD 0 then 16 else 0
  let ext (k : Nat) : BitVec 8 :=
    let t : BitVec 4 := (a >>> (g + 4 * k)).setWidth 4
    if sel.getLsbD 1 then t.signExtend 8 else t.setWidth 8
  (ext 3 ++ ext 2 ++ ext 1 ++ ext 0 : BitVec (8 + 8 + 8 + 8))

/-- R165: a divided by sm × 2^se. -/
def divScale (a : FVal) (sm : Nat) (se : Int) : Exact :=
  match a with
  | .nan s => .nan (flagIf s fNV)
  | .inf s => .inf s 0
  | .fin s m e =>
    if sm = 0 then (if m = 0 then .nan fNV else .inf s fDZ)
    else .ofRatio s { num := m, den := sm, e := e - se } 0

/-- A zero quotient keeps the sign of a (R130). -/
def scaleWord (a b : Word) : Word × Flags :=
  let fmt := if b.getLsbD 8 then BScale.e8m0 else .e3m5
  match fmt.value (b.toNat % 256) with
  | Option.none => (0x7FC00000, fNV)
  | some (sm, se) =>
    if b.getLsbD 9 then (divScale (readF32 a) sm se).f32
    else (fmulVals (readF32 a) (.fin false sm se)).f32

/-- R166 FSLOT: the field of a slot by selector; an unbound slot reads as zero. -/
def fslotWord (s : Slot) (sel : Nat) : Word :=
  if !s.bound then 0
  else match sel with
    | 0 => s.w0
    | 1 => s.seed
    | 2 => if s.bscale = .none then 0 else BitVec.ofNat 32 s.block
    | 3 => BitVec.ofNat 32 s.points
    | _ => BitVec.ofNat 32 s.elem.bits

end Sys2Proof.Machine
end

