-- ==== Sys2Proof/Machine/State.lean ====
section
/-! DEFINITION. The machine's state as plain data (INVENTORY.md, State): every piece of state the spec names, the model's own
bookkeeping marked as such, the fault and refusal reasons, and the state after reset. -/

namespace Sys2Proof.Machine

/-- Why the machine stops. -/
inductive Fault where
  /-- Raised by `exec` alone, when it is asked to issue an instruction and no gathering is issuing (`State.cur` is none).
  `step` never does so; safe: it forbids nothing the hardware does. -/
  | noGathering
  deriving DecidableEq, Repr

/-- Why the machine refuses an instruction. -/
inductive Refusal where
  /-- Raised by an arm of `exec` that has no meaning yet, by mnemonic; safe, since no claim about it can be proved. -/
  | notModelled (mnemonic : String)
  deriving DecidableEq, Repr

/-- The trap codes of Table 15.4. -/
inductive TrapCode where
  | illop | illclause | stallShort | role | priv | align | privlim | xlate | prot | space | mismatch | station | handle
  | stampf | bagfull | bagbad | nredf | gangabort | brk | trap | rstack | work | check | preempt | port | sealed
  deriving DecidableEq, Repr, Inhabited

/-- A trap with its detail and faulting address (R367). -/
structure Trap where
  code   : TrapCode
  detail : Nat := 0
  addr   : Nat := 0
  deriving DecidableEq, Repr, Inhabited

/-- A named register, for the checks of R37 to R42. -/
inductive RegId where
  | v (n : Nat) | p (n : Nat) | q (n : Nat) | qp (n : Nat)
  deriving DecidableEq, Repr

/-- A fixed-latency write that is not yet readable (R37, R41): readable from clock `at_`, or `hold` under checked execution
(R107, R108); `old` is the value before it, `val` the value it writes. `lanes` are the lanes of the gathering that wrote a
uniform register (R38). -/
structure Pend where
  reg   : RegId
  at_   : Nat
  hold  : Nat
  old   : Word
  val   : Word
  lanes : List Nat
  deriving DecidableEq, Repr

/-- A variable-latency write that is pending (R41, R42): `op` will write `reg`; `laps` are the values of the writes of the
register that overlap it and that may survive it: those under way when it issued, and those that have taken effect since. -/
structure Busy where
  reg  : RegId
  op   : Nat
  laps : List Word
  deriving DecidableEq, Repr

/-- A set or a write-one-to-clear of `%flags` bits that has issued (R106, R375): it takes effect at clock `hold`; R37 admits a
reader from `at_` on, which R107 then holds until `hold`. -/
structure FlagEv where
  at_  : Nat
  hold : Nat
  set  : Flags
  clr  : Word
  deriving DecidableEq, Repr

/-- A MOVSW to a T register that has issued and takes effect at clock `at_` (R372, R375). -/
structure TWrite where
  at_  : Nat
  reg  : Nat
  wide : Bool
  val  : DWord
  deriving DecidableEq, Repr

/-- Which barrier population (R239). -/
inductive BarKind where
  | team | gang | grid
  deriving DecidableEq, Repr, Inhabited

/-- What a parked thread waits for (R85). -/
inductive Wait where
  /-- The waiting part of BARWT, BARSYN, GBAR or CARVE: barrier, phase awaited, acquire scope, operation to complete. -/
  | barrier (kind : BarKind) (n : Nat) (phase : Word) (scope : Scope) (op : Nat)
  /-- A signature at a station of its core (R287). -/
  | station (n : Nat) (op : Nat)
  /-- A WAITC awaiting its reply (R254). -/
  | monitor (op : Nat)
  /-- A handle instruction waiting for its state (R248). -/
  | handle (op : Nat)
  /-- A queue port that is not ready (R251). -/
  | port
  /-- A copy slot, or a CPDESC of the descriptor slot named (R318, R323). -/
  | copySlot
  /-- An operation that holds the thread until it completes: CTXSV, CTXLD, a bag verdict, SPEND. -/
  | op (id : Nat)
  /-- TRET of a restored thread before its team's CTXLD.team has completed (R374). -/
  | restore
  deriving DecidableEq, Repr

/-- Where a thread stands (R79, R85, R94, R367, R380). -/
inductive ThreadStat where
  /-- Not in a gathering: at the header or word its program counter names. -/
  | ready
  /-- A member of a gathering in progress. -/
  | gathered
  /-- Held at the header of a reconvergence clause. -/
  | held
  | parked (w : Wait)
  /-- A trap raised, older operations not yet settled (R367 step 1). -/
  | trapping (t : Trap)
  /-- EXIT executed, counters not yet all zero (R94). -/
  | exiting
  | retired
  /-- Its save has ended (R380). -/
  | saved
  /-- Stopped by a kill, or by a trap that enters no handler (R370). -/
  | dead
  deriving DecidableEq, Repr

/-- Where a byte lies: physical memory, a team's core scratch by key, or chip scratch by partition offset. -/
inductive Place where
  | g (pa : Nat) | scratch (team key : Nat) | k (c : Nat)
  deriving DecidableEq, Repr

/-- A thread (Table 0.3). `v` holds REGS registers; one at or above that count reads as an undefined value (R16). -/
structure Thread where
  /-- Address of the clause header. -/
  hdr     : Addr
  /-- Word of the clause the thread stands at: 0 the header, k the k-th word after it (R374 lets a thread resume there). -/
  pos     : Nat
  /-- The governing value of the clause in progress (R28). -/
  gov     : Bool
  stat    : ThreadStat
  rstack  : List Addr
  spilled : Nat
  v       : List Word
  /-- p0 to p6. -/
  p       : BitVec 7
  /-- d0 to d7. -/
  d       : List (BitVec 6)
  /-- Handler mode; PRIV goes with it (R364, R366, R367). -/
  hand    : Bool
  dbg     : Bool
  tcause  : Word
  tpc     : DWord
  thdr    : DWord
  taddr   : DWord
  tsc     : List Word
  /-- Writes of the T registers under way, in issue order (R375). -/
  tset    : List TWrite
  /-- The clock from which the thread's next instruction may issue (R37). -/
  tNext   : Nat
  pend    : List Pend
  busy    : List Busy
  /-- A PREEMPT with detail 0 raised and not yet taken (R78, R370). -/
  preempt : Bool
  /-- The pending wait that TRET reinstates (R381). -/
  waitK   : Option Wait
  /-- Its thread record is in memory: written by CTXSV.thread and not read back (R376, R384). -/
  out     : Bool
  /-- The clock from which the thread has been ready without a break (R80). -/
  since   : Option Nat
  /-- What a thread of a matrix-role quire has stored since its last MOPF: first byte and length (R292). -/
  unfenced : List (Place × Nat) := []
  deriving DecidableEq, Repr

/-- The role of a quire (R310); a spine is a quire of one thread. -/
inductive Role where
  | spine | matrix | vector
  deriving DecidableEq, Repr, Inhabited

/-- A quire (Table 0.3), or the spine context of a team (R308): lane rank 0 alone. -/
structure Quire where
  team     : Nat
  qid      : Nat
  /-- Physical core. -/
  core     : Nat
  /-- Issue partition 0 to 7; 8 for the spine pipeline. -/
  ip       : Nat
  role     : Role
  threads  : List Thread
  /-- q0 to q159. -/
  q        : List Word
  /-- The handler bank that q152 to q159 name in handler mode (R369). -/
  hb       : List Word
  /-- qp0 to qp6. -/
  qp       : BitVec 7
  /-- `%flags` (Table 5.2). -/
  flags    : Word
  /-- Changes of `%flags` by issued instructions, in the order in which they take effect (R106). -/
  fset     : List FlagEv
  pend     : List Pend
  busy     : List Busy
  /-- In the active set (R79). -/
  active   : Bool
  /-- Resolution order of a pending quire (R79); 0 when not resolved. -/
  resolved : Nat
  /-- A clause with YIELD, or a YIELD, lets the quire be swapped out (R79). -/
  yielded  : Bool
  /-- Reconvergence clauses that may issue, by address and mode, in the order in which they became ready (R87). -/
  reconv   : List (Addr × Bool)
  /-- The quire record has moved in the current save (R376). -/
  movedOut : Bool
  /-- The quire record has moved in the current restore (R376). -/
  movedIn  : Bool
  /-- Its record is in memory: written by CTXSV.quire and not read back (R384). -/
  out      : Bool
  deriving DecidableEq, Repr

/-- A gathering whose clause is in progress (R80). The clause's words are those read when it started (log entry 9). Members
are gathered, or parked by an instruction of the clause that is not its last. -/
structure Gath where
  core    : Nat
  ip      : Nat
  hdr     : Addr
  header  : Word
  words   : List Word
  /-- Word of the next instruction, counted from 1; past the last word when the clause is over. -/
  pos     : Nat
  members : List ThreadId
  deriving DecidableEq, Repr

/-- A barrier (R239). `carve` is the size recorded by the first CARVE arrival of the phase, `hold` while the release of a
completed CARVE waits (R182). -/
structure Barrier where
  ph      : Word
  arrived : List ThreadId
  carve   : Option Nat
  hold    : Bool
  /-- It has completed 2^31 phases or more (R241). -/
  old     : Bool
  /-- What the other chips of a grid have brought in this phase: rank, arrived, live (R243). -/
  far     : List (Nat × Nat × Nat)
  deriving DecidableEq, Repr

/-- A handle's STATE (Table 10.5). -/
inductive HState where
  | free | filling | full | draining
  deriving DecidableEq, Repr, Inhabited

/-- A handle (Table 10.5). -/
structure Handle where
  state : HState
  ph    : Bool
  err   : Bool
  base  : Nat
  size  : Nat
  exp   : Nat
  dlv   : Nat
  carry : Nat
  /-- The tick of the step that last made it full: a HEXP of the step after it is of the same clock (R249; log entry 13). -/
  fullAt : Nat
  deriving DecidableEq, Repr

/-- A word of a queue (R251), with the core that pushed it and the clock. -/
structure PortWord where
  word  : Word
  core  : Nat
  clock : Nat
  deriving DecidableEq, Repr

/-- A share window open for a team on one of its cores (R348). -/
structure Window where
  core  : Nat
  /-- Bag word. -/
  bag   : Word
  share : Nat
  /-- First byte and length of the window, virtual. -/
  va    : Nat
  len   : Nat
  deriving DecidableEq, Repr

/-- A handle instruction, waiting or about to execute (R248), with the operand values it read at issue. -/
inductive HandleOp where
  | acq (base size : Nat) | exp (n : Nat) | take (ph : Bool) (d : Nat) | free
  deriving DecidableEq, Repr

/-- A parked handle instruction, in issue order. -/
structure HWaiter where
  op      : Nat
  h       : Nat
  what    : HandleOp
  quire   : Nat
  threads : List ThreadId
  deriving DecidableEq, Repr

/-- Progress of a team's save or restore (R376, R380, R382). -/
inductive SavePhase where
  | none | saving | saved | restoring
  deriving DecidableEq, Repr, Inhabited

/-- A placed or saved team (R74, R308). -/
structure Team where
  gang     : Nat
  index    : Nat
  rank     : Nat
  cores    : List Nat
  /-- Quire table indices of its quires, by quire rank. -/
  quires   : List Nat
  /-- Quire table index of its spine. -/
  spine    : Nat
  barriers : List Barrier
  handles  : List Handle
  /-- qd, qr, qx0 to qx3. -/
  queues   : List (List PortWord)
  /-- The last access of each queue: core, clock, issue partition (R251). -/
  lastPort : List (Nat × Nat × Nat)
  /-- 16 descriptor slots of 128 bytes. -/
  desc     : List (Option (List Byte))
  /-- CPDESC operations in flight per slot are the operations of kind cpdesc. -/
  windows  : List Window
  hwait    : List HWaiter
  /-- Granules of 64 KiB on each core (R172). -/
  allot    : Nat
  /-- Core scratch by (rank of the core in `cores`) × 2^24 + offset; zero bytes are not listed. -/
  scratch  : List Host.Cell
  /-- Private slot (R170). -/
  ps       : Option Nat
  /-- Save area number within CTXPOOL, and its base address (R377, R402). -/
  area     : Option Nat
  ended    : Bool
  /-- CARVEs that have been granted and whose granules have not changed hands (R182): barrier number and N, in order. -/
  carving  : List (Nat × Nat)
  phase    : SavePhase
  /-- The team record, and the unit record of each core named, moved in this save (R376). -/
  movedOut : Bool
  unitOut  : List Nat
  /-- The team record, and the unit record of each core named, moved in this restore (R376). -/
  movedIn  : Bool
  unitIn   : List Nat
  deriving DecidableEq, Repr

/-- A gang (R76, R313). -/
structure Gang where
  grid     : Nat
  number   : Nat
  teams    : List Nat
  barriers : List Barrier
  relaunch : Nat
  /-- Kills of the gang in its grid (R387). -/
  kills    : Nat
  halted   : Bool
  /-- Order of admission (R78). -/
  admitted : Nat
  resident : Bool
  dead     : Bool
  deriving DecidableEq, Repr

/-- A launch record (Table 13.1), reserved fields left out. -/
structure LaunchRec where
  attr     : Word
  teams    : Nat
  maxTeams : Nat
  gx       : Nat
  entryS   : Addr
  entryM   : Addr
  entryV   : Addr
  ptroot   : Nat
  privBase : Nat
  privLim  : Nat
  pslots   : Nat
  kbase    : Nat
  ksize    : Nat
  shape    : Word
  scratch  : Nat
  slots    : List Slot
  deriving DecidableEq, Repr

/-- The state of a grid that RESERVE brought (R407, R408). -/
inductive Multi where
  | none | reserved | committed
  deriving DecidableEq, Repr, Inhabited

/-- A grid (R73, R312). -/
structure Grid where
  part     : Nat
  /-- GRID number, chosen by the host. -/
  number   : Word
  record   : LaunchRec
  /-- Place in the launch queue (R73). -/
  order    : Nat
  /-- Gang numbers waiting to be placed, first first. -/
  pending  : List Nat
  /-- Saved gangs waiting to be placed again, as gang table indices. -/
  saved    : List Nat
  count    : Nat
  max      : Nat
  status   : Word
  ended    : Nat
  /-- Checked execution (ATTR.CHK, or compulsory, R313). -/
  chk      : Bool
  barriers : List Barrier
  /-- A spine has executed FETCHW or GROWG (R334). -/
  creates  : Bool
  admitted : Bool
  relaunch : Nat
  /-- Kills so far of each gang number, where any (R387). -/
  kills    : List (Nat × Nat)
  /-- %relaunch of each gang number, where not zero. -/
  relaunches : List (Nat × Nat)
  multi    : Multi
  gid      : Nat
  chips    : Nat
  chipRank : Nat
  team0    : Nat
  /-- First cores held for a reservation not yet started. -/
  reserved : List Nat
  dead     : Bool
  reported : Bool
  deriving DecidableEq, Repr

/-- An L1 line (R176). `line` is the physical address over 128. -/
structure L1Line where
  line   : Nat
  shared : Bool
  valid  : BitVec 128
  dirty  : BitVec 128
  data   : BitVec 1024
  prio   : Nat
  /-- Order of last use, for the normal replacement order. -/
  used   : Nat
  /-- The quire whose store dirtied it last: of its grid is the write-back (R391). -/
  owner  : Option Nat := none
  deriving DecidableEq, Repr

/-- A TLB entry (R187): a page of one grid's tables by its number, and the leaf with the page size (log2). -/
structure TlbEntry where
  root : Nat
  page : Nat
  pte  : DWord
  size : Nat
  deriving DecidableEq, Repr

/-- How far a walk has come (R183): at a table with so many levels below it, or at its end. -/
inductive WalkAt where
  | at_ (below base : Nat)
  | leaf (e : DWord) (size : Nat)
  | xlate
  /-- An entry that it names lies in another partition's memory (R24). -/
  | prot
  deriving DecidableEq, Repr

/-- A page walk in progress (R187): the address walked, the entries read so far, and who waits with which address. -/
structure Walk where
  id      : Nat
  root    : Nat
  va      : Nat
  come    : WalkAt
  waiters : List (ThreadId × Nat)
  deriving DecidableEq, Repr

/-- An operation of the matrix unit, with the operand values of its round (R288, R291). -/
inductive MatOp where
  | load (transpose : Bool) (slot : Slot) (wb ws : Nat)
  | swap
  | stream (zero : Bool) (slot : Slot) (tile ab as_ row0 m : Nat)
  | zero (tile row0 m : Nat)
  | fill (space : Space) (tile base stride row0 m : Nat)
  | drain (bf16 add : Bool) (space : Space) (tile base stride row0 m : Nat)
  | drainv (rows tile d row : Nat)
  deriving DecidableEq, Repr

/-- An issued matrix operation. -/
structure MatRun where
  id      : Nat
  team    : Nat
  what    : MatOp
  /-- Each signer with the operation that carries its counter. -/
  signers : List (ThreadId × Nat)
  started : Bool
  /-- The 128-byte pieces of each row of an MFILL or MDRAIN, as translated at round issue (R290). -/
  rows    : List (List Place)
  /-- What the start read or computed, to be written at completion: source rows of MLOAD, result rows of the others. -/
  result  : List (List Word)
  /-- Scale and band bytes that an MLOAD read. -/
  scales  : List Byte
  bands   : List (BitVec 16)
  /-- The flags of each result row of an MSTREAM. -/
  flags   : List Flags
  /-- A row was recomputed (R286). -/
  chkr    : Bool
  /-- What its signers had stored without an MOPF since, when its round issued (R292). -/
  late    : List (Place × Nat) := []
  deriving DecidableEq, Repr

/-- Bytes that an unfinished matrix operation reads, or writes (R292): `hits` are the offsets that another agent has
touched so that their values are undefined. -/
structure Watch where
  owner : Nat
  row   : Nat
  place : Place
  len   : Nat
  write : Bool
  hits  : List Nat
  deriving DecidableEq, Repr

/-- A station (R244) with the operand set of its round's first signer (R288). -/
structure Station where
  owner   : Option Nat
  n       : Nat
  /-- Each thread that has signed the round, with the operation that carries its counter. -/
  signers : List (ThreadId × Nat)
  set     : Option (Instr × List Word)
  deriving DecidableEq, Repr

/-- A weight plane (R277). -/
structure Plane where
  /-- Format record: word 0 of the slot that loaded it, none when EMPTY. -/
  fmt    : Option Word
  /-- 256 rows of 32 words (untransposed layout, R280); empty when never loaded. -/
  rows   : List (List Word)
  /-- Block scale codes of row n and block j at 32n + j, and band scales. -/
  scales : List Byte
  bands  : List (BitVec 16)
  /-- Checksum column (R286): the exact sums over the output columns, as ±m × 2^e; none where a NaN or infinity enters. -/
  check  : List (Option (Bool × Nat × Int))
  deriving DecidableEq, Repr

/-- The matrix unit of a core (R277). -/
structure MatUnit where
  planes  : List Plane
  active  : Nat
  /-- Format records as issued, shadow and active (R290). -/
  issued  : List (Option Word)
  issuedActive : Nat
  /-- Rows of 256 words per tile; a row not listed is zero. -/
  tiles   : List (List (List Word))
  status  : List (BitVec 8)
  /-- Operations in unit order. -/
  ops     : List MatRun
  /-- Team that holds the unit (R279). -/
  holder  : Option Nat
  deriving DecidableEq, Repr

/-- What a copy command moves (R325 to R330). Addresses are those checked at issue: (physical or scratch address) pieces. -/
inductive CopyKind where
  | desc (slot : Nat) | load | store | gather | mcast | fill | fetchw | growg
  deriving DecidableEq, Repr

/-- A piece of a copy (R319): for loads a run of buffer bytes within one line of scratch, for a CPSTORE the bytes of one line
of memory in element order. -/
structure Piece where
  /-- Offset from the handle's BASE of the piece's first byte (loads). -/
  off  : Nat
  /-- For each byte the physical address it is read from, or written to; none for a byte outside the tensor. -/
  src  : List (Option Nat)
  /-- For each byte of a CPSTORE its offset in the spine's core scratch. -/
  from_ : List Nat
  /-- Bytes given with the command (CPDESC, CPFILL, FETCHW, GROWG). -/
  data : List Byte
  done : Bool
  deriving DecidableEq, Repr

/-- A copy command in flight (R318). -/
structure Copy where
  id      : Nat
  team    : Nat
  core    : Nat
  kind    : CopyKind
  /-- Teams and the handle delivered to (R326), with the BASE read at issue. -/
  dests   : List (Nat × Nat × Nat)
  pieces  : List Piece
  /-- Eviction priority of its accesses (Table 13.5). -/
  prio    : Nat
  /-- Lines of memory that a CPMCAST has read and whose bytes later pieces need (R326). -/
  got     : List (Nat × List Byte)
  started : Bool
  op      : Nat
  deriving DecidableEq, Repr

/-- A core (R14, R187). -/
structure Core where
  /-- `%cycles` (R365). -/
  clock    : Nat
  lines    : List L1Line
  tlb      : List TlbEntry
  /-- Micro TLB of each issue partition and of the spine pipeline (R187). -/
  micro    : List (List TlbEntry)
  walks    : List Walk
  /-- Next free issue slot of each issue partition and of the spine pipeline (R80, R309). -/
  slots    : List Nat
  stations : List Station
  unit     : MatUnit
  copies   : List Copy
  quar     : Bool
  /-- Majority decisions since reset (R389). -/
  chkCount : Nat
  /-- The spine context that the scalar pipeline served last, by quire table index (R309). -/
  spineLast : Nat
  deriving DecidableEq, Repr

/-- A registered condition monitor (R253). -/
structure Monitor where
  op    : Nat
  /-- Physical address of the watched word, or chip-scratch byte key when `k`. -/
  k     : Bool
  addr  : Nat
  wide  : Bool
  cond  : Nat
  y     : DWord
  gang  : Nat
  deriving DecidableEq, Repr

/-- An open NRED round (R232). -/
structure Round where
  line     : Nat
  n        : Nat
  sub      : Nat
  arrivals : List (Nat × Word × Nat)
  deriving DecidableEq, Repr

/-- A cached stamp table entry with its code line (R224). -/
structure StampEntry where
  part  : Nat
  index : Nat
  entry : BitVec 128
  code  : List Word
  deriving DecidableEq, Repr

/-- A slice (R204 to R206). -/
structure Slice where
  /-- SL_ORD. -/
  ord      : Word
  /-- Lines held, with their eviction priority. -/
  tags     : List (Nat × Nat)
  /-- The lines held that an update has changed since they came: dirty ones (R204). -/
  dirty    : List Nat
  monitors : List Monitor
  rounds   : List Round
  /-- Stamp entries that the slice holds (R224). -/
  stamps   : List StampEntry
  deriving DecidableEq, Repr

/-- One thread's share of a request: `off` within the line, `size` bytes, the bytes it writes or its operand, the registers
its result goes to (uniform ones belong to the thread's quire), and the L1 bytes that override the reply. -/
structure Item where
  thread : ThreadId
  off    : Nat
  size   : Nat
  data   : List Byte
  regs   : List RegId
  ext    : Size
  own    : List (Nat × Byte)
  res    : List Byte
  deriving DecidableEq, Repr

/-- What a request asks of its destination (R198, R206, R220, R229, R232, R253). -/
inductive ReqKind where
  | load | store | writeback
  | atomic (op w : Nat) (cas : Bool) (reply : Bool)
  | stamp (idx reply r : Nat)
  | nred (sub n : Nat)
  | monitor (wide : Bool) (cond : Nat) (y : DWord)
  /-- A fetch into the L1, slice or memory-side cache for PREF. -/
  | fetch (level : Nat)
  /-- An arrival at a gang or grid barrier's unit: the gang or grid index, the barrier, and whether it is a retirement. -/
  | barrier (kind : BarKind) (owner n : Nat) (retire : Bool)
  /-- A bag's record write (R343). -/
  | record
  /-- An access of a team's core scratch (R172, R173); the items' offsets are scratch keys. -/
  | scratch (team : Nat) (write : Bool)
  /-- An access already performed within the core (L1 hit): only its reply is outstanding. -/
  | local_
  deriving DecidableEq, Repr

/-- Where a request stands. -/
inductive ReqStage where
  /-- At its leaf, which injects nothing during a rehash (R213). -/
  | leaf
  /-- Behind an unfinished release of its thread (R179). -/
  | held
  /-- On its way to the slice, or waiting there. -/
  | sent
  /-- Refused by a full line wait queue; its leaf resends it (R212). -/
  | refused
  /-- Waiting at the slice for a free NRED round (R234), or for a condition (R253). -/
  | waiting
  /-- Answered with POLL (R253). -/
  | poll
  /-- Applied; its reply is on the way back. -/
  | replied
  /-- To be replayed after a plane died (R213): `kept` is true when the slice holds its reply. -/
  | replay (kept : Bool)
  deriving DecidableEq, Repr

/-- A request outstanding at a leaf's replay buffer (R198, R210, R214). -/
structure Req where
  id      : Nat
  op      : Nat
  kind    : ReqKind
  core    : Nat
  part    : Nat
  /-- Chip scratch (the line is then a chip-scratch line, by partition offset). -/
  k       : Bool
  line    : Nat
  slice   : Nat
  plane   : Nat
  seq     : Nat
  items   : List Item
  /-- Line data: dirty bytes of a write-back, the reply of a load. -/
  data    : BitVec 1024
  mask    : BitVec 128
  shared  : Bool
  prio    : Nat
  lu      : Bool
  noAlloc : Bool
  tag     : Option Word
  /-- A fault found at the slice (R230, R233), raised at the reply. -/
  fault   : Option Trap
  /-- Its requester class at the memory controllers (Table 8.6). -/
  cls     : Nat
  /-- The sequence tags that its updates took at the slice, returned with the reply (R206, R214). -/
  ord     : List Word
  /-- The tick at which it joined its line's wait queue (R212); 0 when it stands in none. -/
  joined  : Nat
  /-- The quire whose stores a write-back carries (R391). -/
  owner   : Option Nat := none
  stage   : ReqStage
  deriving DecidableEq, Repr

/-- Phases of an operation's ordering (R179, R255). -/
inductive OpPhase where
  | relWait | active | acqWait
  deriving DecidableEq, Repr, Inhabited

/-- What an outstanding instruction is. -/
inductive OpKind where
  /-- A memory access through requests. -/
  | mem
  | fence (kind : FenceKind)
  /-- An arrival, with the v register of its expected phase; and whether it then waits. `n` and kind name the barrier. -/
  | barrier (kind : BarKind) (n : Nat) (dest : Option Nat) (waits : Bool)
  /-- A CARVE with its size (R182). -/
  | carve (n size : Nat)
  | stampsync (all : Bool) (idx : Nat) (left : List Nat)
  | handle
  | matrix
  | mwait
  | mstat (sel : Nat) (clr : Bool) (d : Nat) (runs : List Nat)
  | copy
  | growg (n d : Nat)
  | spend (grid : Bool) (status : Word)
  | bag (id : Nat)
  | context (save : Bool) (unit : Nat)
  | stamp | waitc | nred
  deriving DecidableEq, Repr

/-- An instruction of variable latency that has issued and not completed. -/
structure Op where
  id      : Nat
  kind    : OpKind
  /-- Threads for which it has not completed. -/
  threads : List ThreadId
  /-- SETD, when SETEN is 1. -/
  ctr     : Option Nat
  core    : Nat
  quire   : Nat
  /-- Where the instruction stands: clause header and word, for a trap that its verdict raises (R11). -/
  hdr     : Addr
  pos     : Nat
  phase   : OpPhase
  rel     : Scope
  acq     : Scope
  /-- It reads memory into registers (R255 acquire waits for it). -/
  reads   : Bool
  /-- A write-through of the core that others' releases wait for (R179). -/
  wrThru  : Bool
  /-- Lines it touches, for same-line order behind a waiting release. -/
  lines   : List Nat
  dests   : List RegId
  uniform : Bool
  deriving DecidableEq, Repr

/-- Fabric (R209, R213, R216). -/
structure Fabric where
  alive  : BitVec 4
  bkt    : List (BitVec 2)
  busy   : Bool
  rehash : BitVec 16
  /-- Planes on which a leaf has reported no progress (R213). -/
  reported : BitVec 4
  /-- Next source number per (leaf, slice), where not zero (R214). -/
  seqs   : List (Nat × Nat)
  deriving DecidableEq, Repr

/-- A request of a slice or memory-side cache to a controller (R188, R192): the line, the page size (log2) of its leaf, and
its requester class. -/
structure MemReq where
  line : Nat
  size : Nat
  cls  : Nat
  deriving DecidableEq, Repr

/-- A line that a memory-side cache holds (R188, R204). -/
structure SideLine where
  line  : Nat
  dirty : Bool
  deriving DecidableEq, Repr

/-- A leaf that a translation has used (R186): the tables' partition and root, the address, and the frame with its page size
(log2). -/
structure LeafUse where
  part : Nat
  root : Nat
  va   : Nat
  lo   : Nat
  size : Nat
  deriving DecidableEq, Repr

/-- A range of memory that its banks decrypt under another key than its lines were stored under: the lines without a byte in
`State.mem` read as undefined values, but for those that were written since (R393; log entry 72). -/
structure Garbled where
  lo  : Nat
  len : Nat
  but : List Nat
  deriving DecidableEq, Repr

/-- A request in a pseudo-channel (R189): its number of arrival, its deadline, its requester class, line and bank. -/
structure McEntry where
  seq  : Nat
  due  : Nat
  cls  : Nat
  line : Nat
  bank : Nat
  deriving DecidableEq, Repr

/-- One pseudo-channel of a controller: queued and held requests per service class, oldest first; postponed refreshes per
bank; alerts in order of arrival; banks that refresh or an alert's handling makes unavailable, each until its clock (R189,
R192, R193). -/
structure Channel where
  queues  : List (List McEntry)
  holds   : List (List McEntry)
  credit  : List Nat
  postponed : List (Nat × Nat)
  alerts  : List Nat
  away    : List (Nat × Nat)
  /-- Arrivals so far. -/
  arrived : Nat
  /-- The channel's memory clock (R189). -/
  clock   : Nat
  deriving DecidableEq, Repr

/-- A memory controller (R188 to R193) with its placer's queue (R342). -/
structure Ctrl where
  svc     : List (BitVec 2)
  budget  : List (BitVec 16)
  wgt     : Word
  miss    : List Word
  abo     : Word
  channels : List (Nat × Channel)
  /-- Bag operation ids waiting, in bag order of arrival (R342). -/
  bagq    : List Nat
  deriving DecidableEq, Repr

/-- An open group of a bag (Table 14.4). -/
structure Group where
  share : Nat
  frame : Nat
  tag   : Byte
  fill  : Nat
  deriving DecidableEq, Repr

/-- A live bag at its placer (Table 14.4). `frames` are the physical frames of the B pages. -/
structure Bag where
  num    : Nat
  gen    : Nat
  part   : Nat
  stack  : Nat
  shape  : Word
  cap    : Nat
  vb     : Nat
  frames : List Nat
  /-- KEY of each page as BAGNEW found it (Table 8.4). -/
  keys   : List Nat
  groups : List Group
  r      : List Nat
  fp     : List Nat
  cut    : List Nat
  n      : Nat
  k      : Nat
  deriving DecidableEq, Repr

/-- A bag operation on its way (R342). -/
inductive BagWhat where
  /-- Records in rising lane rank: thread, key, words; `p` receives the outcome. -/
  | put (recs : List (ThreadId × Byte × List Word)) (p : Nat)
  | cut
  | cnt (share : Option Nat) (d : Nat)
  | map (share : Nat) (d : Nat)
  | drn
  | grow (cap : Word)
  | free
  deriving DecidableEq, Repr

/-- Where a bag operation stands. -/
inductive BagStage where
  | sent | refused | queued | applied
  deriving DecidableEq, Repr, Inhabited

/-- One bag operation. -/
structure BagOp where
  id      : Nat
  op      : Nat
  bag     : Word
  part    : Nat
  stack   : Nat
  core    : Nat
  team    : Nat
  quire   : Nat
  threads : List ThreadId
  what    : BagWhat
  stage   : BagStage
  /-- Verdict: per thread placed or not; counts or words to write; a fault. -/
  placed  : List (ThreadId × Bool)
  values  : List Word
  fault   : Option Trap
  deriving DecidableEq, Repr

/-- A saved record of a save area (R376); the device lays out all but the thread record (Table 15.7), whose bytes are in
memory. -/
inductive SavedRec where
  | thread (t : ThreadId)
  | quire (q : Quire)
  | team (t : Team) (spine : Quire) (stations : List (Nat × Nat × Station))
  | unit (u : MatUnit)
  deriving DecidableEq, Repr

/-- A record stored at a physical address, `altered` when any of its bytes was written since (R376). -/
structure SavedAt where
  addr    : Nat
  len     : Nat
  what    : SavedRec
  altered : Bool
  deriving DecidableEq, Repr

/-- What a checkpoint saved of a partition's memory (R409): its bytes, with what the model keeps about them. -/
structure Image where
  mem    : List Host.Cell
  undef  : List (Nat × BitVec 128)
  poison : List Nat
  saves  : List SavedAt
  garbled : List Garbled
  /-- The key under which each line was written to the sink (R392, R393): the listed ones, the sealed pages, and the rest. -/
  forms  : List (Nat × BitVec 512)
  pages  : List (Nat × Nat × BitVec 512)
  base   : BitVec 512
  deriving DecidableEq, Repr

/-- What a checkpoint save sends to its sink (R409): the bytes of the ranges in rising order. A line is sent as the ciphertext
listed for it, else as that of 128 zero bytes, or of undefined ones, under its page's key, `base` where the page is not sealed. -/
structure CkStream where
  sink    : DWord
  ranges  : List (Nat × Nat)
  lines   : List (Nat × List Byte)
  pages   : List (Nat × Nat × BitVec 512)
  base    : BitVec 512
  garbled : List Garbled
  tick    : Nat
  deriving DecidableEq, Repr

/-- A partition block (Table 16.3) with the partition's units and logs. -/
structure Part where
  units    : UnitSet
  lqBase   : Nat
  lqSize   : Nat
  lqHead   : Nat
  lqTail   : Nat
  eqBase   : Nat
  eqSize   : Nat
  eqHead   : Nat
  eqTail   : Nat
  eqLost   : Word
  tvec     : DWord
  svec     : DWord
  rvec     : DWord
  ctxpool  : Nat
  ctxcnt   : Nat
  tlbinv   : DWord
  dbg      : Word
  dbgGrid  : Word
  replay   : Word
  logbase  : DWord
  ckAddr   : DWord
  ckCtl    : Word
  keyst    : BitVec 128
  stBase   : Nat
  /-- Save areas handed out, by number. -/
  areas    : List Nat
  /-- Events held while the ring is full (R404). -/
  held     : List (List Byte)
  /-- Requests discarded for naming another partition (R24). -/
  errors   : Nat
  compulsory : Bool
  /-- Replay log, and the entries still to come in enforce mode (R391). -/
  log      : List (Nat × Nat × Nat)
  /-- The launches that the replay log records, and those still to come in enforce mode: the record's bytes and the SHA-256
  digest of each buffer that the host declared (R391). -/
  launches : List (List Byte × List (List Byte))
  /-- Generation per bag number, where not zero (R337). -/
  gens     : List (Nat × Nat)
  /-- The model key last loaded in each slot; KEYST says which slots hold one (R393, R395). -/
  keys     : List (Nat × BitVec 512)
  /-- A checkpoint save has stopped placement (R409). -/
  ckSaving : Bool
  ckImage  : Option Image
  /-- Debug halts requested during a save (R410). -/
  ckHalts  : List (Word × Word)
  deriving DecidableEq, Repr

/-- The device block (Tables 16.1, 16.2). -/
structure Dev where
  en     : Bool
  ready  : Bool
  enok   : Bool
  recovery : Bool
  fatal  : Bool
  featOff : List Word
  featAcc : List Word
  deriving DecidableEq, Repr

/-- An SPDM session (R394, R395): its number, the partition it is bound to, the requester's share, its transcript, and how many
of its messages have been opened. -/
structure Session where
  number : Nat
  part   : Nat
  share  : List Byte
  established : Bool
  transcript : List Byte
  opened : Nat
  deriving DecidableEq, Repr

/-- The security processor (R394). -/
structure Sec where
  versionDone : Bool
  capsDone    : Bool
  algsDone    : Bool
  sessions    : List Session
  next        : Nat
  /-- Transcript of the messages so far, for signatures. -/
  transcript  : List Byte
  /-- Keys drawn so far, and which of them each partition has (R392). -/
  draws       : Nat
  partKeys    : List Nat
  /-- The images that bring-up verified: the security processor's firmware and the device's (R396). -/
  images      : List (List Byte)
  /-- Resets so far: each derives the attestation key anew (R396). -/
  resets      : Nat
  deriving DecidableEq, Repr

/-- What the device has sent outside. -/
inductive Output where
  | msix (part : Nat)
  /-- REPORT: GID, teams resident, teams pending, state (R407). -/
  | report (gid resident pending state : Nat)
  | spdm (name : String) (data : List Byte)
  | spdmError (name : String)
  /-- To the other chips of a grid, over the scale-up ports (R243, R408): this chip's arrivals and live threads of a grid
  barrier, and rank 0's word that its phase is complete. -/
  | barrierCounts (gid n rank arrived live : Nat)
  | barrierDone (gid n : Nat)
  | hostData (data : List Byte)
  | peerData (data : List Byte)
  | checkpoint (part : Nat) (data : CkStream)
  | fatal
  deriving DecidableEq, Repr

/-- A soft error to come: an outside input (R108, R286; log entry 4). It meets the checked instruction or matrix start that
runs at tick `at_`. -/
structure Upset where
  at_   : Nat
  /-- True when a majority or a recomputation succeeds, false when it does not. -/
  minor : Bool
  deriving DecidableEq, Repr

/-- Whose turn it is: the gathering of that index issues its next instruction, `wait` clocks later than it could at the
earliest (R37, R84), or another agent takes a step. -/
inductive Turn where
  | issue (g wait : Nat)
  | event (i : Instr)
  deriving DecidableEq, Repr

/-- The instruction being issued: its gathering, the taking threads, the clock, and where it stands (the model's own). -/
structure Cur where
  gath : Nat
  /-- Words of the instruction. -/
  size : Nat
  /-- Clocks it waits beyond the earliest clock of R37. -/
  wait : Nat
  deriving DecidableEq, Repr

/-- A kill decided and not yet carried out (R386): gang and cause. -/
structure Kill where
  gang  : Nat
  cause : Nat
  deriving DecidableEq, Repr

/-- The whole machine. -/
structure State where
  tick    : Nat
  agenda  : List Turn
  upsets  : List Upset
  cur     : Option Cur
  nextId  : Nat
  grids   : List Grid
  gangs   : List Gang
  teams   : List Team
  quires  : List Quire
  gaths   : List Gath
  ops     : List Op
  net     : List Req
  bagOps  : List BagOp
  bags    : List Bag
  cores   : List Core
  slices  : List Slice
  ctrls   : List Ctrl
  fabric  : Fabric
  parts   : List Part
  dev     : Dev
  sec     : Sec
  /-- Physical memory as its home slices hold it, and the chip scratch by slice × 2^19 + byte (R174, R208). -/
  mem     : List Host.Cell
  kmem    : List Host.Cell
  /-- Bytes of memory that read as undefined values, as line and mask (R181, R292). -/
  undef   : List (Nat × BitVec 128)
  /-- Lines with an uncorrectable error (R385). -/
  poison  : List Nat
  /-- Bytes of core scratch and chip scratch that hold undefined values (R292). -/
  undefAt : List Place
  /-- What unfinished matrix operations read and write (R292). -/
  watch   : List Watch
  /-- Ranges of memory that leaves of two page sizes map, first byte and size (R186). -/
  mixed   : List (Nat × Nat)
  /-- The leaves that translations have used, newest first (R186). -/
  leaves  : List LeafUse
  /-- What the memory-side caches hold (R188, R204), newest first. -/
  mside   : List SideLine
  /-- What the slices and memory-side caches have asked of the memory controllers and no pseudo-channel has accepted yet (R188,
  R192). -/
  memq    : List MemReq
  /-- Ranges of memory whose unwritten lines stand under another key (R393). -/
  garbled : List Garbled
  /-- Physical pages sealed under a model-key slot, as a translation gave them (R393): first byte, bytes, slot. -/
  sealedPages : List (Nat × Nat × Nat)
  /-- Lines that a port wrote since a translation last used their page: in a page that turns out to be sealed their bytes are
  ciphertext (R393; log entry 72). -/
  portLines : List Nat
  saves   : List SavedAt
  kills   : List Kill
  out     : List Output
  deriving DecidableEq, Repr

/-! ### Reset -/

/-- A station at reset: free (R236). -/
def Station.reset : Station := { owner := none, n := 0, signers := [], set := none }
/-- An EMPTY plane (R277). -/
def Plane.reset : Plane := { fmt := none, rows := [], scales := [], bands := [], check := [] }
/-- The matrix unit at reset (R277). -/
def MatUnit.reset : MatUnit :=
  { planes := [Plane.reset, Plane.reset], active := 0, issued := [none, none], issuedActive := 0,
    tiles := [[], [], [], []], status := [0, 0, 0, 0], ops := [], holder := none }
/-- A core at reset. -/
def Core.reset : Core :=
  { clock := 0, lines := [], tlb := [], micro := List.replicate 9 [], walks := [], slots := List.replicate 9 0,
    stations := List.replicate 16 Station.reset, unit := MatUnit.reset, copies := [], quar := false, chkCount := 0, spineLast := 0 }
/-- A slice at reset. -/
def Slice.reset : Slice := { ord := 0, tags := [], dirty := [], monitors := [], rounds := [], stamps := [] }
/-- A controller at reset (Tables 8.6, 8.8). -/
def Ctrl.reset : Ctrl :=
  { svc := [0, 2, 1, 2, 1, 0, 3, 3], budget := [400, 2000, 800, 2000, 800, 300, 8000, 4000], wgt := 0x01020408,
    miss := List.replicate 8 0, abo := 0, channels := [], bagq := [] }
/-- The fabric at reset (Tables 9.3, 9.4). -/
def Fabric.reset : Fabric :=
  { alive := 0xF, bkt := (List.range 256).map (fun b => BitVec.ofNat 2 b), busy := false, rehash := 0, reported := 0, seqs := [] }
/-- A partition block at reset with the units given (R22, Table 16.3; log entry 3). -/
def Part.reset (u : UnitSet) : Part :=
  { units := u, lqBase := 0, lqSize := 0, lqHead := 0, lqTail := 0, eqBase := 0, eqSize := 0, eqHead := 0, eqTail := 0,
    eqLost := 0, tvec := 0, svec := 0, rvec := 0, ctxpool := 0, ctxcnt := 0, tlbinv := 0, dbg := 0, dbgGrid := 0,
    replay := 0, logbase := 0, ckAddr := 0, ckCtl := 0, keyst := 0, stBase := 0, areas := [], held := [], errors := 0,
    compulsory := false, log := [], launches := [], gens := [], keys := [], ckSaving := false, ckImage := none, ckHalts := [] }
/-- No units. -/
def UnitSet.empty : UnitSet := { clusters := [], slices := [], hbm := [], mem := [], schemes := [] }
/-- Every unit (R13, R22), with the 64 GB of each of the twelve stacks from address 0 on (Table 1.2), all in interleave scheme 0 (log entry 3). -/
def UnitSet.all : UnitSet := { clusters := List.range 32, slices := List.range 256, hbm := List.range 12, mem := [(0, 768 * 10 ^ 9)], schemes := [] }
/-- The partition blocks at reset: partition 0 holds every unit (R22). -/
def partsReset : List Part := Part.reset UnitSet.all :: List.replicate 7 (Part.reset UnitSet.empty)
/-- The device block at reset (Table 16.2, R401; log entry 3). -/
def Dev.reset : Dev :=
  { en := false, ready := false, enok := false, recovery := false, fatal := false, featOff := [0xF, 0, 0, 0], featAcc := [0, 0, 0, 0] }
/-- The security processor at reset (R394). -/
def Sec.reset : Sec :=
  { versionDone := false, capsDone := false, algsDone := false, sessions := [], next := 0, transcript := [],
    draws := 1, partKeys := List.replicate 8 0, images := [], resets := 0 }

/-- The machine right after reset: nothing placed, every register at the value INVENTORY.md names, memory with nothing
listed (R22, R277, R392, R400, R411). -/
def State.reset : State :=
  { tick := 0, agenda := [], upsets := [], cur := none, nextId := 1, grids := [], gangs := [], teams := [], quires := [],
    gaths := [], ops := [], net := [], bagOps := [], bags := [], cores := List.replicate 256 Core.reset,
    slices := List.replicate 256 Slice.reset, ctrls := List.replicate 12 Ctrl.reset, fabric := Fabric.reset,
    parts := partsReset, dev := Dev.reset, sec := Sec.reset, mem := [], kmem := [], undef := [], poison := [], undefAt := [], watch := [], mixed := [], leaves := [], mside := [],
    memq := [], garbled := [],
    sealedPages := [], portLines := [], saves := [], kills := [], out := [] }

end Sys2Proof.Machine
end

