-- ==== Sys2Proof/Machine/BagShape.lean ====
section
/-! DEFINITION. Shapes and slots of a bag, and which bytes of its frames hold records (R338 to R340). -/

namespace Sys2Proof.Machine

/-! ### Shapes (R338 to R340) -/

/-- RS of a shape word, in bytes. -/
def shapeRS (w : Word) : Nat := 8 <<< (w.extractLsb' 29 2).toNat
/-- O. -/
def shapeO (w : Word) : Nat := (w.extractLsb' 25 4).toNat + 1
/-- G. -/
def shapeG (w : Word) : Nat := (w.extractLsb' 19 6).toNat + 1
/-- B. -/
def shapeB (w : Word) : Nat := (w.extractLsb' 8 11).toNat
/-- TRAPFULL. -/
def shapeTrap (w : Word) : Bool := w.getLsbD 31
/-- F: the least power of two at least `n`, from `f` upwards. -/
def leastPow (n : Nat) : Nat → Nat → Nat
  | 0, f => f
  | k + 1, f => if n ≤ f then f else leastPow n k (2 * f)
/-- F of a shape. -/
def shapeF (w : Word) : Nat := leastPow (shapeG w * shapeRS w) 11 1
/-- R338: a legal shape. -/
def shapeOk (w : Word) : Bool :=
  decide (4 ≤ shapeB w) && decide (shapeB w ≤ 1024) && decide (shapeG w * shapeRS w ≤ 1024) && w.extractLsb' 0 8 == 0
/-- R338: a legal capacity for a shape. -/
def capOk (w cw : Word) : Bool :=
  cw.extractLsb' 17 15 == 0 && decide (1 ≤ cw.toNat) && decide (cw.toNat ≤ 65536 / shapeF w)

/-- R340: byte offset of a slot within its share. -/
def Bag.slotOff (b : Bag) (i : Nat) : Nat := i / shapeG b.shape * shapeF b.shape + i % shapeG b.shape * shapeRS b.shape
/-- The physical address of a slot, by the frames that BAGNEW recorded. -/
def Bag.slotPa (b : Bag) (share i : Nat) : Nat := b.frames.getD share 0 + b.slotOff i
/-- Frames that n slots reach into. -/
def ceilDiv (n g : Nat) : Nat := (n + g - 1) / g

/-- R340, R343: slots of frame `f` of a share that hold records: those that the latest cut covers, all of a full group, or
the fill of an open one. -/
def Bag.holdsIn (b : Bag) (share f : Nat) : Nat :=
  let g := shapeG b.shape
  let cut := b.cut.getD share 0
  if f < ceilDiv cut g then min g (cut - f * g)
  else if b.fp.getD share 0 ≤ f then 0
  else match b.groups.find? (fun x => x.share == share && x.frame == f) with
    | some x => x.fill
    | none => g

/-- R340: a byte of a live bag's frames that no record holds: it lies beyond G × RS of its frame, or in a slot without a
record. -/
def Bag.gap (b : Bag) (a : Nat) : Bool :=
  let share := b.frames.findIdx (fun f => f == a / 65536 * 65536)
  let off := a % 65536
  let f := off / shapeF b.shape
  let i := off % shapeF b.shape / shapeRS b.shape
  decide (share < b.frames.length) && decide (f < b.cap) && decide (b.holdsIn share f ≤ i)

end Sys2Proof.Machine
end

