-- ==== Sys2Proof/Machine/Ops.lean ====
section
/-! DEFINITION. The named operations over memory and registers, taking an exception and returning from one, and the
shared bookkeeping of kills, events and outstanding operations. -/

namespace Sys2Proof.Machine

/-! ### Bytes by address, in one canonical form -/

/-- The byte at an address; an address not listed reads as zero (R172, R392; log entry 5). -/
def cellGet : List Host.Cell → Nat → Byte
  | [], _ => 0
  | (b, x) :: rest, a => if b = a then x else if b < a then cellGet rest a else 0

/-- Store a byte, keeping addresses strictly rising and listing no zero. -/
def cellSet : List Host.Cell → Nat → Byte → List Host.Cell
  | [], a, v => if v = 0 then [] else [(a, v)]
  | (b, x) :: rest, a, v =>
    if b < a then (b, x) :: cellSet rest a v
    else if b = a then (if v = 0 then rest else (a, v) :: rest)
    else if v = 0 then (b, x) :: rest else (a, v) :: (b, x) :: rest

/-- The canonical form: addresses strictly rising, no byte equal to what an unlisted address reads as. -/
def cellWf : List Host.Cell → Bool
  | [] => true
  | [(_, x)] => x != 0
  | (a, x) :: (b, y) :: rest => x != 0 && decide (a < b) && cellWf ((b, y) :: rest)

/-- Store consecutive bytes. -/
def cellSetList (m : List Host.Cell) : Nat → List Byte → List Host.Cell
  | _, [] => m
  | a, b :: bs => cellSetList (cellSet m a b) (a + 1) bs

/-- Consecutive bytes. -/
def cellGetList (m : List Host.Cell) (a n : Nat) : List Byte := (List.range n).map (fun i => cellGet m (a + i))

/-- Zero every byte of [lo, hi). -/
def cellClear (m : List Host.Cell) (lo hi : Nat) : List Host.Cell :=
  m.filter (fun c => decide (c.1 < lo) || decide (hi ≤ c.1))

/-- The little-endian value of bytes (R4). -/
def leNat : List Byte → Nat
  | [] => 0
  | b :: bs => b.toNat + 256 * leNat bs

/-- The low `n` bytes of a number, lowest first (R4). -/
def leBytes (n : Nat) (x : Nat) : List Byte := (List.range n).map (fun i => BitVec.ofNat 8 (x >>> (8 * i)))

/-- An element put into a sorted list, before the first that `le` does not put earlier. -/
def insertBy {α : Type} (le : α → α → Bool) (x : α) : List α → List α
  | [] => [x]
  | y :: ys => if le x y then x :: y :: ys else y :: insertBy le x ys
/-- A list sorted by `le`; equals keep their order. -/
def sortBy {α : Type} (le : α → α → Bool) (l : List α) : List α := l.foldr (insertBy le) []

/-- The 32-bit words of a byte string. -/
def bytesWords (bs : List Byte) : List Word := (List.range (bs.length / 4)).map (fun i => BitVec.ofNat 32 (leNat ((bs.drop (4 * i)).take 4)))

/-! ### Objects of the machine by number -/

/-- A thread as placed (R75) with `regs` v registers. -/
def Thread.placed (entry : Addr) (regs : Nat) : Thread :=
  { hdr := entry, pos := 0, gov := true, stat := .ready, rstack := [], spilled := 0, v := List.replicate regs 0, p := 0,
    d := List.replicate 8 0, hand := false, dbg := false, tcause := 0, tpc := 0, thdr := 0, taddr := 0,
    tsc := [0, 0, 0, 0], tset := [], tNext := 0, pend := [], busy := [], preempt := false, waitK := none, out := false, since := none }
/-- A thread that is not there. -/
def Thread.absent : Thread := { Thread.placed 0 0 with stat := .retired }
/-- A quire that is not there. -/
def Quire.absent : Quire :=
  { team := 0, qid := 0, core := 0, ip := 0, role := .vector, threads := [], q := [], hb := [], qp := 0, flags := 0,
    fset := [], pend := [], busy := [], active := false, resolved := 0, yielded := false, reconv := [], movedOut := false,
    movedIn := false, out := false }
/-- A barrier at reset (Table 10.1). -/
def Barrier.reset : Barrier := { ph := 0, arrived := [], carve := none, hold := false, old := false, far := [] }
/-- A handle at reset (Table 10.1). -/
def Handle.reset : Handle :=
  { state := .free, ph := false, err := false, base := 0, size := 0, exp := 0, dlv := 0, carry := 0, fullAt := 0 }
/-- A team that is not there. -/
def Team.absent : Team :=
  { gang := 0, index := 0, rank := 0, cores := [], quires := [], spine := 0, barriers := [], handles := [], queues := [], lastPort := [],
    desc := [], windows := [], hwait := [], allot := 0, scratch := [], ps := none, area := none, ended := true,
    carving := [], phase := .none, movedOut := false, unitOut := [], movedIn := false, unitIn := [] }
/-- A gang that is not there. -/
def Gang.absent : Gang :=
  { grid := 0, number := 0, teams := [], barriers := [], relaunch := 0, kills := 0, halted := false, admitted := 0,
    resident := false, dead := true }
/-- An all-zero launch record. -/
def LaunchRec.zero : LaunchRec :=
  { attr := 0, teams := 0, maxTeams := 0, gx := 0, entryS := 0, entryM := 0, entryV := 0, ptroot := 0, privBase := 0,
    privLim := 0, pslots := 0, kbase := 0, ksize := 0, shape := 0, scratch := 0, slots := [] }
/-- A grid that is not there. -/
def Grid.absent : Grid :=
  { part := 0, number := 0, record := LaunchRec.zero, order := 0, pending := [], saved := [], count := 0, max := 0,
    status := 0, ended := 0, chk := false, barriers := [], creates := false, admitted := false, relaunch := 0, kills := [],
    relaunches := [], multi := .none, gid := 0, chips := 0, chipRank := 0, team0 := 0, reserved := [], dead := true,
    reported := true }

namespace State

/-- Quire number `i`. -/
def quire (s : State) (i : Nat) : Quire := s.quires.getD i Quire.absent
/-- A thread. -/
def thread (s : State) (t : ThreadId) : Thread := (s.quire t.quire).threads.getD t.lane Thread.absent
/-- Team number `i`. -/
def team (s : State) (i : Nat) : Team := s.teams.getD i Team.absent
/-- Gang number `i` of the gang table. -/
def gang (s : State) (i : Nat) : Gang := s.gangs.getD i Gang.absent
/-- Grid number `i` of the grid table. -/
def grid (s : State) (i : Nat) : Grid := s.grids.getD i Grid.absent
/-- Core number `i`. -/
def core (s : State) (i : Nat) : Core := s.cores.getD i Core.reset
/-- Partition block `i`. -/
def part (s : State) (i : Nat) : Part := s.parts.getD i (Part.reset UnitSet.empty)

/-- The gang of a quire. -/
def gangOf (s : State) (q : Nat) : Nat := (s.team (s.quire q).team).gang
/-- The grid of a quire. -/
def gridOf (s : State) (q : Nat) : Nat := (s.gang (s.gangOf q)).grid
/-- The hardware partition that owns a core (R22): 8 when none does. -/
def partOfCore (s : State) (c : Nat) : Nat := s.parts.findIdx (fun p => p.units.clusters.contains (c / 8))
/-- The hardware partition that owns a slice. -/
def partOfSlice (s : State) (sl : Nat) : Nat := s.parts.findIdx (fun p => p.units.slices.contains sl)

/-- Update a quire. -/
def modQuire (s : State) (q : Nat) (f : Quire → Quire) : State := { s with quires := s.quires.modify q f }
/-- Update a thread. -/
def modThread (s : State) (t : ThreadId) (f : Thread → Thread) : State :=
  s.modQuire t.quire (fun q => { q with threads := q.threads.modify t.lane f })
/-- Update several threads. -/
def modThreads (s : State) (ts : List ThreadId) (f : ThreadId → Thread → Thread) : State :=
  { s with quires := s.quires.mapIdx (fun qi q =>
      { q with threads := q.threads.mapIdx (fun l th => if ts.contains ⟨qi, l⟩ then f ⟨qi, l⟩ th else th) }) }
/-- Update a team. -/
def modTeam (s : State) (i : Nat) (f : Team → Team) : State := { s with teams := s.teams.modify i f }
/-- Update a gang. -/
def modGang (s : State) (i : Nat) (f : Gang → Gang) : State := { s with gangs := s.gangs.modify i f }
/-- Update a grid. -/
def modGrid (s : State) (i : Nat) (f : Grid → Grid) : State := { s with grids := s.grids.modify i f }
/-- Update a core. -/
def modCore (s : State) (i : Nat) (f : Core → Core) : State := { s with cores := s.cores.modify i f }
/-- Update a partition block. -/
def modPart (s : State) (i : Nat) (f : Part → Part) : State := { s with parts := s.parts.modify i f }
/-- Update a slice. -/
def modSlice (s : State) (i : Nat) (f : Slice → Slice) : State := { s with slices := s.slices.modify i f }
/-- Update a controller. -/
def modCtrl (s : State) (i : Nat) (f : Ctrl → Ctrl) : State := { s with ctrls := s.ctrls.modify i f }

/-- A fresh identity. -/
def fresh (s : State) : Nat × State := (s.nextId, { s with nextId := s.nextId + 1 })

end State

/-- A thread is live from its placement until it retires (R239); a killed thread is not. -/
def Thread.live (th : Thread) : Bool := match th.stat with | .retired | .dead => false | _ => true

/-- The live threads of a quire. -/
def State.liveOf (s : State) (q : Nat) : List ThreadId :=
  (List.range 32).filterMap (fun l => if (s.thread ⟨q, l⟩).live then some ⟨q, l⟩ else none)
/-- The live threads of a team, the spine left out (R239). -/
def State.teamLive (s : State) (t : Nat) : List ThreadId := (s.team t).quires.flatMap s.liveOf
/-- The live threads of a gang. -/
def State.gangLive (s : State) (g : Nat) : List ThreadId := (s.gang g).teams.flatMap s.teamLive
/-- The gangs of a grid, as gang table indices. -/
def State.gangsOf (s : State) (g : Nat) : List Nat :=
  (List.range s.gangs.length).filter (fun i => (s.gang i).grid == g && !(s.gang i).dead)
/-- The live threads of a grid. -/
def State.gridLive (s : State) (g : Nat) : List ThreadId := (s.gangsOf g).flatMap s.gangLive

/-! ### Registers -/

/-- Separates the free values drawn in one step. -/
def saltOf (t : ThreadId) (n : Nat) : Nat := (t.quire * 32 + t.lane) * 4096 + n

/-- R41: the values that a register held before its fixed-latency writes that are not yet readable at clock `now`, newest
first. Writes take effect in issue order (R126): nothing older shows behind one that is readable. -/
def oldValues (now : Nat) (r : RegId) : List Pend → List Word
  | [] => []
  | p :: ps => if p.reg ≠ r then oldValues now r ps else if now < p.at_ then p.old :: oldValues now r ps else []

/-- R41: one of a register's content and the other values it may show: which one is unpredictable. -/
def settle (tick salt : Nat) (others : List Word) (cur : Word) : Word :=
  match others with
  | [] => cur
  | _ => (cur :: others).getD (Config.freeNat tick salt % (others.length + 1)) cur

/-- Registers by word for a load item: the chunk's data offset counts in words from the destination. -/
def loadRegs (reg : Nat → RegId) (d off size : Nat) : List RegId :=
  if size < 4 then [reg d] else (List.range (size / 4)).map (fun i => reg (d + off / 4 + i))

/-- R196: registers' values from the bytes of an item. -/
def extendLoad (sz : Size) (bs : List Byte) : List Word :=
  match sz with
  | .n8 | .n16 => [BitVec.ofNat 32 (leNat bs)]
  | .i8 => [(BitVec.ofNat 8 (leNat bs)).signExtend 32]
  | .i16 => [(BitVec.ofNat 16 (leNat bs)).signExtend 32]
  | _ => bytesWords bs

/-- The bytes a reply brings an item: those the L1 held, else the line's. -/
def replyBytes (r : Req) (it : Item) : List Byte :=
  match r.kind with
  | .atomic .. | .stamp .. | .nred .. | .monitor .. => it.res
  | _ => (List.range it.size).map (fun i => match it.own.find? (fun x => x.1 == i) with
    | some x => x.2
    | none => (r.data >>> (8 * (it.off + i))).setWidth 8)

/-- The registers that a bag operation's values go to. -/
def BagWhat.dest : BagWhat → Nat | .cnt _ d => d | .map _ d => d | _ => 0

/-- R41: the new values that pending variable-latency writes of a register bring, where they are determined: the reply is on
its way back, or the verdict (log entry 16). `mine` tells the threads whose register it is. -/
def State.coming (s : State) (busy : List Busy) (r : RegId) (mine : ThreadId → Bool) : List Word :=
  (busy.filter (fun b => b.reg == r)).flatMap (fun b =>
    ((s.net.filter (fun x => x.op == b.op && x.stage == .replied)).flatMap (fun x =>
      (x.items.filter (fun it => mine it.thread)).flatMap (fun it =>
        ((it.regs.zip (extendLoad it.ext (replyBytes x it))).filter (fun y => y.1 == r)).map (·.2)))) ++
    ((s.bagOps.filter (fun o => o.op == b.op && o.stage == .applied && o.threads.any mine)).flatMap (fun o =>
      (o.values.zipIdx.filter (fun y => r == .v (o.what.dest + y.2))).map (·.1))))

/-- R41: what a register may show beside its content. -/
def State.others (s : State) (now : Nat) (pend : List Pend) (busy : List Busy) (r : RegId) (mine : ThreadId → Bool) : List Word :=
  s.coming busy r mine ++ oldValues now r pend

/-- R16, R41: v register `n` of a thread as an instruction that issues at clock `now` reads it. -/
def State.readV (s : State) (now : Nat) (t : ThreadId) (n : Nat) : Word :=
  let th := s.thread t
  match th.v[n]? with
  | some w => settle s.tick (saltOf t n) (s.others now th.pend th.busy (.v n) (· == t)) w
  | none => Config.freeWord s.tick (saltOf t n)

/-- One bit as a word. -/
def bitWord (b : Bool) : Word := if b then 1 else 0

/-- p register `n` of a thread; p7 is true (R34). -/
def State.readP (s : State) (now : Nat) (t : ThreadId) (n : Nat) : Bool :=
  let th := s.thread t
  n == 7 || (settle s.tick (saltOf t (256 + n)) (s.others now th.pend th.busy (.p n) (· == t)) (bitWord (th.p.getLsbD n))).getLsbD 0

/-- The storage a q name denotes: q152 to q159 are the handler bank in handler mode (R369), numbered from 408. -/
def qName (hand : Bool) (n : Nat) : Nat := if hand && decide (152 ≤ n) && decide (n < 160) then n + 256 else n

/-- The content of a storage number of `qName`. -/
def Quire.getQ (q : Quire) (n : Nat) : Word := if n < 160 then q.q.getD n 0 else q.hb.getD (n - 408) 0
/-- Store to a storage number of `qName`. -/
def Quire.setQ (q : Quire) (n : Nat) (w : Word) : Quire :=
  if n < 160 then { q with q := q.q.set n w } else { q with hb := q.hb.set (n - 408) w }

/-- A q register as an instruction that issues at clock `now` reads it; in handler mode when `hand`. -/
def State.readQ (s : State) (now : Nat) (hand : Bool) (qi n : Nat) : Word :=
  let q := s.quire qi
  let m := qName hand n
  settle s.tick (saltOf ⟨qi, 0⟩ (512 + m)) (s.others now q.pend q.busy (.q m) (fun t => t.quire == qi)) (q.getQ m)

/-- qp register `n`; qp7 is true (R34). -/
def State.readQp (s : State) (now : Nat) (qi n : Nat) : Bool :=
  let q := s.quire qi
  n == 7 || (settle s.tick (saltOf ⟨qi, 0⟩ (1024 + n)) (s.others now q.pend q.busy (.qp n) (fun t => t.quire == qi)) (bitWord (q.qp.getLsbD n))).getLsbD 0

/-- One change of `%flags` applied. -/
def FlagEv.apply (w : Word) (f : FlagEv) : Word := setFlags (clearFlags w f.clr) f.set
/-- `%flags` as clock `now` shows it (R106). -/
def Quire.flagsAt (q : Quire) (now : Nat) : Word := (q.fset.filter (fun f => decide (f.hold ≤ now))).foldl FlagEv.apply q.flags
/-- `%flags` with every change applied. -/
def Quire.flagsAll (q : Quire) : Word := q.fset.foldl FlagEv.apply q.flags
/-- The changes in effect at clock `now` are folded into the register. -/
def Quire.foldFlags (now : Nat) (q : Quire) : Quire :=
  { q with flags := q.flagsAt now, fset := q.fset.filter (fun f => decide (now < f.hold)) }
/-- R106: a clear stands before the sets of its own clock, so that a bit both set and cleared ends set. -/
def FlagEv.before (x y : FlagEv) : Bool := decide (x.hold < y.hold) || (x.hold == y.hold && x.set == 0)
/-- A change of `%flags` issues at clock `now`. -/
def Quire.addFlagEv (now : Nat) (f : FlagEv) (q : Quire) : Quire :=
  let q := q.foldFlags now
  { q with fset := insertBy FlagEv.before f q.fset }

/-- When a fixed-latency result is readable, and under checked execution written (R37, R107, R108). -/
structure Timing where
  at_   : Nat
  hold  : Nat
  lanes : List Nat
  deriving DecidableEq, Repr

/-- The writes to remember at clock `now`, newest first: those under way, and those of a register of which an older write still
is: it shows no more, since the newer one has taken its place (R126). -/
def pendKeep (now : Nat) : List Pend → List Pend
  | [] => []
  | p :: ps => let qs := pendKeep now ps; if now < p.hold || qs.any (fun x => x.reg == p.reg) then p :: qs else qs

/-- The writes under way after a write of `w` to `r` whose content was `cur`. -/
def pendAdd (now : Nat) (pend : List Pend) (tm : Timing) (r : RegId) (cur w : Word) : List Pend :=
  { reg := r, at_ := tm.at_, hold := tm.hold, old := cur, val := w, lanes := tm.lanes } :: pendKeep now pend

/-- A write of `w` takes effect while variable-latency writes of the register are pending: they overlap it (R41). -/
def busyOver (busy : List Busy) (r : RegId) (w : Word) : List Busy :=
  busy.map (fun b => if b.reg = r then { b with laps := w :: b.laps } else b)

/-- R16: fixed-latency write of a v register; discarded at or above REGS. Fixed-latency writes of one thread take effect in
issue order (R126). -/
def Thread.writeV (now : Nat) (tm : Timing) (n : Nat) (w : Word) (th : Thread) : Thread :=
  match th.v[n]? with
  | none => th
  | some cur =>
    { th with v := th.v.set n w, pend := pendAdd now th.pend tm (.v n) cur w, busy := busyOver th.busy (.v n) w }

/-- One bit of a predicate file. -/
def setBit (p : BitVec 7) (n : Nat) (b : Bool) : BitVec 7 :=
  if b then p ||| (BitVec.twoPow 7 n) else p &&& ~~~ (BitVec.twoPow 7 n)

/-- Fixed-latency write of a p register; a write to p7 is discarded (R34). -/
def Thread.writeP (now : Nat) (tm : Timing) (n : Nat) (b : Bool) (th : Thread) : Thread :=
  if 7 ≤ n then th
  else { th with p := setBit th.p n b, pend := pendAdd now th.pend tm (.p n) (bitWord (th.p.getLsbD n)) (bitWord b),
                 busy := busyOver th.busy (.p n) (bitWord b) }

/-- Fixed-latency write of a uniform register. -/
def Quire.writeQ (now : Nat) (tm : Timing) (hand : Bool) (n : Nat) (w : Word) (q : Quire) : Quire :=
  let m := qName hand n
  { q.setQ m w with pend := pendAdd now q.pend tm (.q m) (q.getQ m) w, busy := busyOver q.busy (.q m) w }

/-- Fixed-latency write of a uniform predicate; a write to qp7 is discarded. -/
def Quire.writeQp (now : Nat) (tm : Timing) (n : Nat) (b : Bool) (q : Quire) : Quire :=
  if 7 ≤ n then q
  else { q with qp := setBit q.qp n b, pend := pendAdd now q.pend tm (.qp n) (bitWord (q.qp.getLsbD n)) (bitWord b) }

/-- R106, R107: set flags when the instruction's result is written. -/
def Quire.addFlags (now : Nat) (tm : Timing) (f : Flags) (q : Quire) : Quire :=
  if f = 0 then q else q.addFlagEv now { at_ := tm.at_, hold := tm.hold, set := f, clr := 0 }

/-! ### Variable-latency register writes -/

/-- Mark a register as having a pending variable-latency write by operation `op`, issued at clock `now` (R41, R42). -/
def busyAdd (now : Nat) (pend : List Pend) (busy : List Busy) (r : RegId) (op : Nat) : List Busy :=
  { reg := r, op := op, laps := (pend.filter (fun p => p.reg == r && decide (now < p.at_))).map (·.val) } :: busy

/-- Mark registers of a thread pending. -/
def State.markV (s : State) (now : Nat) (t : ThreadId) (ns : List Nat) (op : Nat) : State :=
  s.modThread t (fun th => { th with busy := ns.foldl (fun b n => if n < th.v.length then busyAdd now th.pend b (.v n) op else b) th.busy })
/-- Mark a predicate of a thread pending; p7 has no storage. -/
def State.markP (s : State) (now : Nat) (t : ThreadId) (n op : Nat) : State :=
  s.modThread t (fun th => { th with busy := if n < 7 then busyAdd now th.pend th.busy (.p n) op else th.busy })
/-- Mark registers of a quire pending. -/
def State.markQ (s : State) (now qi : Nat) (hand : Bool) (ns : List Nat) (op : Nat) : State :=
  s.modQuire qi (fun q => { q with busy := ns.foldl (fun b n => busyAdd now q.pend b (.q (qName hand n)) op) q.busy })

/-- The values of the writes that overlap a pending write and may survive it (R41). -/
def lapsOf (busy : List Busy) (r : RegId) (op : Nat) : List Word := ((busy.find? (fun b => b.reg == r && b.op == op)).map (·.laps)).getD []

/-- The value left by a variable-latency write that completes: its own, or that of a write that overlapped it (R41). -/
def lateValue (tick salt : Nat) (busy : List Busy) (r : RegId) (op : Nat) (new : Word) : Word :=
  settle tick salt (lapsOf busy r op) new

/-- A pending write of `w` that has completed and left `x`: one that has survived overlaps the writes of the register that are
still pending (R41). -/
def busyDrop (busy : List Busy) (r : RegId) (op : Nat) (w x : Word) : List Busy :=
  let rest := busy.filter (fun b => !(b.reg == r && b.op == op))
  if x = w then busyOver rest r w else rest

/-- Complete a variable-latency write of a thread's register. -/
def Thread.lateV (tick : Nat) (t : ThreadId) (op n : Nat) (w : Word) (th : Thread) : Thread :=
  match th.v[n]? with
  | none => th
  | some _ =>
    let x := lateValue tick (saltOf t n) th.busy (.v n) op w
    { th with v := th.v.set n x, busy := busyDrop th.busy (.v n) op w x }
/-- Complete a variable-latency write of a predicate (BAGPUT). -/
def Thread.lateP (tick : Nat) (t : ThreadId) (op n : Nat) (b : Bool) (th : Thread) : Thread :=
  if 7 ≤ n then th
  else
    let x := lateValue tick (saltOf t (256 + n)) th.busy (.p n) op (bitWord b)
    { th with p := setBit th.p n (x.getLsbD 0), busy := busyDrop th.busy (.p n) op (bitWord b) x }
/-- Complete a variable-latency write of a uniform register; `m` is its storage number. -/
def Quire.lateQ (tick : Nat) (qi op m : Nat) (w : Word) (q : Quire) : Quire :=
  let x := lateValue tick (saltOf ⟨qi, 0⟩ (512 + m)) q.busy (.q m) op w
  { q.setQ m x with busy := busyDrop q.busy (.q m) op w x }

/-- Write a named register on completion of operation `op`. -/
def State.lateReg (s : State) (t : ThreadId) (op : Nat) (r : RegId) (w : Word) : State :=
  match r with
  | .v n => s.modThread t (Thread.lateV s.tick t op n w)
  | .p n => s.modThread t (Thread.lateP s.tick t op n (w.getLsbD 0))
  | .q m => s.modQuire t.quire (Quire.lateQ s.tick t.quire op m w)
  | .qp n => s.modQuire t.quire (fun q => if 7 ≤ n then q else { q with qp := setBit q.qp n (w.getLsbD 0) })

/-! ### Dependency counters (R39) -/

/-- Counter k of a thread. -/
def Thread.ctr (th : Thread) (k : Nat) : Nat := (th.d.getD k 0).toNat
/-- Raise a counter. -/
def Thread.inc (k : Nat) (th : Thread) : Thread := { th with d := th.d.modify k (· + 1) }
/-- Lower a counter. -/
def Thread.dec (k : Nat) (th : Thread) : Thread := { th with d := th.d.modify k (fun x => if x = 0 then 0 else x - 1) }
/-- All eight counters read zero. -/
def Thread.ctrsZero (th : Thread) : Bool := th.d.all (· == 0)

/-! ### Lines (R176) -/

/-- The line that holds a physical address. -/
def lineOf (a : Nat) : Nat := a / 128

/-- A range holds a line. -/
def lineWithin (lo n line : Nat) : Bool := decide (lo ≤ line * 128) && decide (line * 128 < lo + n)

/-- R393: a line of a range stands under another key and has not been written since. -/
def Garbled.has (g : Garbled) (line : Nat) : Bool := lineWithin g.lo g.len line && !g.but.contains line

/-- Bytes of a line that read as undefined values (R181, R292, R393). -/
def State.undefMask (s : State) (line : Nat) : BitVec 128 :=
  ((s.undef.find? (fun u => u.1 == line)).map (·.2)).getD (if s.garbled.any (fun g => g.has line) then BitVec.allOnes 128 else 0)

/-- Replace the undefined mask of a line. -/
def State.setUndef (s : State) (line : Nat) (m : BitVec 128) : State :=
  { s with
    undef := (if m = 0 then [] else [(line, m)]) ++ s.undef.filter (fun u => u.1 != line),
    garbled := s.garbled.map (fun g => if g.has line then { g with but := line :: g.but } else g) }

/-- R186: a byte of a frame that leaves of two page sizes map. -/
def State.isMixed (s : State) (a : Nat) : Bool := s.mixed.any (fun r => decide (r.1 ≤ a) && decide (a < r.1 + r.2))

/-- A byte at a place lies in a watched piece. -/
def Watch.has (w : Watch) (p : Place) : Bool :=
  match w.place, p with
  | .g lo, .g a | .k lo, .k a => decide (lo ≤ a) && decide (a < lo + w.len)
  | .scratch t lo, .scratch t' a => t == t' && decide (lo ≤ a) && decide (a < lo + w.len)
  | _, _ => false

/-- R292: an unfinished matrix operation writes the byte at a place. -/
def State.hides (s : State) (p : Place) : Bool := s.watch.any (fun w => w.write && w.has p)

/-- R340: a byte of a bag's frames that no record holds. -/
def State.inGap (s : State) (a : Nat) : Bool := s.bags.any (fun b => b.gap a)

/-- A byte of physical memory that reads as undefined whatever is stored there: leaves of two page sizes map it (R186), an
unfinished matrix operation writes it (R292), or no record of a bag's frames holds it (R340). -/
def State.isOpen (s : State) (a : Nat) : Bool := s.isMixed a || s.hides (.g a) || s.inGap a

/-- A byte of physical memory at its home slice; an undefined byte reads as a free value (R2). -/
def State.memByte (s : State) (a : Nat) : Byte :=
  if (s.undefMask (lineOf a)).getLsbD (a % 128) || s.isOpen a then Config.freeByte s.tick a else cellGet s.mem a

/-- Consecutive bytes of physical memory. -/
def State.memBytes (s : State) (a n : Nat) : List Byte := (List.range n).map (fun i => s.memByte (a + i))

/-- A partition offset of chip scratch as `State.watch` and `State.undefAt` name it: with its partition. -/
def kAt (part c : Nat) : Place := .k (part * 2 ^ 30 + c)
/-- A place of a partition as `State.watch` and `State.undefAt` name it. -/
def Place.inPart (part : Nat) : Place → Place
  | .k c => kAt part c
  | p => p

/-- Offsets within a watched piece that an access of n bytes at a place covers. -/
def Watch.covered (w : Watch) (p : Place) (n : Nat) : List Nat :=
  let cover := fun (lo a : Nat) => (List.range w.len).filter (fun i => decide (a ≤ lo + i) && decide (lo + i < a + n))
  match w.place, p with
  | .g lo, .g a => cover lo a
  | .k lo, .k a => cover lo a
  | .scratch t lo, .scratch t' a => if t = t' then cover lo a else []
  | _, _ => []

/-- R292: an agent writes bytes that an unfinished matrix operation reads or writes. -/
def State.noteWrite (s : State) (p : Place) (n : Nat) : State :=
  { s with watch := s.watch.map (fun w => { w with hits := w.hits ++ w.covered p n }) }
/-- R292: an agent reads bytes that an unfinished matrix operation writes. -/
def State.noteRead (s : State) (p : Place) (n : Nat) : State :=
  { s with watch := s.watch.map (fun w => if w.write then { w with hits := w.hits ++ w.covered p n } else w) }

/-- A store of bytes within one line at its home slice: written bytes are defined; a write of the whole line ends its
poison (R385); a save record under it is altered (R376). -/
def State.memWrite (s : State) (a : Nat) (bs : List Byte) : State :=
  let line := lineOf a
  let m := (List.range bs.length).foldl (fun m i => m &&& ~~~ (BitVec.twoPow 128 ((a + i) % 128))) (s.undefMask line)
  { ((s.setUndef line m).noteWrite (.g a) bs.length) with
    mem := cellSetList s.mem a bs,
    poison := if bs.length = 128 then s.poison.filter (· != line) else s.poison,
    saves := s.saves.map (fun r => if r.addr < a + bs.length && a < r.addr + r.len then { r with altered := true } else r) }

/-- Runs of bytes, first offset and length, cover a line. -/
def coversLine (rs : List (Nat × Nat)) : Bool :=
  (List.range 128).all (fun i => rs.any (fun r => decide (r.1 ≤ i) && decide (i < r.1 + r.2)))
/-- R385: one update that writes the whole line, in however many runs, ends its poison. -/
def State.unpoison (s : State) (line : Nat) (rs : List (Nat × Nat)) : State :=
  if s.poison.contains line && coversLine rs then { s with poison := s.poison.filter (· != line) } else s

/-- Store the bytes that a mask selects from line data, in rising offset. -/
def State.memMerge (s : State) (line : Nat) (mask : BitVec 128) (bs : List Byte) : State :=
  if mask = BitVec.allOnes 128 then s.memWrite (line * 128) (bs.take 128)
  else (List.range 128).foldl (fun s i => if mask.getLsbD i then s.memWrite (line * 128 + i) [bs.getD i 0] else s) s

/-- A byte of a team's core scratch; an undefined byte reads as a free value (R2, R292). -/
def State.scratchByte (s : State) (team key : Nat) : Byte :=
  if s.undefAt.contains (.scratch team key) || s.hides (.scratch team key) then Config.freeByte s.tick (2 ^ 49 + team * 2 ^ 29 + key)
  else cellGet (s.team team).scratch key
/-- Bytes of a team's core scratch. -/
def State.scratchBytes (s : State) (team key n : Nat) : List Byte := (List.range n).map (fun i => s.scratchByte team (key + i))

/-- Bytes at a place are written: they hold undefined values no more. -/
def State.define (s : State) (p : Nat → Place) (n : Nat) : State :=
  if s.undefAt.isEmpty then s else { s with undefAt := s.undefAt.filter (fun x => !(List.range n).any (fun i => x == p i)) }

/-- The bytes of line data. -/
def lineBytes (d : BitVec 1024) : List Byte := (List.range 128).map (fun i => (d >>> (8 * i)).setWidth 8)
/-- Line data from 128 bytes. -/
def lineData (bs : List Byte) : BitVec 1024 := BitVec.ofNat 1024 (leNat (bs.take 128))
/-- Replace `bs` at offset `off` of line data. -/
def linePut (d : BitVec 1024) (off : Nat) (bs : List Byte) : BitVec 1024 :=
  let old := lineBytes d
  lineData (old.take off ++ bs ++ old.drop (off + bs.length))
/-- The byte mask of `n` bytes at offset `off`. -/
def lineMask (off n : Nat) : BitVec 128 := BitVec.ofNat 128 ((2 ^ n - 1) <<< off)

/-- R207: the fold of an address over eight bits. -/
def sliceFold (pa : Nat) : Nat :=
  Nat.xor (Nat.xor (Nat.xor (pa / 2 ^ 7 % 256) (pa / 2 ^ 15 % 256)) (Nat.xor (pa / 2 ^ 23 % 256) (pa / 2 ^ 31 % 256)))
    (Nat.xor (pa / 2 ^ 39 % 256) (pa / 2 ^ 47 % 2))
/-- S: the stacks of a partition in rising order (R186). -/
def Part.stacks (p : Part) : List Nat := sortBy (fun a b => decide (a ≤ b)) p.units.hbm
/-- First slice SB of a partition. -/
def Part.sb (p : Part) : Nat := p.units.slices.headD 0
/-- Slice count SC of a partition. -/
def Part.sc (p : Part) : Nat := p.units.slices.length
/-- R207: the home slice of a physical address in partition `p`. -/
def homeSlice (p : Part) (pa : Nat) : Nat := p.sb + sliceFold pa % p.sc
/-- R208: the slice that holds partition offset c of chip scratch. -/
def kSlice (p : Part) (c : Nat) : Nat := p.sb + c / 128 % p.sc
/-- R208: the byte of its slice's chip scratch that holds partition offset c. -/
def kByte (p : Part) (c : Nat) : Nat := c / (128 * p.sc) * 128 + c % 128
/-- The key of `State.kmem` for partition offset c. -/
def kKey (p : Part) (c : Nat) : Nat := kSlice p c * 2 ^ 19 + kByte p c
/-- R209: the bucket of an address. -/
def bucketOf (pa : Nat) : Nat :=
  Nat.xor (Nat.xor (Nat.xor (pa / 2 ^ 11 % 256) (pa / 2 ^ 19 % 256)) (Nat.xor (pa / 2 ^ 27 % 256) (pa / 2 ^ 35 % 256)))
    (Nat.xor (pa / 2 ^ 43 % 32) (pa / 2 ^ 7 % 16 * 16))
/-- R209: the plane of an address, the same at every leaf. -/
def State.planeOf (s : State) (pa : Nat) : Nat := (s.fabric.bkt.getD (bucketOf pa) 0).toNat

/-! ### Events, kills, traps -/

/-- Send something outside. -/
def State.emit (s : State) (o : Output) : State := { s with out := s.out ++ [o] }

/-- Kill a gang with a cause (R370, R386): GANG_KILL carries it out. A gang already being killed keeps its cause. -/
def State.addKill (s : State) (g cause : Nat) : State :=
  if (s.gang g).dead || s.kills.any (fun k => k.gang == g) then s
  else { s with kills := s.kills ++ [{ gang := g, cause := cause }] }

/-- Trap code numbers (Table 15.4). -/
def TrapCode.num : TrapCode → Nat
  | .illop => 0x01 | .illclause => 0x02 | .stallShort => 0x03 | .role => 0x04 | .priv => 0x05 | .align => 0x06
  | .privlim => 0x07 | .xlate => 0x08 | .prot => 0x09 | .space => 0x0A | .mismatch => 0x0B | .station => 0x0C
  | .handle => 0x0D | .stampf => 0x0E | .bagfull => 0x0F | .bagbad => 0x10 | .nredf => 0x11 | .gangabort => 0x12
  | .brk => 0x13 | .trap => 0x14 | .rstack => 0x15 | .work => 0x16 | .check => 0x17 | .preempt => 0x18 | .port => 0x19
  | .sealed => 0x1A

/-- R367 step 4: the codes that record a faulting address. -/
def TrapCode.hasAddr : TrapCode → Bool
  | .align | .privlim | .xlate | .prot | .space | .sealed => true
  | _ => false

/-- R368: `%tcause`. -/
def Trap.cause (tr : Trap) : Word := (0#8 ++ BitVec.ofNat 16 tr.detail ++ BitVec.ofNat 8 tr.code.num : BitVec (8 + 16 + 8))

/-- The vector a trap enters (R367 step 5). -/
def State.vector (s : State) (t : ThreadId) (tr : Trap) : DWord :=
  let p := s.part (s.partOfCore (s.quire t.quire).core)
  if tr.code = .preempt && tr.detail = 0 then p.svec else p.tvec

/-- R370: the trap enters no handler. -/
def State.noHandler (s : State) (t : ThreadId) (tr : Trap) : Bool :=
  (s.quire t.quire).role == .spine || tr.code == .check || tr.code == .gangabort ||
  ((s.thread t).hand && tr.code != .preempt) || s.vector t tr == 0

/-- The operation that a wait is for. -/
def Wait.op? : Wait → Option Nat
  | .barrier _ _ _ _ z | .station _ z | .monitor z | .handle z | .op z => some z
  | _ => none

/-- R367 step 1: older instructions of the thread that write a register and have not, a pending reply or a pending wait
aside (R381), or a store that its release still keeps from the L1 (R179). -/
def State.olderWrites (s : State) (t : ThreadId) : Bool :=
  s.ops.any (fun o => o.threads.contains t && !o.dests.isEmpty && o.kind != .waitc && o.kind != .nred &&
    (s.thread t).waitK.bind Wait.op? != some o.id) ||
  s.net.any (fun r => r.stage == .held && r.kind == .store && r.items.any (fun it => it.thread == t))

/-- A 64-bit register after a write of 32 or 64 bits (R375). -/
def partWrite (wide : Bool) (old new : DWord) : DWord := if wide then new else (old &&& 0xFFFFFFFF00000000) ||| (new &&& 0xFFFFFFFF)

/-- Table 15.1: a T register `n` is written; a register without a Write entry ignores it. -/
def Thread.sysWrite (n : Nat) (wide : Bool) (x : DWord) (th : Thread) : Thread :=
  match n with
  | 16 => { th with dbg := x.getLsbD 4 }
  | 17 => { th with tcause := x.setWidth 32 }
  | 18 => { th with tpc := partWrite wide th.tpc x }
  | 19 => { th with thdr := partWrite wide th.thdr x }
  | 20 => { th with taddr := partWrite wide th.taddr x }
  | k => if 21 ≤ k ∧ k ≤ 24 then { th with tsc := th.tsc.set (k - 21) (x.setWidth 32) } else th

/-- A write of a T register takes effect. -/
def TWrite.apply (th : Thread) (w : TWrite) : Thread := th.sysWrite w.reg w.wide w.val
/-- R375: the writes of T registers that have taken effect by clock `now`; they do so in issue order. -/
def Thread.settleT (now : Nat) (th : Thread) : Thread :=
  { (th.tset.takeWhile (fun w => decide (w.at_ ≤ now))).foldl TWrite.apply th with
    tset := th.tset.dropWhile (fun w => decide (w.at_ ≤ now)) }
/-- Every write of a T register that has issued has taken effect. -/
def Thread.applyT (th : Thread) : Thread := { th.tset.foldl TWrite.apply th with tset := [] }
/-- R41: the T registers as an instruction that issues at clock `now` reads them: each write under way shows or does not. -/
def Thread.seenT (tick now : Nat) (t : ThreadId) (th : Thread) : Thread :=
  let th := th.settleT now
  (th.tset.zipIdx.filter (fun w => Config.freeBool tick (saltOf t (3072 + w.2)))).foldl (fun th w => w.1.apply th) th

/-- The address a thread stands at: its clause address and word. -/
def Thread.pcAt (th : Thread) : Addr := th.hdr + BitVec.ofNat 48 (4 * th.pos)

/-- R367 steps 2 to 4: the trap record of a thread that stands at its resume address; older writes of the T registers have
taken effect. -/
def Thread.record (tr : Trap) (th : Thread) : Thread :=
  { th.applyT with
      tcause := tr.cause, thdr := th.hdr.setWidth 64, tpc := th.pcAt.setWidth 64,
      taddr := if tr.code.hasAddr then BitVec.ofNat 64 tr.addr else 0 }

/-- R83: a thread that leaves the place where it waited for a page walk waits for it no more. -/
def State.leaveWalks (s : State) (t : ThreadId) : State :=
  s.modCore (s.quire t.quire).core (fun k => { k with walks := k.walks.map (fun w => { w with waiters := w.waiters.filter (fun x => x.1 != t) }) })

/-- R126, R145: the clock by which every fixed-latency instruction that a thread or its quire has issued has written its
destinations, predicates and flags. -/
def State.writtenBy (s : State) (t : ThreadId) : Nat :=
  let q := s.quire t.quire
  q.fset.foldl (fun n f => max n f.hold) (((s.thread t).pend ++ q.pend).foldl (fun n p => max n p.hold) 0)

/-- R367 steps 1 to 5: older results written, the trap record, handler mode, and the vector. -/
def State.enterHandler (s : State) (t : ThreadId) (tr : Trap) : State :=
  let vec := s.vector t tr
  let by_ := s.writtenBy t
  (s.leaveWalks t).modThread t (fun th =>
    { th.record tr with
      hand := true, hdr := vec.setWidth 48, pos := 0, gov := true, stat := .ready, tNext := max th.tNext by_ })

/-- A thread leaves the gathering it is in. -/
def State.leaveGath (s : State) (t : ThreadId) : State :=
  { s with gaths := s.gaths.map (fun g => { g with members := g.members.filter (· != t) }) }

/-- A thread that was parked goes on: as a member of its gathering, or ready at the word it stands at. -/
def State.unpark (s : State) (t : ThreadId) : State :=
  s.modThread t (fun th => { th with stat := if s.gaths.any (fun g => g.members.contains t) then .gathered else .ready })

/-- R367, R370: a thread that stands at its resume address raises a trap. -/
def State.raise0 (s : State) (t : ThreadId) (tr : Trap) : State :=
  if tr.code = .preempt && tr.detail = 0 && (s.thread t).hand then
    s.modThread t (fun th => { th with preempt := true })
  else if s.noHandler t tr then
    (s.modThread t (fun th => { th.record tr with stat := .dead })).addKill (s.gangOf t.quire) tr.code.num
  else if s.olderWrites t then s.modThread t (fun th => { th with stat := .trapping tr })
  else s.enterHandler t tr

/-- A thread that stands at its resume address raises a trap; it leaves its gathering, but for a PREEMPT kept for later. -/
def State.raise (s : State) (t : ThreadId) (tr : Trap) : State :=
  if tr.code = .preempt && tr.detail = 0 && (s.thread t).hand then s.raise0 t tr else (s.leaveGath t).raise0 t tr

/-- Put a thread at a word of a clause. -/
def State.standAt (s : State) (t : ThreadId) (hdr : Addr) (pos : Nat) : State :=
  s.modThread t (fun th => { th with hdr := hdr, pos := pos })

/-- A thread raises a trap with resume address `hdr + 4 pos`. -/
def State.raiseAt (s : State) (t : ThreadId) (hdr : Addr) (pos : Nat) (tr : Trap) : State :=
  (s.standAt t hdr pos).raise t tr

/-- R374: leave handler mode and continue at `%tpc`; `n` is the address after the clause at `%thdr`. -/
def State.leaveHandler (s : State) (t : ThreadId) (n : Nat) : State :=
  s.modThread t (fun th =>
    let a := th.tpc.setWidth 48
    let h := th.thdr.setWidth 48
    let inside := decide (h.toNat < a.toNat) && decide (a.toNat < n) && (a - h).toNat % 4 == 0
    let (hd, ps) := if inside then (h, (a - h).toNat / 4) else (a, 0)
    { th with hand := false, hdr := hd, pos := ps, gov := true, stat := .ready })

end Sys2Proof.Machine
end

