-- ==== Sys2Proof/Machine/Crypto.lean ====
section
/-! DEFINITION. The algorithms that R392 to R396 name: SHA-256, AES-256 in its XTS and GCM modes, secp384r1, and the two SLH-DSA
parameter sets, as FIPS 180-4, FIPS 197, IEEE 1619, SP 800-38D, FIPS 186 and FIPS 205 define them (log entry 23). -/

namespace Sys2Proof.Crypto

open Sys2Proof.Machine (leNat leBytes)

/-- A number as `n` bytes, most significant first. -/
def beBytes (n x : Nat) : List Byte := (leBytes n x).reverse
/-- A number from its bytes, most significant first. -/
def beNat (bs : List Byte) : Nat := leNat bs.reverse
/-- A list in pieces of `n`, at most `k` of them. -/
def pieces {α : Type} (n : Nat) : Nat → List α → List (List α)
  | 0, _ => []
  | _ + 1, [] => []
  | k + 1, l => l.take n :: pieces n k (l.drop n)
/-- Bytes combined by exclusive or. -/
def xorBytes (a b : List Byte) : List Byte := a.zipWith (· ^^^ ·) b

/-! ### SHA-2 (FIPS 180-4) -/

/-- The largest r below 2^(k) with f r ≤ n, bit by bit. -/
def rootBelow (f : Nat → Nat) (n : Nat) : Nat → Nat → Nat
  | 0, r => r
  | k + 1, r => rootBelow f n k (if f (r + 2 ^ k) ≤ n then r + 2 ^ k else r)
/-- The first primes; none of those that SHA-2 uses is above 409. -/
def primes : List Nat := ((List.range 410).drop 2).filter (fun p => ((List.range p).drop 2).all (fun d => p % d != 0))
/-- The first `w` bits of the fraction of the square root of a prime. -/
def sqrtBits (w p : Nat) : Nat := rootBelow (fun r => r * r) (p * 2 ^ (2 * w)) (w + 5) 0 % 2 ^ w
/-- The first `w` bits of the fraction of the cube root of a prime. -/
def cbrtBits (w p : Nat) : Nat := rootBelow (fun r => r * r * r) (p * 2 ^ (3 * w)) (w + 4) 0 % 2 ^ w

/-- What tells SHA-512 from SHA-256: the word's width, the round constants, the first value of the eight words, and the amounts
of the four functions. -/
structure Sha (w : Nat) where
  ks     : List (BitVec w)
  first  : List (BitVec w)
  big0   : Nat × Nat × Nat
  big1   : Nat × Nat × Nat
  small0 : Nat × Nat × Nat
  small1 : Nat × Nat × Nat

/-- The constants of the first `n` primes. -/
def shaKs (w n : Nat) : List (BitVec w) := (primes.take n).map (fun p => BitVec.ofNat w (cbrtBits w p))
/-- The first values. -/
def shaFirst (w : Nat) : List (BitVec w) := (primes.take 8).map (fun p => BitVec.ofNat w (sqrtBits w p))
/-- SHA-256. -/
def sha2of256 : Sha 32 :=
  { ks := shaKs 32 64, first := shaFirst 32, big0 := (2, 13, 22), big1 := (6, 11, 25), small0 := (7, 18, 3), small1 := (17, 19, 10) }
/-- SHA-512. -/
def sha2of512 : Sha 64 :=
  { ks := shaKs 64 80, first := shaFirst 64, big0 := (28, 34, 39), big1 := (14, 18, 41), small0 := (1, 8, 7), small1 := (19, 61, 6) }

/-- Three rotations. -/
def bigSigma {w : Nat} (r : Nat × Nat × Nat) (x : BitVec w) : BitVec w := x.rotateRight r.1 ^^^ x.rotateRight r.2.1 ^^^ x.rotateRight r.2.2
/-- Two rotations and a shift. -/
def smallSigma {w : Nat} (r : Nat × Nat × Nat) (x : BitVec w) : BitVec w := x.rotateRight r.1 ^^^ x.rotateRight r.2.1 ^^^ (x >>> r.2.2)

/-- The message schedule: the sixteen words of a block and those that follow, latest first. -/
def Sha.schedule {w : Nat} (h : Sha w) : Nat → List (BitVec w) → List (BitVec w)
  | 0, ws => ws
  | n + 1, ws => h.schedule n ((smallSigma h.small1 (ws.getD 1 0) + ws.getD 6 0 + smallSigma h.small0 (ws.getD 14 0) + ws.getD 15 0) :: ws)

/-- One round on the eight working words. -/
def Sha.round {w : Nat} (h : Sha w) (v : List (BitVec w)) (kw : BitVec w × BitVec w) : List (BitVec w) :=
  match v with
  | [a, b, c, d, e, f, g, x] =>
    let t1 := x + bigSigma h.big1 e + ((e &&& f) ^^^ (~~~e &&& g)) + kw.1 + kw.2
    let t2 := bigSigma h.big0 a + ((a &&& b) ^^^ (a &&& c) ^^^ (b &&& c))
    [t1 + t2, a, b, c, d + t1, e, f, g]
  | v => v

/-- One block of sixteen words. -/
def Sha.block {w : Nat} (h : Sha w) (v : List (BitVec w)) (bs : List Byte) : List (BitVec w) :=
  let ws := ((pieces (w / 8) 16 bs).map (fun b => BitVec.ofNat w (beNat b))).reverse
  let ws := (h.schedule (h.ks.length - 16) ws).reverse
  v.zipWith (· + ·) ((h.ks.zip ws).foldl h.round v)

/-- The digest of a message. -/
def Sha.hash {w : Nat} (h : Sha w) (msg : List Byte) : List Byte :=
  let n := 2 * w
  let pad := (2 * n - (msg.length + 1 + n / 8) % n) % n
  let bs := msg ++ [0x80] ++ List.replicate pad 0 ++ beBytes (n / 8) (8 * msg.length)
  ((pieces n (bs.length / n) bs).foldl h.block h.first).flatMap (fun x => beBytes (w / 8) x.toNat)

/-- SHA-256. -/
def sha256 (msg : List Byte) : List Byte := sha2of256.hash msg
/-- SHA-512. -/
def sha512 (msg : List Byte) : List Byte := sha2of512.hash msg

/-- HMAC over a hash with blocks of `block` bytes. -/
def hmac (hash : List Byte → List Byte) (block : Nat) (key msg : List Byte) : List Byte :=
  let k := if key.length > block then hash key else key
  let k := k ++ List.replicate (block - k.length) 0
  hash (k.map (· ^^^ 0x5C) ++ hash (k.map (· ^^^ 0x36) ++ msg))

/-- MGF1: `n` bytes from a seed, over a hash of `out` bytes. -/
def mgf1 (hash : List Byte → List Byte) (out n : Nat) (seed : List Byte) : List Byte :=
  ((List.range ((n + out - 1) / out)).flatMap (fun i => hash (seed ++ beBytes 4 i))).take n

/-! ### AES-256 (FIPS 197) -/

/-- Multiplication by x in GF(2^8). -/
def xtime (a : Byte) : Byte := (a <<< 1) ^^^ (if a.msb then 0x1B else 0)
/-- Multiplication in GF(2^8). -/
def gmul (a b : Byte) : Byte :=
  ((List.range 8).foldl (fun (x : Byte × Byte) i => (if b.getLsbD i then x.1 ^^^ x.2 else x.1, xtime x.2)) ((0 : Byte), a)).1
/-- The inverse in GF(2^8): the power 254. -/
def ginv (a : Byte) : Byte :=
  let a2 := gmul a a; let a4 := gmul a2 a2; let a8 := gmul a4 a4
  let a16 := gmul a8 a8; let a32 := gmul a16 a16; let a64 := gmul a32 a32
  gmul (gmul (gmul a2 a4) (gmul a8 a16)) (gmul (gmul a32 a64) (gmul a64 a64))
/-- The S-box. -/
def sbox (a : Byte) : Byte :=
  let b := ginv a
  b ^^^ b.rotateLeft 1 ^^^ b.rotateLeft 2 ^^^ b.rotateLeft 3 ^^^ b.rotateLeft 4 ^^^ 0x63
/-- Its inverse. -/
def invSbox (a : Byte) : Byte := ginv (a.rotateLeft 1 ^^^ a.rotateLeft 3 ^^^ a.rotateLeft 6 ^^^ 0x05)

/-- The key schedule: the words of the round keys, latest first. -/
def expandKey : Nat → List (List Byte) → List (List Byte)
  | 0, ws => ws
  | n + 1, ws =>
    let i := ws.length
    let t := ws.headD []
    let t := if i % 8 = 0 then xorBytes ((t.rotateLeft 1).map sbox) [(Nat.repeat xtime (i / 8 - 1) 1), 0, 0, 0]
      else if i % 8 = 4 then t.map sbox else t
    expandKey n (xorBytes (ws.getD 7 []) t :: ws)
/-- The fifteen round keys of a 32-byte key. -/
def roundKeys (key : List Byte) : List (List Byte) :=
  let ws := (expandKey 52 (pieces 4 8 key).reverse).reverse
  (pieces 4 15 ws).map List.flatten

/-- Row r of the state rotates by r columns; `back` undoes it. -/
def shiftRows (back : Bool) (b : List Byte) : List Byte :=
  (List.range 16).map (fun i => b.getD (if back then (i + 16 - 4 * (i % 4)) % 16 else (i + 4 * (i % 4)) % 16) 0)
/-- Each column is multiplied by a circulant matrix. -/
def mixColumns (m : List Byte) (b : List Byte) : List Byte :=
  (List.range 16).map (fun i => (List.range 4).foldl (fun x j => x ^^^ gmul (m.getD ((j + 4 - i % 4) % 4) 0) (b.getD (i / 4 * 4 + j) 0)) 0)

/-- AES-256 of one block under its round keys. -/
def aesEncrypt (ks : List (List Byte)) (b : List Byte) : List Byte :=
  let b := xorBytes b (ks.headD [])
  let b := ((ks.drop 1).take 13).foldl (fun b k => xorBytes (mixColumns [2, 3, 1, 1] (shiftRows false (b.map sbox))) k) b
  xorBytes (shiftRows false (b.map sbox)) (ks.getD 14 [])
/-- Its inverse. -/
def aesDecrypt (ks : List (List Byte)) (b : List Byte) : List Byte :=
  let b := (shiftRows true (xorBytes b (ks.getD 14 []))).map invSbox
  let b := ((ks.drop 1).take 13).reverse.foldl (fun b k => (shiftRows true (mixColumns [14, 11, 13, 9] (xorBytes b k))).map invSbox) b
  xorBytes b (ks.headD [])

/-- A 512-bit key as bytes, the lowest first (log entry 23). -/
def keyBytes (key : BitVec 512) : List Byte := leBytes 64 key.toNat

/-- The tweak of a block from that of the block before: multiplication by x in GF(2^128). -/
def nextTweak (t : List Byte) : List Byte :=
  let x := leNat t * 2
  leBytes 16 (if x < 2 ^ 128 then x else (x - 2 ^ 128) ^^^ 0x87)
/-- The tweaks of a line's eight blocks. -/
def tweaks : Nat → List Byte → List (List Byte)
  | 0, _ => []
  | n + 1, t => t :: tweaks n (nextTweak t)
/-- XTS over the 128 bytes of a line (IEEE 1619): `f` is AES-256 of a block, one way or the other. -/
def xts (f : List (List Byte) → List Byte → List Byte) (key : BitVec 512) (line : Nat) (data : List Byte) : List Byte :=
  let kb := keyBytes key
  let ks := roundKeys (kb.take 32)
  let t0 := aesEncrypt (roundKeys (kb.drop 32)) (leBytes 16 line)
  ((pieces 16 8 data).zip (tweaks 8 t0)).flatMap (fun x => xorBytes (f ks (xorBytes x.1 x.2)) x.2)
/-- R392: AES-256-XTS of a line; the tweak is physical address bits [47:7]. -/
def encryptLine (key : BitVec 512) (line : Nat) (data : List Byte) : List Byte := xts aesEncrypt key line data
/-- Its inverse. -/
def decryptLine (key : BitVec 512) (line : Nat) (data : List Byte) : List Byte := xts aesDecrypt key line data

/-! ### AES-256-GCM (SP 800-38D) -/

/-- Multiplication in GF(2^128) with GCM's order of bits. -/
def ghashMul (x y : BitVec 128) : BitVec 128 :=
  ((List.range 128).foldl (fun (z : BitVec 128 × BitVec 128) i =>
    (if x.getMsbD i then z.1 ^^^ z.2 else z.1,
     (z.2 >>> 1) ^^^ (if z.2.getLsbD 0 then (0xE1 : BitVec 128) <<< 120 else 0))) ((0 : BitVec 128), y)).1
/-- A byte string filled to whole blocks of 16. -/
def fill16 (bs : List Byte) : List Byte := bs ++ List.replicate ((16 - bs.length % 16) % 16) 0
/-- GHASH. -/
def ghash (h : BitVec 128) (bs : List Byte) : BitVec 128 :=
  (pieces 16 (bs.length / 16) bs).foldl (fun y b => ghashMul (y ^^^ BitVec.ofNat 128 (beNat b)) h) 0
/-- The key stream of counter mode from a 96-bit IV: block 1 masks the tag. -/
def gctr (ks : List (List Byte)) (iv : List Byte) (i : Nat) : List Byte := aesEncrypt ks (iv.take 12 ++ beBytes 4 i)
/-- Counter mode over a text. -/
def gcmText (ks : List (List Byte)) (iv text : List Byte) : List Byte :=
  xorBytes text ((List.range ((text.length + 15) / 16)).flatMap (fun i => gctr ks iv (i + 2)))
/-- The tag of a ciphertext with associated data. -/
def gcmTag (ks : List (List Byte)) (iv aad text : List Byte) : List Byte :=
  let h := BitVec.ofNat 128 (beNat (aesEncrypt ks (List.replicate 16 0)))
  xorBytes (beBytes 16 (ghash h (fill16 aad ++ fill16 text ++ beBytes 8 (8 * aad.length) ++ beBytes 8 (8 * text.length))).toNat) (gctr ks iv 1)
/-- Opening a ciphertext followed by its 16-byte tag. -/
def gcmOpen (key iv aad sealed : List Byte) : Option (List Byte) :=
  let ks := roundKeys key
  let text := sealed.take (sealed.length - 16)
  if sealed.length ≥ 16 ∧ gcmTag ks iv aad text = sealed.drop (sealed.length - 16) then some (gcmText ks iv text) else none

/-! ### secp384r1 -/

/-- The field's prime. -/
def p384 : Nat := 2 ^ 384 - 2 ^ 128 - 2 ^ 96 + 2 ^ 32 - 1
/-- The curve's constant b. -/
def b384 : Nat := 0xB3312FA7E23EE7E4988E056BE3F82D19181D9C6EFE8141120314088F5013875AC656398D8A2ED19D2A85C8EDD3EC2AEF
/-- The base point. -/
def g384 : Nat × Nat :=
  (0xAA87CA22BE8B05378EB1C71EF320AD746E1D3B628BA79B9859F741E082542A385502F25DBF55296C3A545E3872760AB7,
   0x3617DE4A96262C6F5D9E98BF9292DC29F8F41DBD289A147CE9DA3113B5F0B8C00A60B1CE1D7E819D7A431D7C90EA0E5F)
/-- The order of the base point. -/
def n384 : Nat := 0xFFFFFFFFFFFFFFFFFFFFFFFFFFFFFFFFFFFFFFFFFFFFFFFFC7634D81F4372DDF581A0DB248B0A77AECEC196ACCC52973

/-- a to the e modulo m, over the lowest `k` bits of e. -/
def powMod (m e : Nat) : Nat → Nat → Nat
  | 0, _ => 1
  | k + 1, a =>
    let h := powMod m (e / 2) k (a * a % m)
    if e % 2 = 1 then h * a % m else h
/-- The inverse modulo the prime. -/
def inv384 (a : Nat) : Nat := powMod p384 (p384 - 2) 384 a
/-- The difference modulo the prime. -/
def sub384 (a b : Nat) : Nat := (a + (p384 - b % p384)) % p384
/-- The sum of two points; none is the point at infinity. -/
def addPoint : Option (Nat × Nat) → Option (Nat × Nat) → Option (Nat × Nat)
  | none, q => q
  | p, none => p
  | some (x1, y1), some (x2, y2) =>
    if x1 = x2 ∧ (y1 + y2) % p384 = 0 then none
    else
      let m := if x1 = x2 then sub384 (3 * x1 * x1) 3 * inv384 (2 * y1 % p384) % p384
        else sub384 y2 y1 * inv384 (sub384 x2 x1) % p384
      let x3 := sub384 (sub384 (m * m) x1) x2
      some (x3, sub384 (m * sub384 x1 x3) y1)
/-- A multiple of a point, over the lowest `k` bits of the factor. -/
def mulPoint : Nat → Nat → Option (Nat × Nat) → Option (Nat × Nat)
  | 0, _, _ => none
  | k + 1, e, p =>
    let h := mulPoint k (e / 2) (addPoint p p)
    if e % 2 = 1 then addPoint h p else h
/-- A point as 96 bytes. -/
def pointBytes (p : Option (Nat × Nat)) : List Byte := match p with | some (x, y) => beBytes 48 x ++ beBytes 48 y | none => List.replicate 96 0
/-- A point of the curve from its 96 bytes. -/
def pointOf (bs : List Byte) : Option (Nat × Nat) :=
  let x := beNat (bs.take 48)
  let y := beNat ((bs.drop 48).take 48)
  if bs.length = 96 ∧ x < p384 ∧ y < p384 ∧ y * y % p384 = (x * x * x + (p384 - 3) * x + b384) % p384 then some (x, y) else none
/-- The share of a private number. -/
def share384 (d : Nat) : List Byte := pointBytes (mulPoint 384 d (some g384))
/-- The common secret of a private number and a share: the first coordinate; none where the share is no point of the curve. -/
def secret384 (d : Nat) (share : List Byte) : Option (List Byte) :=
  match pointOf share with
  | none => none
  | some p => (mulPoint 384 d (some p)).map (fun q => beBytes 48 q.1)

/-! ### SLH-DSA (FIPS 205) -/

/-- A parameter set of the SHA-2 family; `wide` is one of security category 5. -/
structure Slh where
  n : Nat
  h : Nat
  d : Nat
  a : Nat
  k : Nat
  m : Nat
  wide : Bool

/-- SLH-DSA-SHA2-128s (R394). -/
def slh128s : Slh := { n := 16, h := 63, d := 7, a := 12, k := 14, m := 30, wide := false }
/-- SLH-DSA-SHA2-256s (R396). -/
def slh256s : Slh := { n := 32, h := 64, d := 8, a := 14, k := 22, m := 47, wide := true }

/-- Height of one tree. -/
def Slh.hp (q : Slh) : Nat := q.h / q.d

/-- An address: the layer, the tree, the type and three words. -/
structure Adrs where
  layer : Nat
  tree  : Nat
  type  : Nat
  kp    : Nat
  w2    : Nat
  w3    : Nat

/-- The compressed address of 22 bytes. -/
def Adrs.bytes (x : Adrs) : List Byte := beBytes 1 x.layer ++ beBytes 8 x.tree ++ beBytes 1 x.type ++ beBytes 4 x.kp ++ beBytes 4 x.w2 ++ beBytes 4 x.w3

/-- F and PRF: SHA-256 over the padded public seed, the address and the input. -/
def Slh.f (q : Slh) (seed : List Byte) (x : Adrs) (msg : List Byte) : List Byte :=
  (sha256 (seed ++ List.replicate (64 - q.n) 0 ++ x.bytes ++ msg)).take q.n
/-- H and T: the same, over SHA-512 for the wide sets. -/
def Slh.t (q : Slh) (seed : List Byte) (x : Adrs) (msg : List Byte) : List Byte :=
  if q.wide then (sha512 (seed ++ List.replicate (128 - q.n) 0 ++ x.bytes ++ msg)).take q.n else q.f seed x msg
/-- The digest of a message under a randomizer. -/
def Slh.hMsg (q : Slh) (r seed root msg : List Byte) : List Byte :=
  let hash := if q.wide then sha512 else sha256
  mgf1 hash (if q.wide then 64 else 32) q.m (r ++ seed ++ hash (r ++ seed ++ root ++ msg))

/-- `s` steps of a chain from step `i`. -/
def Slh.chain (q : Slh) (seed : List Byte) (x : Adrs) (i : Nat) : Nat → List Byte → List Byte
  | 0, v => v
  | s + 1, v => q.chain seed x (i + 1) s (q.f seed { x with w3 := i } v)

/-- The base-16 digits of n bytes with their checksum: the chain lengths of a WOTS+ signature. -/
def Slh.digits (q : Slh) (msg : List Byte) : List Nat :=
  let ds := msg.flatMap (fun b => [b.toNat / 16, b.toNat % 16])
  let c := ds.foldl (fun c v => c + (15 - v)) 0
  ds.take (2 * q.n) ++ [c / 256 % 16, c / 16 % 16, c % 16]
/-- A WOTS+ public key from chain ends. -/
def Slh.wotsJoin (q : Slh) (seed : List Byte) (x : Adrs) (ends : List (List Byte)) : List Byte :=
  q.t seed { x with type := 1, w2 := 0, w3 := 0 } ends.flatten
/-- The secret start of chain `i`. -/
def Slh.wotsSecret (q : Slh) (skSeed seed : List Byte) (x : Adrs) (i : Nat) : List Byte := q.f seed { x with type := 5, w2 := i, w3 := 0 } skSeed
/-- A WOTS+ public key of a key pair. -/
def Slh.wotsKey (q : Slh) (skSeed seed : List Byte) (x : Adrs) : List Byte :=
  q.wotsJoin seed x ((List.range (2 * q.n + 3)).map (fun i => q.chain seed { x with type := 0, w2 := i } 0 15 (q.wotsSecret skSeed seed x i)))
/-- A WOTS+ signature. -/
def Slh.wotsSign (q : Slh) (skSeed seed : List Byte) (x : Adrs) (msg : List Byte) : List Byte :=
  ((q.digits msg).zipIdx).flatMap (fun v => q.chain seed { x with type := 0, w2 := v.2 } 0 v.1 (q.wotsSecret skSeed seed x v.2))
/-- The WOTS+ public key that a signature gives. -/
def Slh.wotsFromSig (q : Slh) (seed : List Byte) (x : Adrs) (msg sig : List Byte) : List Byte :=
  q.wotsJoin seed x (((q.digits msg).zip (pieces q.n (2 * q.n + 3) sig)).zipIdx.map (fun v =>
    q.chain seed { x with type := 0, w2 := v.2 } v.1.1 (15 - v.1.1) v.1.2))

/-- The node of height `z` and index `i` of a tree whose leaves are given; `base` numbers the nodes of a forest. -/
def Slh.node (q : Slh) (seed : List Byte) (x : Adrs) (leaf : Nat → List Byte) : Nat → Nat → List Byte
  | 0, i => leaf i
  | z + 1, i => q.t seed { x with w2 := z + 1, w3 := i } (q.node seed x leaf z (2 * i) ++ q.node seed x leaf z (2 * i + 1))
/-- The way from a leaf to the root past an authentication path; `z` counts the levels done. -/
def Slh.climb (q : Slh) (seed : List Byte) (x : Adrs) : List (List Byte) → Nat → Nat → List Byte → List Byte
  | [], _, _, v => v
  | a :: as_, z, i, v =>
    let y := { x with w2 := z + 1, w3 := i / 2 }
    q.climb seed x as_ (z + 1) (i / 2) (q.t seed y (if i % 2 = 0 then v ++ a else a ++ v))

/-- A leaf of a tree of key pairs. -/
def Slh.xmssLeaf (q : Slh) (skSeed seed : List Byte) (layer tree i : Nat) : List Byte :=
  q.wotsKey skSeed seed { layer := layer, tree := tree, type := 0, kp := i, w2 := 0, w3 := 0 }
/-- The address of a tree's nodes. -/
def treeAdrs (layer tree : Nat) : Adrs := { layer := layer, tree := tree, type := 2, kp := 0, w2 := 0, w3 := 0 }
/-- The root of a tree. -/
def Slh.xmssRoot (q : Slh) (skSeed seed : List Byte) (layer tree : Nat) : List Byte :=
  q.node seed (treeAdrs layer tree) (q.xmssLeaf skSeed seed layer tree) q.hp 0
/-- A signature of one tree: WOTS+ and the authentication path. -/
def Slh.xmssSign (q : Slh) (skSeed seed msg : List Byte) (layer tree i : Nat) : List Byte :=
  q.wotsSign skSeed seed { layer := layer, tree := tree, type := 0, kp := i, w2 := 0, w3 := 0 } msg ++
  (List.range q.hp).flatMap (fun j => q.node seed (treeAdrs layer tree) (q.xmssLeaf skSeed seed layer tree) j ((i / 2 ^ j) ^^^ 1))
/-- The root that a signature of one tree gives. -/
def Slh.xmssFromSig (q : Slh) (seed msg sig : List Byte) (layer tree i : Nat) : List Byte :=
  let w := (2 * q.n + 3) * q.n
  let v := q.wotsFromSig seed { layer := layer, tree := tree, type := 0, kp := i, w2 := 0, w3 := 0 } msg (sig.take w)
  q.climb seed (treeAdrs layer tree) (pieces q.n q.hp (sig.drop w)) 0 i v

/-- The trees of the layers from `layer` on sign one another's roots. -/
def Slh.htSign (q : Slh) (skSeed seed : List Byte) : Nat → Nat → Nat → Nat → List Byte → List Byte
  | 0, _, _, _, _ => []
  | j + 1, layer, tree, i, msg =>
    q.xmssSign skSeed seed msg layer tree i ++
      q.htSign skSeed seed j (layer + 1) (tree / 2 ^ q.hp) (tree % 2 ^ q.hp) (q.xmssRoot skSeed seed layer tree)
/-- The topmost root that a signature gives. -/
def Slh.htRoot (q : Slh) (seed : List Byte) : Nat → Nat → Nat → Nat → List Byte → List Byte → List Byte
  | 0, _, _, _, msg, _ => msg
  | j + 1, layer, tree, i, msg, sig =>
    let w := (2 * q.n + 3 + q.hp) * q.n
    q.htRoot seed j (layer + 1) (tree / 2 ^ q.hp) (tree % 2 ^ q.hp) (q.xmssFromSig seed msg (sig.take w) layer tree i) (sig.drop w)

/-- The k indices of a digest, a bits each, most significant first. -/
def Slh.indices (q : Slh) (md : List Byte) : List Nat :=
  let x := beNat md
  (List.range q.k).map (fun i => x / 2 ^ (8 * md.length - q.a * (i + 1)) % 2 ^ q.a)
/-- The secret value of a leaf of the forest. -/
def Slh.forsSecret (q : Slh) (skSeed seed : List Byte) (x : Adrs) (i : Nat) : List Byte := q.f seed { x with type := 6, w2 := 0, w3 := i } skSeed
/-- A signature of the forest. -/
def Slh.forsSign (q : Slh) (skSeed seed : List Byte) (x : Adrs) (md : List Byte) : List Byte :=
  let leaf := fun (i : Nat) => q.f seed { x with w2 := 0, w3 := i } (q.forsSecret skSeed seed x i)
  (q.indices md).zipIdx.flatMap (fun v =>
    q.forsSecret skSeed seed x (v.2 * 2 ^ q.a + v.1) ++
    (List.range q.a).flatMap (fun j => q.node seed x leaf j ((v.2 * 2 ^ q.a + v.1) / 2 ^ j ^^^ 1)))
/-- The public key of the forest that a signature gives. -/
def Slh.forsFromSig (q : Slh) (seed : List Byte) (x : Adrs) (md sig : List Byte) : List Byte :=
  let roots := ((q.indices md).zip (pieces (q.n * (q.a + 1)) q.k sig)).zipIdx.map (fun v =>
    let i := v.2 * 2 ^ q.a + v.1.1
    q.climb seed x (pieces q.n q.a (v.1.2.drop q.n)) 0 i (q.f seed { x with w2 := 0, w3 := i } (v.1.2.take q.n)))
  q.t seed { x with type := 4, w2 := 0, w3 := 0 } roots.flatten

/-- What a digest selects: its forest part, the tree and the leaf. -/
def Slh.select (q : Slh) (digest : List Byte) : List Byte × Nat × Nat :=
  let n1 := (q.k * q.a + 7) / 8
  let n2 := (q.h - q.hp + 7) / 8
  let n3 := (q.hp + 7) / 8
  (digest.take n1, beNat ((digest.drop n1).take n2) % 2 ^ (q.h - q.hp), beNat ((digest.drop (n1 + n2)).take n3) % 2 ^ q.hp)
/-- The forest's address. -/
def forsAdrs (tree leaf : Nat) : Adrs := { layer := 0, tree := tree, type := 3, kp := leaf, w2 := 0, w3 := 0 }
/-- A message with an empty context before it, as the pure form of SLH-DSA signs it. -/
def pureMsg (msg : List Byte) : List Byte := [0, 0] ++ msg

/-- A secret key: two seeds and the public seed. -/
structure SlhKey where
  skSeed : List Byte
  skPrf  : List Byte
  seed   : List Byte

/-- The public key: the public seed and the topmost root. -/
def Slh.publicKey (q : Slh) (k : SlhKey) : List Byte := k.seed ++ q.xmssRoot k.skSeed k.seed (q.d - 1) 0

/-- The deterministic signature of a message. -/
def Slh.sign (q : Slh) (k : SlhKey) (msg : List Byte) : List Byte :=
  let hash := if q.wide then sha512 else sha256
  let r := (hmac hash (if q.wide then 128 else 64) k.skPrf (k.seed ++ pureMsg msg)).take q.n
  let root := q.xmssRoot k.skSeed k.seed (q.d - 1) 0
  let sel := q.select (q.hMsg r k.seed root (pureMsg msg))
  let x := forsAdrs sel.2.1 sel.2.2
  let fs := q.forsSign k.skSeed k.seed x sel.1
  r ++ fs ++ q.htSign k.skSeed k.seed q.d 0 sel.2.1 sel.2.2 (q.forsFromSig k.seed x sel.1 fs)

/-- Whether a signature of a message is right under a public key. -/
def Slh.verify (q : Slh) (pk msg sig : List Byte) : Bool :=
  let seed := pk.take q.n
  let root := pk.drop q.n
  let nf := q.k * (q.a + 1) * q.n
  let r := sig.take q.n
  let sel := q.select (q.hMsg r seed root (pureMsg msg))
  let x := forsAdrs sel.2.1 sel.2.2
  pk.length == 2 * q.n && sig.length == q.n + nf + (q.h + q.d * (2 * q.n + 3)) * q.n &&
  q.htRoot seed q.d 0 sel.2.1 sel.2.2 (q.forsFromSig seed x sel.1 ((sig.drop q.n).take nf)) (sig.drop (q.n + nf)) == root

end Sys2Proof.Crypto
end

