-- ==== Sys2Proof/Machine/Fabric.lean ====
section
/-! DEFINITION. Launch-record fields, translation, the L1, requests on the planes, and what a slice does to a line
(chapters 08, 09, 13): operations that the memory instructions and the slices' steps share. -/

namespace Sys2Proof.Machine

/-! ### Launch-record fields (Tables 13.1 to 13.3) -/

/-- ATTR.COR. -/
def LaunchRec.cor (r : LaunchRec) : Bool := r.attr.getLsbD 0
/-- ATTR.STRICT. -/
def LaunchRec.strict (r : LaunchRec) : Bool := r.attr.getLsbD 2
/-- ATTR.REPLAY. -/
def LaunchRec.replay (r : LaunchRec) : Bool := r.attr.getLsbD 3
/-- ATTR.EARLY. -/
def LaunchRec.early (r : LaunchRec) : Bool := r.attr.getLsbD 4
/-- ATTR.PRIO. -/
def LaunchRec.prio (r : LaunchRec) : Nat := (r.attr.extractLsb' 5 3).toNat
/-- SHAPE.REGS. -/
def LaunchRec.regs (r : LaunchRec) : Nat := (r.shape.extractLsb' 0 8).toNat
/-- SHAPE.QUIRES. -/
def LaunchRec.quires (r : LaunchRec) : Nat := (r.shape.extractLsb' 8 7).toNat
/-- SHAPE.MQUIRES. -/
def LaunchRec.mquires (r : LaunchRec) : Nat := (r.shape.extractLsb' 15 7).toNat
/-- C = CORES + 1 (R313). -/
def LaunchRec.coresN (r : LaunchRec) : Nat := (r.shape.extractLsb' 22 3).toNat + 1
/-- G = GANG + 1 (R313). -/
def LaunchRec.gangN (r : LaunchRec) : Nat := (r.shape.extractLsb' 25 3).toNat + 1
/-- Whole 64 KiB granules of the declared core scratch (R172). -/
def LaunchRec.granules (r : LaunchRec) : Nat := (r.scratch + 65535) / 65536
/-- Quires that the k-th core of a team holds (R74). -/
def LaunchRec.quiresOn (r : LaunchRec) (k : Nat) : Nat := ((List.range r.quires).filter (fun j => j % r.coresN == k)).length
/-- R15: register granules of a team on its k-th core. -/
def LaunchRec.regGranules (r : LaunchRec) (k : Nat) : Nat := (r.quiresOn k * r.regs * 128 + 65535) / 65536

/-- The record of a team's grid. -/
def State.recordOf (s : State) (team : Nat) : LaunchRec := (s.grid (s.gang (s.team team).gang).grid).record
/-- The record of a quire's grid. -/
def State.recordQ (s : State) (q : Nat) : LaunchRec := (s.grid (s.gridOf q)).record

/-- Teams placed on a core and not ended: they hold granules. -/
def State.teamsOn (s : State) (c : Nat) : List Nat :=
  (List.range s.teams.length).filter (fun i => let t := s.team i; !t.ended && t.cores.contains c && t.phase != .saved)
/-- Quires of a team on a core that have not retired: the others' registers are free (R94). -/
def State.quiresHeld (s : State) (team c : Nat) : Nat :=
  ((s.team team).quires.filter (fun q => (s.quire q).core == c && !(s.liveOf q).isEmpty)).length
/-- Register granules in use on a core (R15). -/
def State.regUsed (s : State) (c : Nat) : Nat :=
  (s.teamsOn c).foldl (fun n i => n + (s.quiresHeld i c * (s.recordOf i).regs * 128 + 65535) / 65536) 0
/-- Scratch granules that a team holds on each of its cores, those that a granted CARVE is about to take among them (R182). -/
def Team.holds (t : Team) : Nat := t.carving.foldl (fun n x => max n x.2) t.allot
/-- Scratch granules in use on a core. -/
def State.scratchUsed (s : State) (c : Nat) : Nat := (s.teamsOn c).foldl (fun n i => n + (s.team i).holds) 0
/-- R14: granules left to the L1. -/
def State.l1Granules (s : State) (c : Nat) : Nat := 80 - s.regUsed c - s.scratchUsed c

/-! ### Translation (R183 to R187) -/

/-- What an access does to its page, for the checks of R185. -/
inductive AccKind where
  | read | write | rw | fetch
  deriving DecidableEq, Repr

/-- The partition that owns a physical address (R24): 8 when none does. -/
def State.partOfPa (s : State) (pa : Nat) : Nat :=
  s.parts.findIdx (fun p => p.units.mem.any (fun r => decide (r.1 ≤ pa) && decide (pa < r.2)))

/-- One table entry, read at its home slice (R183). -/
def State.pteAt (s : State) (a : Nat) : DWord := BitVec.ofNat 64 (leNat (s.memBytes a 8))

/-- Bits [47:8] of an entry as an address. -/
def pteAddr (e : DWord) : Nat := (e.extractLsb' 8 40).toNat * 256
/-- V of Table 8.4. -/
def pteV (e : DWord) : Bool := e.getLsbD 0
/-- LEAF. -/
def pteLeaf (e : DWord) : Bool := e.getLsbD 1
/-- KEY. -/
def pteKey (e : DWord) : Nat := (e.extractLsb' 51 7).toNat
/-- IL. -/
def pteIl (e : DWord) : BitVec 3 := e.extractLsb' 48 3

/-- The interleave scheme of the block that holds a physical address (R186). -/
def State.schemeOf (s : State) (pa : Nat) : BitVec 3 :=
  (((s.part (s.partOfPa pa)).units.schemes.find? (fun b => b.1 == pa / 2 ^ 30)).map (·.2)).getD 0

/-- R184: a leaf of page size 2^sz is accepted when its IL is the scheme of its block. -/
def State.leafOk (s : State) (e : DWord) (sz : Nat) : WalkAt :=
  if pteIl e = s.schemeOf (pteAddr e / 2 ^ sz * 2 ^ sz) then .leaf e sz else .xlate

/-- R183: index and page size (log2) of the level with so many levels below it. -/
def walkIndex (below va : Nat) : Nat × Nat :=
  match below with
  | 0 => (va / 2 ^ 16 % 32, 16)
  | 1 => (va / 2 ^ 21 % 512, 21)
  | 2 => (va / 2 ^ 30 % 512, 30)
  | _ => (va / 2 ^ 39 % 512, 39)

/-- R183, R184: a walk for a partition reads one entry. -/
def State.walkStep (s : State) (part va : Nat) : WalkAt → WalkAt
  | .at_ k base =>
    let x := walkIndex k va
    let e := s.pteAt (base + 8 * x.1)
    if s.partOfPa (base + 8 * x.1) ≠ part then .prot
    else if !pteV e then .xlate
    else match k with
      | 0 => if pteLeaf e then s.leafOk e x.2 else .xlate
      | j + 1 =>
        if pteLeaf e then (if k ≥ 3 then .xlate else s.leafOk e x.2)
        else .at_ j (pteAddr e)
  | w => w

/-- So many entries of a walk. -/
def State.walkSteps (s : State) (part va : Nat) : Nat → WalkAt → WalkAt
  | 0, w => w
  | n + 1, w => s.walkSteps part va n (s.walkStep part va w)

/-- R183: the walk of a virtual address from a root. -/
def State.walk (s : State) (part root va : Nat) : WalkAt := s.walkSteps part va 4 (.at_ 3 root)

/-- The physical address that a leaf gives a virtual address: frame bits below the page size are ignored (R184). -/
def leafPa (e : DWord) (sz va : Nat) : Nat := pteAddr e / 2 ^ sz * 2 ^ sz + va % 2 ^ sz

/-- Root of a grid's tables: PTROOT bits [47:12]. -/
def LaunchRec.root (r : LaunchRec) : Nat := r.ptroot / 4096 % 2 ^ 36 * 4096

/-- A TLB entry for an address, in the micro TLB of an issue partition or in the main TLB (R187). -/
def State.tlbFind (s : State) (c ip root va : Nat) : Option TlbEntry :=
  let hit := fun (e : TlbEntry) => e.root == root && e.page == va / 2 ^ e.size
  match ((s.core c).micro.getD ip []).find? hit with
  | some e => some e
  | none => (s.core c).tlb.find? hit

/-- The leaf that a core uses for an address: that of a TLB entry if one is held, else what the tables give now. -/
def State.leafFor (s : State) (c ip root va : Nat) : WalkAt :=
  match s.tlbFind c ip root va with
  | some e => .leaf e.pte e.size
  | none => s.walk (s.partOfCore c) root va

/-- R392, R393: the key of a slot of a partition: slot 0 is the partition's own; a slot that never held a key stands under
zero, which no access sees (R185). -/
def State.slotKey (s : State) (part slot : Nat) : BitVec 512 :=
  if slot = 0 then Config.drawnKey (s.sec.partKeys.getD part 0)
  else (((s.part part).keys.find? (fun k => k.1 == slot)).map (·.2)).getD 0

/-- R392, R393: a line that its bank stores under one key is read under another from now on; `none` for bytes stored as they
are. -/
def State.recrypt (s : State) (line : Nat) (old : Option (BitVec 512)) (new : BitVec 512) : State :=
  let bytes := (List.range 128).map (fun i => cellGet s.mem (line * 128 + i))
  let stored := match old with | some k => Crypto.encryptLine k line bytes | none => bytes
  if old = some new then s else { s with mem := cellSetList s.mem (line * 128) (Crypto.decryptLine new line stored) }

/-- The lines of a range that memory lists. -/
def State.listedLines (s : State) (lo n : Nat) : List Nat :=
  ((s.mem.filter (fun c => decide (lo ≤ c.1) && decide (c.1 < lo + n))).map (fun c => lineOf c.1)).eraseDups

/-- R393: the lines of a range that memory does not list read as undefined from now on (log entry 72). -/
def State.garble (s : State) (lo n : Nat) : State :=
  { s with garbled := { lo := lo, len := n, but := s.listedLines lo n ++ s.undef.map (·.1) } :: s.garbled.filter (fun g => !(g.lo == lo && g.len == n)) }

/-- R392, R393: the lines of a range that memory lists are read under other keys from now on, `old` giving the key that each is
stored under; what a line that lists nothing decrypts to is open (log entry 72). -/
def State.rekey (s : State) (lo n : Nat) (old : Nat → Option (BitVec 512)) (new : BitVec 512) : State :=
  (s.listedLines lo n).foldl (fun s l => s.recrypt l (old l) new) (s.garble lo n)

/-- R393: a translation shows under which slot a page stands, 0 for none: where that is another than before, its lines are read
under the slot's key, and what a port wrote there was ciphertext. -/
def State.sealLeaf (s : State) (part : Nat) (e : DWord) (sz : Nat) : State :=
  let lo := pteAddr e / 2 ^ sz * 2 ^ sz
  let n := 2 ^ sz
  let old := ((s.sealedPages.find? (fun x => x.1 == lo && x.2.1 == n)).map (·.2.2)).getD 0
  if s.partOfPa lo ≠ part then s
  else if old = pteKey e then { s with portLines := s.portLines.filter (fun l => !lineWithin lo n l) }
  else
    let s := s.rekey lo n (fun l => if s.portLines.contains l then none else some (s.slotKey part old)) (s.slotKey part (pteKey e))
    { s with
      sealedPages := (if pteKey e = 0 then [] else [(lo, n, pteKey e)]) ++ s.sealedPages.filter (fun x => !(x.1 == lo && x.2.1 == n)),
      portLines := s.portLines.filter (fun l => !lineWithin lo n l) }

/-- Two ranges of memory overlap. -/
def overlaps (a n b m : Nat) : Bool := decide (a < b + m) && decide (b < a + n)

/-- The first byte of a leaf's frame (R184). -/
def leafLo (e : DWord) (sz : Nat) : Nat := pteAddr e / 2 ^ sz * 2 ^ sz

/-- R186: a mapping that a translation has used is still in force: the tables still give it, or a TLB still holds it. -/
def State.leafStands (s : State) (u : LeafUse) : Bool :=
  (match s.walk u.part u.root u.va with | .leaf e sz => sz == u.size && leafLo e sz == u.lo | _ => false) ||
  s.cores.any (fun k => (k.tlb :: k.micro).any (fun l => l.any (fun x =>
    x.root == u.root && x.size == u.size && x.page == u.va / 2 ^ u.size && leafLo x.pte x.size == u.lo)))

/-- R186: a leaf in use whose frame, in its own partition's memory (R1), another leaf in force maps with another page size: what
is read there is undefined from now on. A mapping counts once a translation has used it (log entry 104). -/
def State.noteMixed (s : State) (part root va : Nat) (e : DWord) (sz : Nat) : State :=
  let lo := leafLo e sz
  let u : LeafUse := { part := part, root := root, va := va / 2 ^ sz * 2 ^ sz, lo := lo, size := sz }
  if s.partOfPa lo ≠ part then s
  else
    let clash := s.leaves.any (fun x => x.size != sz && overlaps lo (2 ^ sz) x.lo (2 ^ x.size) && s.leafStands x)
    { s with
      leaves := u :: s.leaves.filter (· != u),
      mixed := if clash then (lo, 2 ^ sz) :: s.mixed.filter (· != (lo, 2 ^ sz)) else s.mixed }

/-- A translation of a partition takes a leaf for an address under a root: its page is sealed under its KEY (R393), and its frame
has its page size (R186). -/
def State.useLeaf (s : State) (part root va : Nat) (e : DWord) (sz : Nat) : State := (s.sealLeaf part e sz).noteMixed part root va e sz

/-- R393: the slot that seals a physical line, 0 for none. -/
def State.keySlot (s : State) (line : Nat) : Nat :=
  ((s.sealedPages.find? (fun p => lineWithin p.1 p.2.1 line)).map (·.2.2)).getD 0
/-- R392, R393: the key of a line of a partition. -/
def State.lineKey (s : State) (part line : Nat) : BitVec 512 := s.slotKey part (s.keySlot line)

/-- R187: a main-TLB hit fills the micro TLB of 32 entries. -/
def State.microFill (s : State) (c ip : Nat) (e : TlbEntry) : State :=
  s.modCore c (fun k => { k with micro := k.micro.modify ip (fun l => if l.contains e then l else (e :: l).take 32) })

/-- R348: an address lies inside a window that is open for a team on a core. -/
def State.inWindow (s : State) (team c va : Nat) : Bool :=
  (s.team team).windows.any (fun w => w.core == c && decide (w.va ≤ va) && decide (va < w.va + w.len))

/-- R185: the check of a leaf, in order; none when the access may proceed. `c` is the core concerned. -/
def State.pteCheck (s : State) (team c : Nat) (priv : Bool) (kind : AccKind) (va n : Nat) (e : DWord) (sz : Nat) : Option Trap :=
  let rd := e.getLsbD 2
  let w := e.getLsbD 3
  let okKind := match kind with | .read => rd | .write => w | .rw => rd && w | .fetch => e.getLsbD 4
  let pt := s.partOfCore c
  if (!priv && !e.getLsbD 5) || !okKind || (e.getLsbD 6 && !(s.inWindow team c va && s.inWindow team c (va + n - 1))) ||
      s.partOfPa (leafPa e sz va) != pt then some { code := .prot, addr := va }
  else if pteKey e != 0 && !(s.part pt).keyst.getLsbD (pteKey e) then some { code := .sealed, detail := pteKey e, addr := va }
  else none

/-- Outcome of translating and checking one access. -/
inductive Xlate where
  | ok (pa : Nat) (e : TlbEntry)
  | trap (tr : Trap)
  /-- No TLB entry: a walk is needed (R187). -/
  | miss (root va : Nat)
  deriving DecidableEq, Repr

/-- Translate and check an access of `n` bytes at a virtual address through the TLBs of a core. -/
def State.translate (s : State) (team c ip : Nat) (priv : Bool) (kind : AccKind) (va n : Nat) : Xlate :=
  let root := (s.recordOf team).root
  match s.tlbFind c ip root va with
  | none => .miss root va
  | some e =>
    match s.pteCheck team c priv kind va n e.pte e.size with
    | some tr => .trap tr
    | none => .ok (leafPa e.pte e.size va) e

/-- Translate and check at once, for units that wait for their own walk: a TLB entry if one is held, else the tables. -/
def State.translateNow (s : State) (team c : Nat) (priv : Bool) (kind : AccKind) (va n : Nat) : Except Trap Nat :=
  let root := (s.recordOf team).root
  match s.leafFor c 8 root va with
  | .leaf e sz =>
    (match s.pteCheck team c priv kind va n e sz with
    | some tr => .error tr
    | none => .ok (leafPa e sz va))
  | .prot => .error { code := .prot, addr := va }
  | _ => .error { code := .xlate, addr := va }

/-- The page number size (log2) that the tables give an address now: 64 KiB where they map none. -/
def State.pageBits (s : State) (part root va : Nat) : Nat := match s.walk part root va with | .leaf _ sz => sz | _ => 16

/-- R187: start a walk, or join one of the same page; at most 16 at once. How many entries a walk reads at once is open, the
rest it reads later (log entry 17). -/
def State.addWalk (s : State) (c root va : Nat) (t : ThreadId) : State :=
  let k := s.core c
  let part := s.partOfCore c
  let same := fun (w : Walk) => let b := s.pageBits part root va; w.root == root && w.va / 2 ^ b == va / 2 ^ b
  match k.walks.find? same with
  | some w0 =>
    s.modCore c (fun k => { k with walks := k.walks.map (fun w =>
      if w.id = w0.id then { w with waiters := if w.waiters.contains (t, va) then w.waiters else w.waiters ++ [(t, va)] } else w) })
  | none =>
    if k.walks.length < 16 then
      let (id, s) := s.fresh
      let come := s.walkSteps part va (Config.freeNat s.tick (2 ^ 22 + c) % 5) (.at_ 3 root)
      s.modCore c (fun k => { k with walks := k.walks ++ [{ id := id, root := root, va := va, come := come, waiters := [(t, va)] }] })
    else s

/-- R187: a leaf enters the main TLB of a core, in the eight ways of its set (log entry 10). -/
def State.tlbInsert (s : State) (c root va : Nat) (e : DWord) (sz : Nat) : State :=
  let ent : TlbEntry := { root := root, page := va / 2 ^ sz, pte := e, size := sz }
  let set := fun (x : TlbEntry) => Config.tlbSet x.root x.page x.size % 512
  (s.useLeaf (s.partOfCore c) root va e sz).modCore c (fun k =>
    let rest := k.tlb.filter (fun x => !(x.root == root && x.page == va / 2 ^ sz && x.size == sz))
    let ways := rest.filter (fun x => set x == set ent)
    { k with tlb := ent :: rest.filter (fun x => !(ways.drop 7).contains x) })

/-! ### Requests (R198, R210, R214) -/

/-- A request with nothing in it. -/
def Req.blank (core part : Nat) : Req :=
  { id := 0, op := 0, kind := .load, core := core, part := part, k := false, line := 0, slice := 0, plane := 0, seq := 0,
    items := [], data := 0, mask := 0, shared := false, prio := 0, lu := false, noAlloc := false, tag := none, fault := none,
    cls := 0, ord := [], joined := 0, stage := .sent }

/-- The request of an identity. -/
def State.req? (s : State) (id : Nat) : Option Req := s.net.find? (fun r => r.id == id)
/-- Update a request. -/
def State.modReq (s : State) (id : Nat) (f : Req → Req) : State :=
  { s with net := s.net.map (fun r => if r.id = id then f r else r) }
/-- Remove a request. -/
def State.dropReq (s : State) (id : Nat) : State := { s with net := s.net.filter (fun r => r.id != id) }
/-- The operation of an identity. -/
def State.op? (s : State) (id : Nat) : Option Op := s.ops.find? (fun o => o.id == id)
/-- Update an operation. -/
def State.modOp (s : State) (id : Nat) (f : Op → Op) : State := { s with ops := s.ops.map (fun o => if o.id = id then f o else o) }

/-- The leaf of a core: its cluster (R210). -/
def leafOf (core : Nat) : Nat := core / 8

/-- The byte address whose bucket and home a request's line has: physical, or the partition offset. -/
def Req.byteAddr (r : Req) : Nat := r.line * 128

/-- R207, R208: the slice a request goes to. -/
def State.sliceFor (s : State) (part : Nat) (k : Bool) (addr : Nat) : Nat :=
  if k then kSlice (s.part part) addr else homeSlice (s.part part) addr

/-- R209, R213: where a request stands that a leaf hands to its plane: injected, held during a rehash, or on a dead plane. -/
def State.injected (s : State) (plane : Nat) : ReqStage :=
  if s.fabric.busy then .leaf else if s.fabric.alive.getLsbD plane then .sent else .replay false

/-- Hand a request to its leaf: identity, slice, plane and source number (R209, R214). -/
def State.post (s : State) (r : Req) : State :=
  let (id, s) := s.fresh
  let sl := s.sliceFor r.part r.k r.byteAddr
  let key := leafOf r.core * 256 + sl
  let n := ((s.fabric.seqs.find? (fun x => x.1 == key)).map (·.2)).getD 0
  { s with
    net := s.net ++ [{ r with id := id, slice := sl, plane := s.planeOf r.byteAddr, seq := n,
                              stage := s.injected (s.planeOf r.byteAddr) }],
    fabric := { s.fabric with seqs := (key, (n + 1) % 65536) :: s.fabric.seqs.filter (fun x => x.1 != key) } }

/-- R209, R213: a leaf sends a request that it keeps, on the plane that its bucket names now. -/
def State.inject (s : State) (req : Nat) : State :=
  s.modReq req (fun r => let p := s.planeOf r.byteAddr; { r with plane := p, stage := s.injected p })

/-- Post several requests in order. -/
def State.postAll (s : State) (rs : List Req) : State := rs.foldl State.post s

/-- A request not yet applied at its slice. -/
def Req.waiting (r : Req) : Bool :=
  match r.stage with | .sent | .refused | .leaf | .replay false => r.kind != .local_ | _ => false

/-- R210: no earlier request of the same leaf to the same line is still on its way. -/
def State.isFirst (s : State) (r : Req) : Bool :=
  !(s.net.takeWhile (fun x => x.id != r.id)).any (fun x =>
    x.waiting && leafOf x.core == leafOf r.core && x.k == r.k && x.line == r.line && x.part == r.part)

/-- A write to a line by a core's leaf that has not reached its slice. -/
def State.writeOnWay (s : State) (c line : Nat) : Bool :=
  s.net.any (fun x => x.waiting && leafOf x.core == leafOf c && !x.k && x.line == line &&
    (match x.kind with | .load | .monitor .. | .fetch .. => false | _ => true))

/-- R210, R213: a leaf may send a request to a line now that acts at its slice at once: no earlier one of the leaf is on its way
there, and no rehash holds the leaves. -/
def State.leafClear (s : State) (c : Nat) (k : Bool) (line : Nat) : Bool :=
  !s.fabric.busy && !s.net.any (fun x => x.waiting && leafOf x.core == leafOf c && x.k == k && x.line == line && x.part == s.partOfCore c)

/-- R187: a core's requests outstanding. -/
def State.outstanding (s : State) (c : Nat) : Nat :=
  (s.net.filter (fun r => r.core == c && r.stage != .held && r.kind != .local_)).length

/-! ### The L1 (R176 to R181) -/

/-- A line held by a core's L1. -/
def State.l1Find (s : State) (c line : Nat) : Option L1Line := (s.core c).lines.find? (fun l => l.line == line)

/-- A request whose reply fills a line of the L1. -/
def Req.brings (r : Req) : Bool := match r.kind with | .load | .fetch 0 => true | _ => false

/-- A drop of a core's copy, or a write that passes it, must not be undone by a load on its way: such a load returns its
data without filling a line. -/
def State.noAlloc (s : State) (c line : Nat) : State :=
  { s with net := s.net.map (fun r => if r.core = c ∧ r.line = line ∧ r.k = false ∧ r.brings then { r with noAlloc := true } else r) }

/-- Drop a line. -/
def State.l1Drop (s : State) (c line : Nat) : State :=
  (s.noAlloc c line).modCore c (fun k => { k with lines := k.lines.filter (fun l => l.line != line) })

/-- Replace a line that is held. -/
def State.l1Set (s : State) (c : Nat) (l : L1Line) : State :=
  s.modCore c (fun k => { k with lines := k.lines.map (fun x => if x.line = l.line then l else x) })

/-- R176: send the dirty bytes of a line to its home slice; `op` waits for the acknowledgement, 0 for none. -/
def State.writeBack (s : State) (c op : Nat) (l : L1Line) : State :=
  if l.dirty = 0 then s
  else s.post { Req.blank c (s.partOfPa (l.line * 128)) with
    op := op, kind := .writeback, line := l.line, data := l.data, mask := l.dirty, prio := l.prio, cls := 1, owner := l.owner }

/-- R180: how soon a line of a priority is replaced: stream first, then normal, then keep. -/
def evictRank (prio : Nat) : Nat := match prio with | 2 => 0 | 1 => 2 | _ => 1

/-- R180: the line of a full set that is replaced; within a rank the least recently used (log entry 10). -/
def victimOf : List L1Line → Option L1Line
  | [] => none
  | l :: ls =>
    match victimOf ls with
    | none => some l
    | some m => if evictRank l.prio < evictRank m.prio || (evictRank l.prio == evictRank m.prio && l.used ≤ m.used) then some l else some m

/-- R14, R176: the set of a line in an L1 of `g` granules: 512 lines to a granule, 16 to a set. -/
def l1Index (g line : Nat) : Nat := Config.l1Set g line % (32 * g)

/-- R176, L1_EVICT: make room in the 16 ways of the set of a line. -/
def State.l1Room (s : State) (c line : Nat) : State :=
  let lines := (s.core c).lines
  if lines.length < 16 then s
  else
    let g := s.l1Granules c
    let ways := lines.filter (fun l => l1Index g l.line == l1Index g line)
    if ways.length < 16 then s
    else match victimOf ways with
      | none => s
      | some v => (s.writeBack c 0 v).l1Drop c v.line

/-- R176: where the sets of an L1 have changed (R14), lines that a set of 16 ways cannot hold leave it. -/
def State.l1Refit (s : State) (c : Nat) : State :=
  (s.core c).lines.foldl (fun s l =>
    let g := s.l1Granules c
    let ways := (s.core c).lines.filter (fun x => l1Index g x.line == l1Index g l.line)
    match if ways.length ≤ 16 then none else victimOf ways with
    | none => s
    | some v => (s.writeBack c 0 v).l1Drop c v.line) s

/-- Put a line into the L1, replacing its old copy or making room. -/
def State.l1Put (s : State) (c : Nat) (l : L1Line) : State :=
  match s.l1Find c l.line with
  | some _ => s.l1Set c l
  | none => (s.l1Room c l.line).modCore c (fun k => { k with lines := k.lines ++ [l] })

/-- R179: invalidate every shared-class line of a core. -/
def State.dropShared (s : State) (c : Nat) : State :=
  { (s.modCore c (fun k => { k with lines := k.lines.filter (fun l => !l.shared) })) with
    net := s.net.map (fun r => if r.core = c ∧ r.k = false ∧ r.brings ∧ (s.core c).lines.any (fun l => l.shared && l.line == r.line)
      then { r with noAlloc := true } else r) }

/-! ### What a slice does (R204 to R206, R253) -/

/-- R205: every word within a signed byte of the first. -/
def compressible (ws : List Word) : Bool :=
  match ws with
  | [] => true
  | w0 :: _ => ws.all (fun w => decide (-128 ≤ w.toInt - w0.toInt) && decide (w.toInt - w0.toInt ≤ 127))

/-- Data entries that a slice's tags use: one, or half of one for a compressible line (R204, R205). -/
def State.entriesUsed (s : State) (tags : List (Nat × Nat)) : Nat :=
  let half := (tags.filter (fun t => compressible (bytesWords (s.memBytes (t.1 * 128) 128)))).length
  (tags.length - half) + (half + 1) / 2

/-- R204, SLICE_EVICT: the tag replaced among those that `can` allows: by eviction priority (R180), then the least recently
served (log entry 10). -/
def evictTag (can : Nat → Bool) (tags : List (Nat × Nat)) : Option (Nat × Nat) :=
  let of := fun (r : Nat) => tags.find? (fun t => can t.1 && evictRank t.2 == r)
  match of 0, of 1, of 2 with
  | some t, _, _ => some t
  | none, some t, _ => some t
  | none, none, t => t

/-- The page size (log2) by which a line of memory is mapped: that of the leaf that a translation used last (R186); 64 KiB where
none has. -/
def State.lineBits (s : State) (line : Nat) : Nat :=
  ((s.leaves.find? (fun u => lineWithin u.lo (2 ^ u.size) line)).map (·.size)).getD 16

/-- R188: a request for a line goes from its memory-side cache to the controller. -/
def State.toMem (s : State) (line cls : Nat) : State :=
  { s with memq := s.memq ++ [{ line := line, size := s.lineBits line, cls := cls }] }

/-- Table 8.5: the stripe of each interleave scheme. -/
def stripeOf (il : BitVec 3) : Nat := [256, 4096, 256, 4096, 256, 8192, 65536, 65536].getD il.toNat 256

/-- R186, Table 8.5: the stack and the channel that serve a physical address of a partition under a scheme, for a leaf of
`page` bytes. -/
def Part.channelOf (p : Part) (il : BitVec 3) (page a : Nat) : Nat × Nat :=
  let ss := p.stacks
  let all := fun (i : Nat) => let j := i % (32 * ss.length); (ss.getD (j / 32) 0, j % 32)
  let own := ss.getD (a / page % ss.length) 0
  let i := a / stripeOf il + a / page
  match il.toNat with
  | 0 | 1 => all i
  | 4 | 5 => (own, 8 * (a / (page * ss.length) % 4) + i % 8)
  | 7 => all (a / page)
  | _ => (own, i % 32)

/-- R186: the stack that serves a line. -/
def State.stackOf (s : State) (line : Nat) : Nat :=
  ((s.part (s.partOfPa (line * 128))).channelOf (s.schemeOf (line * 128)) (2 ^ s.lineBits line) (line * 128)).1

/-- R188, R204: a memory-side cache drops a line; a dirty one is written back as a request of the class that caused it. -/
def State.sideDrop (s : State) (x : SideLine) (cls : Nat) : State :=
  let s := { s with mside := s.mside.filter (fun y => y.line != x.line) }
  if x.dirty then s.toMem x.line cls else s

/-- R188: a line enters its memory-side cache, 32 MiB to a stack (R19). Which line leaves for it is open, and whether one leaves
before the stack's cache is full (log entry 32). -/
def State.sideEvict (s : State) (line cls : Nat) : State :=
  let mine := s.mside.filter (fun x => x.line != line && s.stackOf x.line == s.stackOf line)
  if decide (mine.length < 262144) && !Config.freeBool s.tick (2 ^ 24 + line) then s
  else match mine[Config.freeNat s.tick (2 ^ 24 + line) % mine.length]? with
    | some x => s.sideDrop x cls
    | none => s

/-- R188, R204: a line comes to its memory-side cache, dirty where a slice has written it back. -/
def State.sidePut (s : State) (line : Nat) (dirty : Bool) (cls : Nat) : State :=
  let old := s.mside.any (fun x => x.line == line && x.dirty)
  let s := { s with mside := { line := line, dirty := dirty || old } :: s.mside.filter (fun x => x.line != line) }
  if decide (s.mside.length ≤ 262144) && !Config.freeBool s.tick (2 ^ 24 + line) then s else s.sideEvict line cls

/-- R188: a request of a requester class for a line's data goes to the line's memory-side cache, and on to the controller where the
cache does not hold the line. -/
def State.ask (s : State) (line cls : Nat) : State :=
  if s.mside.any (fun x => x.line == line) then s else (s.toMem line cls).sidePut line false cls

/-- R188: a read of a line at its home slice: one that the slice does not hold asks the memory for it. -/
def State.askFor (s : State) (sl line cls : Nat) : State :=
  if (s.slices.getD sl Slice.reset).tags.any (fun t => t.1 == line) then s else s.ask line cls

/-- R183, R188: the table lines that a walk from a root reads, as requests of class 5. -/
def State.askWalk (s : State) (part root va : Nat) : State :=
  (List.range 4).foldl (fun s n => match s.walkSteps part va n (.at_ 3 root) with
    | .at_ k base => let a := base + 8 * (walkIndex k va).1
      if s.partOfPa a = part then s.askFor (homeSlice (s.part part) a) (lineOf a) 5 else s
    | _ => s) s

/-- The pages of accesses that a unit of a core makes, each 64 KiB block looked at once: where no TLB entry serves it the unit's
walk reads the tables (R188), and the leaf is in use. -/
def State.usePages (s : State) (core root : Nat) (vas : List Nat) : State :=
  let part := s.partOfCore core
  ((vas.map (fun va => va / 65536 * 65536)).eraseDups).foldl (fun s va =>
    let s := if (s.tlbFind core 8 root va).isSome then s else s.askWalk part root va
    match s.walk part root va with | .leaf e sz => s.useLeaf part root va e sz | _ => s) s

/-- R204: a slice drops a tag; a dirty line is written back to its stack's memory-side cache, as request class 1. -/
def State.dropTag (s : State) (sl : Nat) (t : Option (Nat × Nat)) : State :=
  match t with
  | none => s
  | some t =>
    let dirty := (s.slices.getD sl Slice.reset).dirty.contains t.1
    let s := s.modSlice sl (fun x => { x with tags := x.tags.filter (· != t), dirty := x.dirty.filter (· != t.1) })
    if dirty then s.sidePut t.1 true 1 else s

/-- R204, R205: a slice whose tags use more than its 8,192 data entries evicts, but not the line named; `n` bounds how
often. -/
def State.fitData (s : State) (sl : Nat) (keep : Option Nat) : Nat → State
  | 0 => s
  | n + 1 =>
    let tags := (s.slices.getD sl Slice.reset).tags
    if s.entriesUsed tags > 8192 then (s.dropTag sl (evictTag (fun l => keep != some l) tags)).fitData sl keep n else s

/-- R23, R393, R409: lines of a partition that its slices or memory-side caches hold dirty go back to memory. -/
def State.cleanSide (s : State) (part : Nat) (sel : Nat → Bool) : State :=
  let mine := fun (l : Nat) => sel l && s.partOfPa (l * 128) == part
  let ls := ((s.slices.flatMap (·.dirty) ++ (s.mside.filter (·.dirty)).map (·.line)).filter mine).eraseDups
  let s := ls.foldl (fun s l => s.toMem l 1) s
  { s with
    slices := s.slices.map (fun x => { x with dirty := x.dirty.filter (fun l => !mine l) }),
    mside := s.mside.map (fun x => if mine x.line then { x with dirty := false } else x) }

/-- R204: the set of a line in a slice of 16,384 tags in 16 ways. -/
def sliceIndex (line : Nat) : Nat := Config.sliceSet line % 1024

/-- A slice serves a line with a priority; priority 3 neither allocates nor changes a priority (R180). A line that is not held
comes from memory as a request of class `cls` and takes a way of its set. -/
def State.touchTag (s : State) (sl line prio cls : Nat) : State :=
  let s := s.askFor sl line cls
  if prio = 3 then s
  else
    let tags := (s.slices.getD sl Slice.reset).tags
    let ways := tags.filter (fun t => t.1 != line && sliceIndex t.1 == sliceIndex line)
    let s := if tags.any (fun t => t.1 == line) || decide (ways.length < 16) then s else s.dropTag sl (evictTag (fun _ => true) ways)
    let s := s.modSlice sl (fun x => { x with tags := x.tags.filter (fun t => t.1 != line) ++ [(line, prio)] })
    s.fitData sl (some line) ((s.slices.getD sl Slice.reset).tags.length - 8192)

/-- R204: an update has changed a line: its slice holds it dirty, or passes it on to the memory-side cache where it does not
allocate (R180). -/
def State.dirtyTag (s : State) (sl line cls : Nat) : State :=
  if (s.slices.getD sl Slice.reset).tags.any (fun t => t.1 == line) then
    s.modSlice sl (fun x => { x with dirty := line :: x.dirty.filter (· != line) })
  else s.sidePut line true cls
/-- A slice serves an update of a line with a priority. -/
def State.touchWrite (s : State) (sl line prio cls : Nat) : State := (s.touchTag sl line prio cls).dirtyTag sl line cls

/-- R206: the next sequence tag of a slice. -/
def State.ordOf (s : State) (sl : Nat) : Word := (s.slices.getD sl Slice.reset).ord
/-- R206: an update takes a tag; one that makes a paired line incompressible may evict a line (R205). -/
def State.takeTag (s : State) (sl : Nat) : State :=
  let s := s.modSlice sl (fun x => { x with ord := x.ord + 1 })
  s.fitData sl none ((s.slices.getD sl Slice.reset).tags.length - 8192)
/-- R206, R214: a request's update takes a tag, which its reply returns and the slice's window keeps. -/
def State.takeTagFor (s : State) (r : Req) : State := (s.modReq r.id (fun x => { x with ord := x.ord ++ [s.ordOf r.slice] })).takeTag r.slice

/-- Table 10.2: WAITC conditions. -/
def condMet (cond : Nat) (wide : Bool) (x y : DWord) : Bool :=
  let xi : Int := if wide then x.toInt else (x.setWidth 32).toInt
  let yi : Int := if wide then y.toInt else (y.setWidth 32).toInt
  let xn := if wide then x.toNat else x.toNat % 2 ^ 32
  let yn := if wide then y.toNat else y.toNat % 2 ^ 32
  match cond with
  | 0 => xn == yn
  | 1 => xn != yn
  | 2 => decide (xi < yi)
  | 3 => decide (xi ≥ yi)
  | 4 => decide (xn < yn)
  | _ => decide (xn ≥ yn)

/-- A byte at a partition offset of chip scratch; an undefined byte reads as a free value (R2, R292). -/
def State.kByteAt (s : State) (part a : Nat) : Byte :=
  if s.undefAt.contains (kAt part a) || s.hides (kAt part a) then Config.freeByte s.tick (2 ^ 48 + part * 2 ^ 30 + a) else cellGet s.kmem (kKey (s.part part) a)

/-- The bytes at an address at the home slice, or at a partition offset of chip scratch. -/
def State.sliceBytes (s : State) (part : Nat) (k : Bool) (a n : Nat) : List Byte :=
  if k then (List.range n).map (fun i => s.kByteAt part (a + i)) else s.memBytes a n

/-- R253, MONITOR_REEVALUATE: after an update of a line, each of its monitors whose condition is met sends a wake. -/
def State.reevaluate (s : State) (part sl : Nat) (k : Bool) (line : Nat) : State :=
  let mons := (s.slices.getD sl Slice.reset).monitors
  let val := fun (m : Monitor) => BitVec.ofNat 64 (leNat (s.sliceBytes part k m.addr (if m.wide then 8 else 4)))
  let met := fun (m : Monitor) => m.k == k && m.addr / 128 == line && condMet m.cond m.wide (val m) m.y
  if mons.any met then
    let woken := mons.filter met
    { (s.modSlice sl (fun x => { x with monitors := x.monitors.filter (fun m => !met m) })) with
      net := s.net.map (fun r => match woken.find? (fun m => m.op == r.op) with
        | some m => (match r.kind with
          | .monitor .. => { r with stage := .replied, items := r.items.map (fun it => { it with res := leBytes 8 (val m).toNat }) }
          | _ => r)
        | none => r) }
  else s

/-- Bytes stored to chip scratch. -/
def State.kWrite (s : State) (part a : Nat) (bs : List Byte) : State :=
  { (s.noteWrite (kAt part a) bs.length).define (fun i => kAt part (a + i)) bs.length with kmem := (List.range bs.length).foldl (fun m i => cellSet m (kKey (s.part part) (a + i)) (bs.getD i 0)) s.kmem }

/-- One tagged update of a line at its home slice (R206): the bytes are stored and monitors re-evaluated. -/
def State.sliceStore (s : State) (part : Nat) (k : Bool) (a : Nat) (bs : List Byte) : State :=
  let sl := s.sliceFor part k a
  ((if k then s.kWrite part a bs else s.memWrite a bs).takeTag sl).reevaluate part sl k (a / 128)

/-- R391: a grid's operations are recorded or enforced in its partition's replay mode. -/
def State.replayOn (s : State) (q : Nat) : Nat :=
  if (s.recordQ q).replay then (s.part (s.grid (s.gridOf q)).part).replay.toNat else 0

/-- R391: at an ordering point, `none` to hold the operation, `some true` to go on, `some false` to kill its grid. -/
def State.replayCheck (s : State) (q : Nat) (point src : Nat) : Option Bool :=
  if s.replayOn q = 2 then
    let mine := (s.part (s.grid (s.gridOf q)).part).log.filter (fun e => e.1 == point)
    match mine with
    | [] => some false
    | e :: _ => if e.2.1 = src then some true else if mine.any (fun e => e.2.1 == src) then none else some false
  else some true

/-- R391: record an operation at its ordering point, or take it off the log it enforces. -/
def State.replayNote (s : State) (q : Nat) (point src tag : Nat) : State :=
  match s.replayOn q with
  | 1 => s.modPart (s.grid (s.gridOf q)).part (fun p => { p with log := p.log ++ [(point, src, tag)] })
  | 2 => s.modPart (s.grid (s.gridOf q)).part (fun p => { p with log := p.log.eraseP (fun e => e.1 == point) })
  | _ => s

/-- R391: the ordering point of a line: lines of memory and of chip scratch apart from the other points. -/
def linePoint (k : Bool) (line : Nat) : Nat := 8 * line + (if k then 1 else 0)

/-- R391: kill every gang of a grid with cause REPLAY. -/
def State.killReplay (s : State) (q : Nat) : State := (s.gangsOf (s.gridOf q)).foldl (fun s g => s.addKill g 0x83) s

/-- R391: an update of a line that a unit makes at once for a quire's grid: it goes into the log, or comes off it, or kills the
grid where another stands next. -/
def State.noteUpdate (s : State) (q : Option Nat) (k : Bool) (line src tag : Nat) : State :=
  match q with
  | none => s
  | some q => match s.replayCheck q (linePoint k line) src with
    | some false => s.killReplay q
    | _ => s.replayNote q (linePoint k line) src tag

/-- R391: the log lets a quire's grid update a line now. -/
def State.mayUpdate (s : State) (q : Option Nat) (k : Bool) (line src : Nat) : Bool :=
  match q with | none => true | some q => (s.replayCheck q (linePoint k line) src).isSome

/-- A dirty line reaches its home slice as one update (R176, R206). -/
def State.mergeLine (s : State) (part line : Nat) (mask : BitVec 128) (data : BitVec 1024) (prio : Nat) : State :=
  let sl := s.sliceFor part false (line * 128)
  (((s.memMerge line mask (lineBytes data)).takeTag sl).reevaluate part sl false line).touchWrite sl line prio 1

/-- A line leaves a core's L1 with its dirty bytes merged at its home slice (R176). -/
def State.mergeOut (s : State) (c : Nat) (l : L1Line) : State :=
  (if l.dirty = 0 then s
    else
      let part := s.partOfPa (l.line * 128)
      (s.noteUpdate l.owner false l.line (leafOf c) (s.ordOf (s.sliceFor part false (l.line * 128))).toNat).mergeLine part l.line l.dirty l.data l.prio).l1Drop
        c l.line

/-- Every write-back of a core's lines that has left it is merged, no write to a line that it holds dirty is on its way, and the
replay log lets each be written (R391): lines may leave the L1 at once. -/
def State.cleanReady (s : State) (c : Nat) : Bool :=
  !s.fabric.busy && !s.net.any (fun r => r.core == c && r.kind == .writeback && r.waiting) &&
  (s.core c).lines.all (fun l => l.dirty == 0 || (!s.writeOnWay c l.line && s.mayUpdate l.owner false l.line (leafOf c)))

/-- R383: every dirty byte of a core's L1 is written back, and every line dropped. -/
def State.cleanDrop (s : State) (c : Nat) : State := (s.core c).lines.foldl (fun s l => s.mergeOut c l) s

/-- R14, R176: the lines that an L1 of `g` granules keeps, where it held more: which go beside those that its sets cannot hold
is open (log entry 10). -/
def State.l1Keeps (s : State) (c g : Nat) : List L1Line :=
  (s.core c).lines.foldl (fun ls l =>
    if Config.freeBool s.tick (l.line * 256 + c) || decide ((ls.filter (fun x => l1Index g x.line == l1Index g l.line)).length ≥ 16) then ls
    else ls ++ [l]) []

/-- R14, R182: a core's L1 shrinks to `g` granules: the lines that go have their dirty bytes written back first. -/
def State.l1Shrink (s : State) (c g : Nat) : State :=
  let keep := s.l1Keeps c g
  ((s.core c).lines.filter (fun l => !keep.contains l)).foldl (fun s l => s.mergeOut c l) s

/-- One tagged update for a request, at an offset of its line (R206, R214). -/
def State.updateFor (s : State) (r : Req) (off : Nat) (bs : List Byte) : State :=
  ((if r.k then s.kWrite r.part (r.byteAddr + off) bs else s.memWrite (r.byteAddr + off) bs).takeTagFor r).reevaluate r.part r.slice r.k r.line

/-- R24: an access to memory of another partition is discarded and counted. -/
def State.discardAccess (s : State) (part : Nat) : State := s.modPart part (fun p => { p with errors := p.errors + 1 })

/-- R24: a PROT whose cause is a table entry or a frame of another partition: the unit counts what it discards. -/
def State.noteForeign (s : State) (t : ThreadId) (tr : Trap) : State :=
  let q := s.quire t.quire
  let part := s.partOfCore q.core
  if tr.code ≠ .prot then s
  else match s.leafFor q.core q.ip (s.recordOf q.team).root tr.addr with
    | .prot => s.discardAccess part
    | .leaf e sz => if s.partOfPa (leafPa e sz tr.addr) = part then s else s.discardAccess part
    | _ => s

/-- Stores of a byte string that may cross lines, of a unit of partition `part`: one tagged update per line, in rising address
(R206, R399); a line of another partition's memory takes none (R24). -/
def State.sliceStoreSpan (s : State) (part a : Nat) (bs : List Byte) : State :=
  let first := a / 128
  let lines := if bs.isEmpty then 0 else (a + bs.length - 1) / 128 - first + 1
  (List.range lines).foldl (fun s i =>
    let lo := max a ((first + i) * 128)
    let hi := min (a + bs.length) ((first + i + 1) * 128)
    if s.partOfPa lo = part then s.sliceStore part false lo ((bs.drop (lo - a)).take (hi - lo)) else s.discardAccess part) s

/-- R404: one event entry: CODE, GRID and DATA. -/
def eventBytes (code : Nat) (grid : Word) (data : Nat) : List Byte := leBytes 4 code ++ leBytes 4 grid.toNat ++ leBytes 8 data

/-- The next value of a free-running 32-bit ring index (log entry 11). -/
def ringNext (i : Nat) : Nat := (i + 1) % 2 ^ 32
/-- How far one ring index has passed another. -/
def ringDist (head tail : Nat) : Nat := (tail + 2 ^ 32 - head) % 2 ^ 32
/-- The event ring has no room: as many entries as it holds are unread (log entry 11). -/
def Part.eqFull (p : Part) : Bool := decide (ringDist p.eqHead p.eqTail ≥ p.eqSize)

/-- R404, EVENT_WRITE: write an event at EQ_TAIL and raise MSI-X, hold it, or drop it and count it. -/
def State.putEvent (s : State) (part code : Nat) (grid : Word) (data : Nat) : State :=
  let p := s.part part
  let bs := eventBytes code grid data
  if p.eqFull then
    if p.held.length < 64 then s.modPart part (fun p => { p with held := p.held ++ [bs] })
    else s.modPart part (fun p => { p with eqLost := p.eqLost + 1 })
  else
    ((s.sliceStoreSpan part (p.eqBase + 16 * (p.eqTail % p.eqSize)) bs).modPart part
      (fun p => { p with eqTail := ringNext p.eqTail })).emit (.msix part)

/-- Held events enter the ring as entries free (R404); at most `n`. -/
def State.drainEvents (s : State) (part : Nat) : Nat → State
  | 0 => s
  | n + 1 =>
    let p := s.part part
    match p.held with
    | [] => s
    | bs :: rest =>
      if p.eqFull then s
      else State.drainEvents (((s.sliceStoreSpan part (p.eqBase + 16 * (p.eqTail % p.eqSize)) bs).modPart part
        (fun p => { p with eqTail := ringNext p.eqTail, held := rest })).emit (.msix part)) part n

/-- R385: a gang consumes the data of a line that holds an uncorrectable error. -/
def State.consume (s : State) (gang line : Nat) : State := if s.poison.contains line then s.addKill gang 0x80 else s

/-! ### Completion of an outstanding instruction (R39) -/

/-- R384: a counter of a saved thread falls in its thread record (Table 15.7), whose check is formed anew. -/
def State.decRecord (s : State) (t : ThreadId) (k : Nat) : State :=
  match s.saves.find? (fun r => r.what == .thread t) with
  | none => s
  | some r =>
    let part := s.partOfPa r.addr
    let d := (s.memByte (r.addr + 0x64 + k)).toNat
    let s := s.sliceStore part false (r.addr + 0x64 + k) (leBytes 1 (d - 1))
    s.sliceStore part false (r.addr + 0x78) (leBytes 8 (Config.ctxCheck (s.memBytes r.addr 0x78)).toNat)

/-- Lower the counter that an operation holds for a thread: that of a WAITC or NRED in its record when that is out. -/
def State.decFor (s : State) (o : Op) (t : ThreadId) : State :=
  match o.ctr with
  | none => s
  | some k =>
    if (s.thread t).out && (o.kind == .waitc || o.kind == .nred) then s.decRecord t k else s.modThread t (Thread.dec k)

/-- R384: a reply of WAITC or NRED writes its register, in the quire record when that is out. -/
def State.lateReply (s : State) (t : ThreadId) (op : Nat) (r : RegId) (w : Word) : State :=
  let q := s.quire t.quire
  match r, q.out with
  | .q m, true => { s with saves := s.saves.map (fun x => match x.what with
      | .quire z => if z.team = q.team ∧ z.qid = q.qid then { x with what := .quire (z.setQ m w) } else x
      | _ => x) }
  | _, _ => s.lateReg t op r w

/-- Registers that an operation still marked pending are pending no more. -/
def State.unmark (s : State) (id q : Nat) (ts : List ThreadId) : State :=
  (s.modThreads ts (fun _ th => { th with busy := th.busy.filter (fun b => b.op != id) })).modQuire q
    (fun q => { q with busy := q.busy.filter (fun b => b.op != id) })

/-- An operation completes for some of its threads: their counters fall, and no register of theirs is pending for it any
more; the operation goes when none is left. -/
def State.completeFor (s : State) (id : Nat) (ts : List ThreadId) : State :=
  match s.op? id with
  | none => s
  | some o =>
    let s := (o.threads.filter (fun t => ts.contains t)).foldl (fun s t => s.decFor o t) s
    let s := s.unmark id o.quire ts
    let left := o.threads.filter (fun t => !ts.contains t)
    if left.isEmpty then { s with ops := s.ops.filter (fun x => x.id != id) } else s.modOp id (fun x => { x with threads := left })

/-- An operation completes for all its threads. -/
def State.complete (s : State) (id : Nat) : State :=
  match s.op? id with | none => s | some o => s.completeFor id o.threads

/-- Threads that waited for operation `id` go on. -/
def State.unparkOp (s : State) (id : Nat) (ts : List ThreadId) : State :=
  ts.foldl (fun s t => match (s.thread t).stat with
    | .parked w => if w.op? = some id then s.unpark t else s
    | _ => s) s

/-- An operation's verdict is a trap in some of its threads: the instruction is the trapping one (R11). -/
def State.raiseOp (s : State) (o : Op) (ts : List ThreadId) (tr : Trap) : State :=
  ts.foldl (fun s t => (s.noteForeign t tr).raiseAt t o.hdr o.pos tr) s

end Sys2Proof.Machine
end

