-- ==== Sys2Proof/Machine/IntArith.lean ====
section
/-! DEFINITION. The integer operations of Table 2.6 as functions of operand values (R114 to R124): the one source of the
vector, uniform and long-immediate forms. -/

namespace Sys2Proof.Machine

/-- What an integer operation reads. A single register is zero-extended; a pair fills all 64 bits (R5). `cin` is P6 for
ADDC and SUBB and the selecting predicate for SEL. -/
structure IntIn where
  a   : DWord
  b   : DWord
  d   : DWord
  cin : Bool := false
  deriving DecidableEq, Repr

/-- What an integer operation writes: the result (low 32 bits for a single destination), the flags it sets, and the
predicate it writes (the carry of ADDC and SUBB, the comparison of ISET). -/
structure IntOut where
  val   : DWord
  flags : Flags := 0
  pred  : Option Bool := none
  deriving DecidableEq, Repr

/-- Operand A as a 32-bit string. -/
abbrev IntIn.a32 (x : IntIn) : Word := x.a.setWidth 32
/-- Operand B as a 32-bit string. -/
abbrev IntIn.b32 (x : IntIn) : Word := x.b.setWidth 32
/-- Operand D as a 32-bit string. -/
abbrev IntIn.d32 (x : IntIn) : Word := x.d.setWidth 32

/-- A 32-bit result. -/
def out32 (w : Word) : IntOut := { val := w.setWidth 64 }
/-- A 64-bit result. -/
def out64 (w : DWord) : IntOut := { val := w }

/-- R114: `sat(x, lo, hi)`, setting SAT when it differs from x. -/
def outSat (x lo hi : Int) : IntOut :=
  let y := satInt x lo hi
  { val := (BitVec.ofInt 32 y).setWidth 64, flags := flagIf (y != x) fSAT }

/-- R114 ADD. -/
def opAdd (x : IntIn) : IntOut := out32 (x.a32 + x.b32)
/-- R114 ADD.i32.sat. -/
def opAddI32Sat (x : IntIn) : IntOut := outSat (x.a32.toInt + x.b32.toInt) (-2147483648) 2147483647
/-- R114 ADD.n32.sat. -/
def opAddN32Sat (x : IntIn) : IntOut := outSat (x.a32.toNat + x.b32.toNat) 0 4294967295
/-- R115 ADDC. -/
def opAddc (x : IntIn) : IntOut :=
  let s := x.a32.toNat + x.b32.toNat + x.cin.toNat
  { val := (BitVec.ofNat 32 s).setWidth 64, pred := some (decide (s ≥ 4294967296)) }
/-- R114 SUB. -/
def opSub (x : IntIn) : IntOut := out32 (x.a32 - x.b32)
/-- R114 SUB.i32.sat. -/
def opSubI32Sat (x : IntIn) : IntOut := outSat (x.a32.toInt - x.b32.toInt) (-2147483648) 2147483647
/-- R114 SUB.n32.sat. -/
def opSubN32Sat (x : IntIn) : IntOut := outSat ((x.a32.toNat : Int) - x.b32.toNat) 0 4294967295
/-- R115 SUBB. -/
def opSubb (x : IntIn) : IntOut :=
  let s : Int := (x.a32.toNat : Int) - x.b32.toNat - x.cin.toNat
  { val := (BitVec.ofInt 32 s).setWidth 64, pred := some (decide (s < 0)) }
/-- R116 MUL. -/
def opMul (x : IntIn) : IntOut := out32 (x.a32 * x.b32)
/-- R116 MULH.i32. -/
def opMulhI32 (x : IntIn) : IntOut := out32 ((BitVec.ofInt 64 (x.a32.toInt * x.b32.toInt)).extractLsb' 32 32)
/-- R116 MULH.n32. -/
def opMulhN32 (x : IntIn) : IntOut := out32 ((BitVec.ofNat 64 (x.a32.toNat * x.b32.toNat)).extractLsb' 32 32)
/-- R116 MAD. -/
def opMad (x : IntIn) : IntOut := out32 (x.a32 * x.b32 + x.d32)
/-- R116 MADW.i32. -/
def opMadwI32 (x : IntIn) : IntOut := out64 (BitVec.ofInt 64 (x.a32.toInt * x.b32.toInt + x.d.toNat))
/-- R116 MADW.n32. -/
def opMadwN32 (x : IntIn) : IntOut := out64 (BitVec.ofNat 64 (x.a32.toNat * x.b32.toNat + x.d.toNat))
/-- R114 MIN.i32. -/
def opMinI32 (x : IntIn) : IntOut := out32 (if x.a32.toInt ≤ x.b32.toInt then x.a32 else x.b32)
/-- R114 MIN.n32. -/
def opMinN32 (x : IntIn) : IntOut := out32 (if x.a32.toNat ≤ x.b32.toNat then x.a32 else x.b32)
/-- R114 MAX.i32. -/
def opMaxI32 (x : IntIn) : IntOut := out32 (if x.a32.toInt ≤ x.b32.toInt then x.b32 else x.a32)
/-- R114 MAX.n32. -/
def opMaxN32 (x : IntIn) : IntOut := out32 (if x.a32.toNat ≤ x.b32.toNat then x.b32 else x.a32)
/-- R114 AND. -/
def opAnd (x : IntIn) : IntOut := out32 (x.a32 &&& x.b32)
/-- R114 OR. -/
def opOr (x : IntIn) : IntOut := out32 (x.a32 ||| x.b32)
/-- R114 XOR. -/
def opXor (x : IntIn) : IntOut := out32 (x.a32 ^^^ x.b32)
/-- R114 ANDN: a and not b. -/
def opAndn (x : IntIn) : IntOut := out32 (x.a32 &&& ~~~ x.b32)

/-- R117, R118 SHL at width w: all 32 count bits count. -/
def shlW {w : Nat} (a : BitVec w) (n : Nat) : BitVec w := if n ≥ w then 0 else a <<< n
/-- R117, R118 SHR at width w. -/
def shrW {w : Nat} (a : BitVec w) (n : Nat) : BitVec w := if n ≥ w then 0 else a >>> n
/-- R117, R118 SHRA at width w. -/
def shraW {w : Nat} (a : BitVec w) (n : Nat) : BitVec w :=
  if n ≥ w then (if a.msb then BitVec.allOnes w else 0) else a.sshiftRight n

/-- R117 SHL. -/
def opShl (x : IntIn) : IntOut := out32 (shlW x.a32 x.b32.toNat)
/-- R117 SHR. -/
def opShr (x : IntIn) : IntOut := out32 (shrW x.a32 x.b32.toNat)
/-- R117 SHRA. -/
def opShra (x : IntIn) : IntOut := out32 (shraW x.a32 x.b32.toNat)
/-- R117 ROT: rotate left by the count modulo 32. -/
def opRot (x : IntIn) : IntOut := out32 (x.a32.rotateLeft (x.b32.toNat % 32))

/-- R119 FUNNEL: cat(a, b) shifted right by min(d, 32). -/
def opFunnel (x : IntIn) : IntOut :=
  out32 ((pairOf x.b32 x.a32 >>> min x.d32.toNat 32).setWidth 32)

/-- R119: position and width from b. -/
def bfePos (b : Word) : Nat := min (b.extractLsb' 0 8).toNat 32
/-- R119: the width, limited to the bits above the position. -/
def bfeWidth (b : Word) : Nat := min (b.extractLsb' 8 8).toNat (32 - bfePos b)

/-- R119 BFE.n32. -/
def opBfeN32 (x : IntIn) : IntOut :=
  out32 (BitVec.ofNat 32 (x.a32.toNat / 2 ^ bfePos x.b32 % 2 ^ bfeWidth x.b32))
/-- R119 BFE.i32. -/
def opBfeI32 (x : IntIn) : IntOut :=
  let w := bfeWidth x.b32
  let f := x.a32.toNat / 2 ^ bfePos x.b32 % 2 ^ w
  out32 (if w = 0 then 0 else (BitVec.ofNat w f).signExtend 32)
/-- R119 BFI: bits [pos + w − 1 : pos] of d replaced by a[w − 1 : 0]. -/
def opBfi (x : IntIn) : IntOut :=
  let pos := bfePos x.b32
  let mask : Word := BitVec.ofNat 32 ((2 ^ bfeWidth x.b32 - 1) <<< pos)
  out32 ((x.d32 &&& ~~~ mask) ||| ((x.a32 <<< pos) &&& mask))

/-- R119 BSWZ: one result byte from selector byte `e` and the source string y. -/
def bswzByte (y : DWord) (e : Byte) : Byte :=
  let byte : Byte := (y >>> (8 * (e.extractLsb' 0 3).toNat)).setWidth 8
  match (e.extractLsb' 3 2).toNat with
  | 0 => byte
  | 1 => 0x00
  | 2 => if byte.msb then 0xFF else 0x00
  | _ => 0xFF
/-- R119 BSWZ. -/
def opBswz (x : IntIn) : IntOut :=
  let y := pairOf x.a32 x.b32
  let s := x.d32
  out32 ((bswzByte y (s.extractLsb' 24 8) ++ bswzByte y (s.extractLsb' 16 8) ++ bswzByte y (s.extractLsb' 8 8) ++
    bswzByte y (s.extractLsb' 0 8) : BitVec (8 + 8 + 8 + 8)))

/-- R120 NEG. -/
def opNeg (x : IntIn) : IntOut := out32 (0 - x.a32)
/-- R120 ABS. -/
def opAbs (x : IntIn) : IntOut := out32 (if x.a32.msb then 0 - x.a32 else x.a32)
/-- R120: the number of one bits among the lowest n. -/
def onesBelow (a : Word) : Nat → Nat
  | 0 => 0
  | n + 1 => onesBelow a n + (a.getLsbD n).toNat
/-- R120 POPC. -/
def opPopc (x : IntIn) : IntOut := out32 (BitVec.ofNat 32 (onesBelow x.a32 32))
/-- R120 CLZ: 32 when a = 0. -/
def opClz (x : IntIn) : IntOut :=
  out32 (BitVec.ofNat 32 (if x.a32 = 0 then 32 else 31 - x.a32.toNat.log2))
/-- R120 BREV. -/
def opBrev (x : IntIn) : IntOut := out32 x.a32.reverse

/-- R121: the comparison of an ISET, as a predicate result. -/
def outPred (c : Bool) : IntOut := { val := 0, pred := some c }
/-- R121 ISET.i32. -/
def opIsetI32 (cond : BitVec 4) (x : IntIn) : IntOut := outPred (compareCode cond.toNat x.a32.toInt x.b32.toInt)
/-- R121 ISET.n32. -/
def opIsetN32 (cond : BitVec 4) (x : IntIn) : IntOut := outPred (compareCode cond.toNat x.a32.toNat x.b32.toNat)
/-- R121 ISET.i64. -/
def opIsetI64 (cond : BitVec 4) (x : IntIn) : IntOut := outPred (compareCode cond.toNat x.a.toInt x.b.toInt)
/-- R121 ISET.n64. -/
def opIsetN64 (cond : BitVec 4) (x : IntIn) : IntOut := outPred (compareCode cond.toNat x.a.toNat x.b.toNat)

/-- R118 ADD.64. -/
def opAdd64 (x : IntIn) : IntOut := out64 (x.a + x.b)
/-- R118 SUB.64. -/
def opSub64 (x : IntIn) : IntOut := out64 (x.a - x.b)
/-- R118 MUL.64. -/
def opMul64 (x : IntIn) : IntOut := out64 (x.a * x.b)
/-- R118 SHL.64: the count is the single register B. -/
def opShl64 (x : IntIn) : IntOut := out64 (shlW x.a x.b32.toNat)
/-- R118 SHR.64. -/
def opShr64 (x : IntIn) : IntOut := out64 (shrW x.a x.b32.toNat)
/-- R118 SHRA.64. -/
def opShra64 (x : IntIn) : IntOut := out64 (shraW x.a x.b32.toNat)

/-- Bits of an ICVT width code (Table 5.4). -/
def icvtBits (c : BitVec 2) : Nat := 8 * 2 ^ c.toNat

/-- R124 ICVT with the selector of Table 5.4. -/
def opIcvt (sel : BitVec 7) (x : IntIn) : IntOut :=
  let ws := icvtBits (sel.extractLsb' 0 2)
  let wd := icvtBits (sel.extractLsb' 3 2)
  let src : BitVec ws := x.a.setWidth ws
  let v : Int := if sel.getLsbD 2 then src.toInt else src.toNat
  let ds := sel.getLsbD 5
  let lo : Int := if ds then -(2 ^ (wd - 1)) else 0
  let hi : Int := if ds then 2 ^ (wd - 1) - 1 else 2 ^ wd - 1
  let y : Int := if sel.getLsbD 6 then satInt v lo hi else v
  let low : BitVec wd := BitVec.ofInt wd y
  let w64 : DWord := if ds then low.signExtend 64 else low.setWidth 64
  { val := if wd = 64 then w64 else (w64.setWidth 32).setWidth 64, flags := flagIf (y != v) fSAT }

/-- R123 LEA.i32 at scale 2^k. -/
def opLeaI32 (k : BitVec 2) (x : IntIn) : IntOut := out64 (x.a + (x.b32.signExtend 64 <<< k.toNat))
/-- R123 LEA.n32 at scale 2^k. -/
def opLeaN32 (k : BitVec 2) (x : IntIn) : IntOut := out64 (x.a + (x.b32.setWidth 64 <<< k.toNat))

/-- R122 SEL: A when the selecting predicate holds, else B. -/
def opSel (x : IntIn) : IntOut := out32 (if x.cin then x.a32 else x.b32)

end Sys2Proof.Machine
end

