-- ==== Sys2Proof/Machine/Operands.lean ====
section
/-! DEFINITION. What an instruction reads and writes, every operand form, the order of checks before an instruction has its
effect (R54), its issue clock (R37, R38, R80, R107), and how a gathering goes on after it (chapters 02, 04, 05). -/

namespace Sys2Proof

/-- The registers an instruction reads and writes, by number; q numbers 160 to 165 are ports (R35). -/
structure Uses where
  st  : BitVec 3 := 0
  h   : Option Hdr := none
  rv  : List Nat := []
  wv  : List Nat := []
  rp  : List Nat := []
  wp  : List Nat := []
  rq  : List Nat := []
  wq  : List Nat := []
  rqp : List Nat := []
  wqp : List Nat := []
  /-- Storage numbers of uniform registers that `%uq0` to `%uq7` name (R369), read and written. -/
  rs  : List Nat := []
  ws  : List Nat := []
  /-- It reads `%flags`. -/
  flg : Bool := false
  /-- T registers that it reads or writes (R375). -/
  rt  : List Nat := []

/-- `k` consecutive register numbers. -/
def span (n k : Nat) : List Nat := (List.range k).map (n + ·)

/-- One F1 register field. -/
def r1 (r : Reg7) : List Nat := [r.toNat]
/-- A pair named by an F1 field. -/
def r2 (r : Reg7) : List Nat := span r.toNat 2
/-- One F2 register field. -/
def x1 (r : Reg8) : List Nat := [r.toNat]
/-- Registers from an F2 field. -/
def xn (r : Reg8) (k : Nat) : List Nat := span r.toNat k
/-- An index register, or none for 0xFF. -/
def xi (r : Reg8) : List Nat := if r = 0xFF#8 then [] else [r.toNat]
/-- Registers that a value of a size takes. -/
def Size.regs : Size → Nat | .w64 => 2 | .x4 => 4 | _ => 1

/-- Uses of a uniform ALU operation; `b` is the register field B, none for an immediate (R46, R111). -/
def uopUses (st : BitVec 3) (op : BitVec 6) (d a : Reg8) (b : Option Reg8) : Uses :=
  let aw := if uopPairA op then (if op.toNat = 0x2E then icvtSrcWide ((b.getD 0).setWidth 7) else true) else false
  let aWide := aw || (op.toNat == 0x2E && icvtSrcWide ((b.getD 0).setWidth 7))
  let dWide := uopPairD op || (op.toNat == 0x2E && icvtDstWide ((b.getD 0).setWidth 7))
  let bs := match b with
    | none => []
    | some b => if uopUnary op || op.toNat == 0x2E then [] else if uopPairB op then xn b 2 else x1 b
  let ds := if uopIset op then [] else if dWide then xn d 2 else x1 d
  { st := st, rq := (if aWide then xn a 2 else x1 a) ++ bs ++ (if uopDestructive op then ds else []), wq := ds,
    rqp := if op.toNat = 3 ∨ op.toNat = 7 then [6] else if op.toNat ≥ 0x38 then [op.toNat % 8] else [],
    wqp := if op.toNat = 3 ∨ op.toNat = 7 then [6] else if uopIset op then [d.toNat % 8] else [] }

/-- Number of registers of an atomic's operand at width W. -/
def atomRegs (w : BitVec 2) : Nat := 1 <<< w.toNat

/-- The base registers of a memory access. -/
def baseRegs (space : Space) (a : Reg8) : List Nat :=
  match space with | .g => xn a 2 | _ => xi a
/-- The base registers of an atomic. -/
def gkRegs (k : Bool) (a : Reg8) : List Nat := if k then x1 a else xn a 2
/-- The register of an object's name. -/
def ObjName.rq : ObjName → List Nat | .imm _ => [] | .reg q => x1 q
/-- The register of a handle word. -/
def HWord.rq : HWord → List Nat | .imm _ => [] | .reg q => x1 q

/-- The uniform register that system register `n` names (R369): `%uq0` to `%uq7` are the program's q152 to q159. -/
def uqReg (n : BitVec 8) : List Nat := if 32 ≤ n.toNat ∧ n.toNat ≤ 39 then [120 + n.toNat] else []

/-- The T register that system register `n` is (Table 15.1). -/
def tReg (n : BitVec 8) : List Nat := if 16 ≤ n.toNat ∧ n.toNat ≤ 24 then [n.toNat] else []

/-- What an instruction reads and writes. Format blocks (QNT, DQNT, HAD) name their base here and their extent in the
meaning, by the grid's slot. A step of another agent uses nothing. -/
def Instr.uses : Instr → Uses
  | .add d a b z | .addI32Sat d a b z | .addN32Sat d a b z | .sub d a b z | .subI32Sat d a b z | .subN32Sat d a b z
  | .mul d a b z | .mulhI32 d a b z | .mulhN32 d a b z | .minI32 d a b z | .minN32 d a b z | .maxI32 d a b z
  | .maxN32 d a b z | .and d a b z | .or d a b z | .xor d a b z | .andn d a b z | .shl d a b z | .shr d a b z
  | .shra d a b z | .rot d a b z | .bfeI32 d a b z | .bfeN32 d a b z | .pkaddF16 d a b z | .pkmulF16 d a b z
  | .pack4 d a b z | .scale d a b z | .fadd _ d a b z | .fsub _ d a b z | .fmul _ d a b z | .fmin _ d a b z
  | .fmax _ d a b z => { st := z, rv := r1 a ++ r1 b, wv := r1 d }
  | .addc d a b z | .subb d a b z => { st := z, rv := r1 a ++ r1 b, wv := r1 d, rp := [6], wp := [6] }
  | .mad d a b z | .funnel d a b z | .bfi d a b z | .bswz d a b z | .ffma _ d a b z | .pkfmaF16 d a b z
  | .pkfmaBf16 d a b z => { st := z, rv := r1 a ++ r1 b ++ r1 d, wv := r1 d }
  | .madwI32 d a b z | .madwN32 d a b z => { st := z, rv := r1 a ++ r1 b ++ r2 d, wv := r2 d }
  | .neg d a z | .abs d a z | .popc d a z | .clz d a z | .brev d a z | .frnd d a _ z | .fclass d a z | .fsqrt d a z
  | .frcp d a z | .frsq d a z | .fex2 d a z | .flg2 d a z | .cvt d a _ z | .unpk4 d a _ z =>
    { st := z, rv := r1 a, wv := r1 d }
  | .isetI32 p _ a b z | .isetN32 p _ a b z | .fset p _ a b z => { st := z, rv := r1 a ++ r1 b, wp := [p.toNat] }
  | .isetI64 p _ a b z | .isetN64 p _ a b z => { st := z, rv := r2 a ++ r2 b, wp := [p.toNat] }
  | .add64 d a b z | .sub64 d a b z | .mul64 d a b z => { st := z, rv := r2 a ++ r2 b, wv := r2 d }
  | .shl64 d a b z | .shr64 d a b z | .shra64 d a b z => { st := z, rv := r2 a ++ r1 b, wv := r2 d }
  | .icvt d a s z =>
    { st := z, rv := if icvtSrcWide s then r2 a else r1 a, wv := if icvtDstWide s then r2 d else r1 d }
  | .leaI32 _ d a b z | .leaN32 _ d a b z => { st := z, rv := r2 a ++ r1 b, wv := r2 d }
  | .sel p d a b z => { st := z, rv := r1 a ++ r1 b, wv := r1 d, rp := [p.toNat] }
  | .qnt d a _ z | .dqnt d a _ z | .had d a _ z => { st := z, rv := r1 a, wv := r1 d }
  | .fslot d _ _ z => { st := z, wv := r1 d }
  | .uniformAluReg op d a b z => uopUses z op d a (some b)
  | .uniformAluImm op d a _ z => uopUses z op d a none
  | .moviQ d _ z => { st := z, wq := x1 d }
  | .addQLi d a _ z => { st := z, rq := x1 a, wq := x1 d }
  | .moviI64 d _ z => { st := z, wq := xn d 2 }
  | .movVq d a z => { st := z, rq := x1 a, wv := x1 d }
  | .bra _ z | .call _ z | .ret z | .exit z | .nop z | .yield z | .qsync z => { st := z }
  | .brq _ q _ z => { st := z, rqp := [q.toNat] }
  | .brx a z | .callx a z => { st := z, rv := xn a 2 }
  | .plop d a b c _ z => { st := z, rp := [a.toNat, b.toNat, c.toNat], wp := [d.toNat] }
  | .qplop d a b c _ z => { st := z, rqp := [a.toNat, b.toNat, c.toNat], wqp := [d.toNat] }
  | .vote _ d a z => { st := z, rp := [a.toNat], wqp := [d.toNat] }
  | .ballot d a z => { st := z, rp := [a.toNat], wq := x1 d }
  | .lxch k d a b c _ z => { st := z, rv := x1 a ++ (if k = 0 then x1 b else []), wv := x1 d, wp := [c.toNat] }
  | .qred _ d a z => { st := z, rv := x1 a, wq := x1 d }
  | .qscan _ d a _ z => { st := z, rv := x1 a, wv := x1 d }
  | .match_ w d a z => { st := z, rv := if w then xn a 2 else x1 a, wv := x1 d }
  | .moviLi d _ z => { st := z, wv := x1 d }
  | .addLi d a _ z | .mulLi d a _ z | .andLi d a _ z | .orLi d a _ z | .xorLi d a _ z | .faddLi d a _ z
  | .fmulLi d a _ z => { st := z, rv := x1 a, wv := x1 d }
  | .madLi d a _ z | .ffmaLi d a _ z => { st := z, rv := x1 a ++ x1 d, wv := x1 d }
  | .isetI32Li p _ a _ z | .isetN32Li p _ a _ z | .fsetLi p _ a _ z => { st := z, rv := x1 a, wp := [p.toNat] }
  | .ld h m | .ldSh h m => { st := h.st, h := h, rv := xi m.b, rq := baseRegs m.space m.a, wv := xn m.d m.size.regs }
  | .st h m | .stSh h m => { st := h.st, h := h, rv := xi m.b ++ xn m.d m.size.regs, rq := baseRegs m.space m.a }
  | .ldq h m | .ldqSh h m => { st := h.st, h := h, rq := baseRegs m.space m.a ++ xi m.b, wq := xn m.d m.size.regs }
  | .stq h m | .stqSh h m => { st := h.st, h := h, rq := baseRegs m.space m.a ++ xi m.b ++ xn m.d m.size.regs }
  | .pref z _ sp _ a b _ => { st := z, rv := xi b, rq := baseRegs sp a }
  | .cmaint h _ sp a b _ => { st := h.st, h := h, rv := xi b, rq := baseRegs sp a }
  | .carve h a _ => { st := h.st, h := h, rq := x1 a }
  | .atom h m =>
    { st := h.st, h := h, rv := xi m.b ++ xn m.d (atomRegs m.w), rq := gkRegs m.k m.a, wv := xn m.d (atomRegs m.w) }
  | .cas h m =>
    { st := h.st, h := h, rv := xi m.b ++ xn m.d (2 * atomRegs m.w), rq := gkRegs m.k m.a, wv := xn m.d (atomRegs m.w) }
  | .red h m => { st := h.st, h := h, rv := xi m.b ++ xn m.d (atomRegs m.w), rq := gkRegs m.k m.a }
  | .atomq h m =>
    { st := h.st, h := h, rq := gkRegs m.k m.a ++ xi m.b ++ xn m.d (atomRegs m.w), wq := xn m.d (atomRegs m.w) }
  | .stamp h k rp n _ _ d a b =>
    { st := h.st, h := h, rv := xi b ++ xn d n.toNat, rq := gkRegs k a, wv := xn d (stampReply rp) }
  | .stampsync h _ _ => { st := h.st, h := h }
  | .nred h _ d a b c => { st := h.st, h := h, rq := xn a 2 ++ x1 b ++ x1 c, wq := x1 d }
  | .fence h _ _ => { st := h.st, h := h }
  | .bararv h f => { st := h.st, h := h, rq := f.num.rq, wv := x1 f.v }
  | .barwt h f => { st := h.st, h := h, rq := f.num.rq, rv := x1 f.v }
  | .barsyn h f => { st := h.st, h := h, rq := f.num.rq }
  | .gbar h k d a _ _ => { st := h.st, h := h, rv := if k = 1 then x1 a else [], wv := if k = 0 then x1 d else [] }
  | .stdef z a n => { st := z, rq := x1 a ++ n.rq }
  | .hacq h w a b => { st := h.st, h := h, rq := w.rq ++ x1 a ++ x1 b }
  | .hexp h w a => { st := h.st, h := h, rq := w.rq ++ x1 a }
  | .htake h w d => { st := h.st, h := h, rq := w.rq, wq := x1 d }
  | .hfree h w => { st := h.st, h := h, rq := w.rq }
  | .waitc h w _ k _ d a b =>
    { st := h.st, h := h, rq := gkRegs k a ++ xn b (if w then 2 else 1), wq := xn d (if w then 2 else 1) }
  | .mload h s _ _ a b => { st := h.st, h := h, rq := s.rq ++ x1 a ++ x1 b }
  | .mswap z s => { st := z, rq := s.rq }
  | .mstream h s _ _ _ a b c => { st := h.st, h := h, rq := s.rq ++ x1 a ++ x1 b ++ x1 c }
  | .mzero h s _ c => { st := h.st, h := h, rq := s.rq ++ x1 c }
  | .mfill h s sp _ a b c | .mdrain h s _ _ sp _ a b c =>
    { st := h.st, h := h, rq := s.rq ++ baseRegs sp a ++ x1 b ++ x1 c }
  | .mdrainv h s r _ d a => { st := h.st, h := h, rq := s.rq ++ x1 a, wv := xn d (8 * (1 <<< r.toNat)) }
  | .mopf z => { st := z }
  | .mwait h => { st := h.st, h := h }
  | .mstat h _ _ d => { st := h.st, h := h, wq := x1 d }
  | .cpdesc h _ a => { st := h.st, h := h, rq := xn a 2 }
  | .cpload h _ w d a => { st := h.st, h := h, rq := w.rq ++ x1 d ++ xn a 5 }
  | .cpstore h _ d a => { st := h.st, h := h, rq := x1 d ++ xn a 5 }
  | .cpgather h _ w d a b => { st := h.st, h := h, rq := w.rq ++ x1 d ++ x1 a ++ x1 b }
  | .cpmcast h _ w d a b => { st := h.st, h := h, rq := w.rq ++ x1 d ++ xn a 5 ++ x1 b }
  | .cpfill h w d a b => { st := h.st, h := h, rq := w.rq ++ x1 d ++ x1 a ++ x1 b }
  | .fetchw h w d => { st := h.st, h := h, rq := w.rq ++ x1 d }
  | .growg h d a => { st := h.st, h := h, rq := x1 a, wq := x1 d }
  | .spend h _ a => { st := h.st, h := h, rq := x1 a }
  | .bagnew h d a b c => { st := h.st, h := h, rq := xn a 2 ++ x1 b ++ x1 c, wq := x1 d }
  | .bagput h r d a b p => { st := h.st, h := h, rq := x1 a, rv := x1 b ++ xn d (recordRegs r), wp := [p.toNat] }
  | .bagcut h a => { st := h.st, h := h, rq := x1 a }
  | .bagcnt h all d a b => { st := h.st, h := h, rq := x1 a, rv := if all then [] else x1 b, wv := x1 d }
  | .bagmap h d a b => { st := h.st, h := h, rq := x1 a, rv := x1 b, wv := xn d 3 }
  | .bagdrn h a => { st := h.st, h := h, rq := x1 a }
  | .baggrow h a b => { st := h.st, h := h, rq := x1 a ++ x1 b }
  | .bagfree h a => { st := h.st, h := h, rq := x1 a }
  | .trap h _ | .svc h _ => { st := h.st, h := h }
  | .tret h => { st := h.st, h := h, rt := [17, 18, 19] }
  | .movs z w u d n =>
    let x : Uses := { st := z, flg := n == 8, rs := uqReg n, rt := tReg n }
    if u then { x with wq := xn d (if w then 2 else 1) } else { x with wv := xn d (if w then 2 else 1) }
  | .movsw z w u a n =>
    let x : Uses := { st := z, ws := uqReg n, rt := tReg n }
    if u then { x with rq := xn a (if w then 2 else 1) } else { x with rv := xn a (if w then 2 else 1) }
  | .brk z _ => { st := z }
  | .ctxsv h _ | .ctxld h _ => { st := h.st, h := h }
  | _ => {}

/-- R52: the opcodes that spine code may execute; MOVS with a q destination only. -/
def Instr.spineOk : Instr → Bool
  | .uniformAluReg .. | .uniformAluImm .. | .moviQ .. | .addQLi .. | .moviI64 .. | .bra .. | .brq .. | .call .. | .ret ..
  | .exit .. | .nop .. | .yield .. | .qplop .. | .ldq .. | .ldqSh .. | .stq .. | .stqSh .. | .fence .. | .hacq .. | .hexp ..
  | .htake .. | .hfree .. | .cpdesc .. | .cpload .. | .cpstore .. | .cpgather .. | .cpmcast .. | .cpfill .. | .fetchw ..
  | .growg .. | .spend .. | .trap .. | .brk .. => true
  | .movs _ _ uni _ _ => uni
  | _ => false

/-- Class 3: opcodes 0xD0 to 0xD7. -/
def Instr.isCopy : Instr → Bool
  | .cpdesc .. | .cpload .. | .cpstore .. | .cpgather .. | .cpmcast .. | .cpfill .. | .fetchw .. | .growg .. | .spend .. => true
  | _ => false

/-- Class 2: opcodes 0xC0 to 0xCF. -/
def Instr.isMatrix : Instr → Bool
  | .mload .. | .mswap .. | .mstream .. | .mzero .. | .mfill .. | .mdrain .. | .mdrainv .. | .mopf .. | .mwait .. | .mstat .. => true
  | _ => false

/-- Privileged instructions (R364, Table 15.5). -/
def Instr.privileged : Instr → Bool
  | .tret .. | .ctxsv .. | .ctxld .. => true
  | .movsw _ _ _ _ n => n != 8
  | _ => false

/-- EXIT (0x95). -/
def Instr.isExit : Instr → Bool | .exit _ => true | _ => false

/-- Memory operations, held by an acquire or a FENCE of the thread (R179, R255); copy commands and handle instructions
count in spine code. -/
def Instr.isMemory (spine : Bool) : Instr → Bool
  | .ld .. | .ldSh .. | .st .. | .stSh .. | .ldq .. | .ldqSh .. | .stq .. | .stqSh .. | .cmaint .. | .pref .. | .atom ..
  | .cas .. | .red .. | .atomq .. | .stamp .. | .nred .. | .waitc .. | .fence .. | .stampsync .. | .bagnew .. | .bagput ..
  | .bagcut .. | .bagcnt .. | .bagmap .. | .bagdrn .. | .baggrow .. | .bagfree .. | .bararv .. | .barsyn .. | .gbar .. | .carve .. => true
  | .hacq .. | .hexp .. | .htake .. | .hfree .. => spine
  | i => spine && i.isCopy

end Sys2Proof

namespace Sys2Proof.Machine

/-- A gathering that is not there. -/
def Gath.absent : Gath := { core := 0, ip := 0, hdr := 0, header := 0, words := [], pos := 0, members := [] }

/-- The format slot of a quire's grid (R155). -/
def State.slot (s : State) (q n : Nat) : Slot := (s.recordQ q).slots.getD n { w0 := 0, seed := 0 }

/-- A register block of k registers at base n passes v127 (R159). -/
def blockOver (n k : Nat) : Bool := decide (n + k > 128)

/-- Registers that a block takes under a slot: packed words with their scale code. -/
def Slot.packedRegs (sl : Slot) : Nat := sl.blockWords + (if sl.bscale = .none then 0 else 1)

/-- What an instruction of a quire reads and writes, the blocks of a format slot written out (R159). -/
def State.usesOf (s : State) (q : Nat) (i : Instr) : Uses :=
  match i with
  | .qnt d a sl _ => { i.uses with rv := span a.toNat (s.slot q sl.toNat).blockSize, wv := span d.toNat (s.slot q sl.toNat).packedRegs }
  | .dqnt d a sl _ => { i.uses with rv := span a.toNat (s.slot q sl.toNat).packedRegs, wv := span d.toNat (s.slot q sl.toNat).blockSize }
  | .had d a sl _ => { i.uses with rv := span a.toNat (s.slot q sl.toNat).points, wv := span d.toNat (s.slot q sl.toNat).points }
  | i => i.uses

/-- Decode faults that depend on the machine: an unbound slot or a slot without Hadamard size (R157), a block past v127
(R159), GBAR in a grid that is not co-resident (R243). -/
def State.illop (s : State) (q : Nat) : Instr → Bool
  | .qnt d a sl _ => let f := s.slot q sl.toNat
    !f.bound || blockOver a.toNat f.blockSize || blockOver d.toNat f.packedRegs
  | .dqnt d a sl _ => let f := s.slot q sl.toNat
    !f.bound || blockOver d.toNat f.blockSize || blockOver a.toNat f.packedRegs
  | .had d a sl _ => let f := s.slot q sl.toNat
    !f.bound || f.points == 0 || blockOver a.toNat f.points || blockOver d.toNat f.points
  | .mload _ _ _ sl _ _ => !(s.slot q sl.toNat).bound
  | .mstream _ _ _ sl _ _ _ _ => !(s.slot q sl.toNat).bound
  | .gbar .. => !(s.recordQ q).cor
  | _ => false

/-- R35: ports that a quire, or the spine, may pop. -/
def popOk (spine : Bool) (n : Nat) : Bool := n ≥ 162 || (if spine then n == 161 else n == 160)
/-- R35: ports that a quire, or the spine, may push. -/
def pushOk (spine : Bool) (n : Nat) : Bool := n ≥ 162 || (if spine then n == 160 else n == 161)

/-- A port's queue. -/
def Team.queue (t : Team) (n : Nat) : List PortWord := t.queues.getD (n - 160) []

/-- A spine has ended: its thread has retired. -/
def State.spineEnded (s : State) (team : Nat) : Bool := !(s.thread ⟨(s.team team).spine, 0⟩).live
/-- Every quire of a team has retired. -/
def State.quiresRetired (s : State) (team : Nat) : Bool := (s.teamLive team).isEmpty

/-- R252: a pop that could never succeed. -/
def State.portDead (s : State) (team : Nat) (spine : Bool) (n : Nat) : Bool :=
  ((s.team team).queue n).isEmpty && (if spine then n == 161 && s.quiresRetired team else n == 160 && s.spineEnded team)

/-- The ports among register numbers. -/
def portsOf (ns : List Nat) : List Nat := ns.filter (fun n => decide (160 ≤ n))

/-- R54 items 2 to 5 for a decoded instruction: ILLOP, ROLE, PORT, PRIV; none when it may go on. -/
def State.preFault (s : State) (i : Instr) (q : Nat) (hand : Bool) : Option TrapCode :=
  let qu := s.quire q
  let spine := qu.role == .spine
  let u := i.uses
  if s.illop q i then some .illop
  else if (spine && !i.spineOk) || (!spine && i.isCopy) || (qu.role == .vector && i.isMatrix) then some .role
  else if (portsOf u.rq).any (fun n => !popOk spine n || s.portDead qu.team spine n) ||
      (portsOf u.wq).any (fun n => !pushOk spine n) then some .port
  else if i.privileged && !hand then some .priv
  else none

/-- Every port that the instruction names is ready (R251). -/
def State.portsReady (s : State) (team : Nat) (u : Uses) : Bool :=
  (portsOf u.rq).all (fun n => !((s.team team).queue n).isEmpty) &&
  (portsOf u.wq).all (fun n => ((s.team team).queue n).length < 64)

/-- What a meaning knows of the issue: the gathering and its index, the threads whose governing value is true, the quire of
the first of them, handler mode, the issue clock, the instruction's words and counter, and a soft error that it meets. -/
structure Ctx where
  gi     : Nat
  g      : Gath
  takers : List ThreadId
  q      : Nat
  hand   : Bool
  now    : Nat
  size   : Nat
  ctr    : Option Nat
  chk    : Bool
  upset  : Option Bool
  deriving DecidableEq, Repr

/-- Word of the instruction after this one. -/
def Ctx.next (c : Ctx) : Nat := c.g.pos + c.size

/-- The threads of a gathering that execute its clause (R28). -/
def State.takersOf (s : State) (g : Gath) : List ThreadId :=
  g.members.filter (fun t => (s.thread t).gov && (s.thread t).stat == .gathered)

/-- A clock at which no checked result that is readable but not yet written stands in the way (R107). -/
def clearHold (pend : List Pend) (r : RegId) (t : Nat) : Nat :=
  pend.foldl (fun n p => if p.reg = r ∧ p.at_ ≤ t ∧ t < p.hold then max n p.hold else n) t

/-- R38: a uniform register written by another gathering is not read or written before it is readable. -/
def clearUniform (pend : List Pend) (r : RegId) (lanes : List Nat) (t : Nat) : Nat :=
  pend.foldl (fun n p => if p.reg = r ∧ (lanes.all (fun l => p.lanes.contains l) = false ∨ p.at_ ≤ t) ∧ t < p.hold then max n p.hold else n) t

/-- A clock at which no checked change of `%flags` that R37 admits and that is not yet made stands in the way (R107). -/
def clearFlagHold (fset : List FlagEv) (t : Nat) : Nat :=
  fset.foldl (fun n f => if f.at_ ≤ t ∧ t < f.hold then max n f.hold else n) t

/-- R251: an access of a core's issue partition to a port comes after those of its clock that stand before it, and a pop after
the clock of its push. What cores do in one clock has no order but that of the steps (log entry 95). -/
def Team.portClock (t : Team) (u : Uses) (core ip now : Nat) : Nat :=
  (portsOf (u.rq ++ u.wq)).foldl (fun c n =>
    let l := t.lastPort.getD (n - 160) (0, 0, 0)
    let c := if l.1 = core ∧ l.2.1 = c ∧ ip ≤ l.2.2 then c + 1 else c
    match if u.rq.contains n then (t.queue n).head? else none with
    | some w => if w.core = core ∧ c ≤ w.clock then w.clock + 1 else c
    | none => c) now

/-- The earliest issue clock (R37, R38, R80, R107). -/
def State.earliest (s : State) (u : Uses) (g : Gath) (takers : List ThreadId) (q : Nat) (hand : Bool) : Nat :=
  let k := s.core g.core
  let t0 := takers.foldl (fun n t => max n (s.thread t).tNext) (max k.clock (k.slots.getD g.ip 0))
  let t1 := takers.foldl (fun n t =>
    let th := s.thread t
    let n := (u.rv ++ u.wv).foldl (fun n r => clearHold th.pend (.v r) n) n
    (u.rp ++ u.wp).foldl (fun n r => clearHold th.pend (.p r) n) n) t0
  let lanes := takers.map (·.lane)
  let qu := s.quire q
  let t2 := ((u.rq ++ u.wq).map (qName hand) ++ u.rs ++ u.ws).foldl (fun n r => clearUniform qu.pend (.q r) lanes n) t1
  let t3 := (u.rqp ++ u.wqp).foldl (fun n r => clearUniform qu.pend (.qp r) lanes n) t2
  let t4 := if u.flg then takers.foldl (fun n t => clearFlagHold (s.quire t.quire).fset n) t3 else t3
  (s.team qu.team).portClock u g.core g.ip t4

/-- A register with a result not yet readable or a write pending, as the checker of R42 sees it. -/
def notReady (now : Nat) (pend : List Pend) (busy : List Busy) (r : RegId) : Bool :=
  pend.any (fun p => p.reg == r && decide (now < p.at_)) || busy.any (fun b => b.reg == r)

/-- R42: the instruction would read or write such a register for a thread, a T register that a MOVSW still writes (R375) among them;
registers at or above REGS are not tracked (R16). -/
def State.stallShort (s : State) (u : Uses) (q : Nat) (hand : Bool) (now : Nat) (t : ThreadId) : Bool :=
  let th := s.thread t
  let qu := s.quire q
  (u.rv ++ u.wv).any (fun r => decide (r < th.v.length) && notReady now th.pend th.busy (.v r)) ||
  (u.rp ++ u.wp).any (fun r => notReady now th.pend th.busy (.p r)) ||
  ((u.rq ++ u.wq).map (qName hand) ++ u.rs ++ u.ws).any (fun r => notReady now qu.pend qu.busy (.q r)) ||
  (u.rqp ++ u.wqp).any (fun r => notReady now qu.pend qu.busy (.qp r)) ||
  u.rt.any (fun r => th.tset.any (fun w => w.reg == r && decide (now < w.at_)))

/-- R42: the checking scoreboard is on for a thread: STRICT of the grid, or its debug bit. -/
def State.checker (s : State) (now : Nat) (t : ThreadId) : Bool := (s.recordQ t.quire).strict || ((s.thread t).settleT now).dbg

/-- R179, R255: a thread's acquire or FENCE, or the release of a BARARV (R241), has not completed, so no later memory operation
issues. A barrier or WAITC parks its thread until its own acquire is over. -/
def State.memHeld (s : State) (t : ThreadId) : Bool :=
  s.ops.any (fun o => o.threads.contains t && (match o.kind with
    | .fence _ => true
    | .barrier .. => o.phase == .relWait
    | .carve .. | .waitc | .context .. => false
    | _ => o.acq != .none))

/-- R304: a thread's MWAIT has not completed, so no later memory or matrix instruction issues. -/
def State.mwaitHeld (s : State) (t : ThreadId) : Bool := s.ops.any (fun o => o.threads.contains t && o.kind == .mwait)

/-- A thread's FENCE has not completed. -/
def State.fenceHeld (s : State) (t : ThreadId) : Bool :=
  s.ops.any (fun o => o.threads.contains t && (match o.kind with | .fence _ => true | _ => false))

/-- R39, R179, R213, R255, R304: the instruction does not issue now. A FENCE completes before an EXIT that follows it (log entry
105). -/
def State.mustWait (s : State) (i : Instr) (u : Uses) (spine : Bool) (takers : List ThreadId) : Bool :=
  (i.isExit && takers.any s.fenceHeld) ||
  (match u.h with | some h => h.seten && takers.any (fun t => (s.thread t).ctr h.setd.toNat == 63) | none => false) ||
  (i.isMemory spine && (s.fabric.busy || takers.any s.memHeld)) ||
  ((i.isMemory spine || i.isMatrix) && takers.any s.mwaitHeld)

/-- What an issue comes to: the instruction has issued, or it stays and is tried again. -/
inductive Res where
  | done (s : State)
  | stay (s : State)

/-- Threads of a gathering trap with the current instruction as trapping instruction. -/
def State.trapAt (s : State) (g : Gath) (ts : List ThreadId) (tr : Trap) : State :=
  ts.foldl (fun s t => s.raiseAt t g.hdr g.pos tr) s

/-- Park threads; they stand at word `pos` of their clause, or at the next clause when the clause is over. -/
def State.parkAt (s : State) (g : Gath) (ts : List ThreadId) (pos : Nat) (w : Wait) : State :=
  let past := decide (g.words.length < pos)
  let h : Addr := if past then g.hdr + BitVec.ofNat 48 (4 * (g.words.length + 1)) else g.hdr
  s.modThreads ts (fun _ th => { th with stat := .parked w, hdr := h, pos := if past then 0 else pos })

/-- The address of the clause after a gathering's clause (R26). -/
def Gath.nextHdr (g : Gath) : Addr := g.hdr + BitVec.ofNat 48 (4 * (g.words.length + 1))

/-- The clause is over, or nobody is left in it: its threads fall through to the next clause (R30). -/
def State.endClause (s : State) (gi : Nat) : State :=
  let g := s.gaths.getD gi Gath.absent
  let rest := g.members.filter (fun t => (s.thread t).stat == .gathered)
  { s.modThreads rest (fun _ th => { th with stat := .ready, hdr := g.nextHdr, pos := 0, gov := true }) with
    gaths := s.gaths.eraseIdx gi }

/-- A thread still belongs to the gathering that holds it: gathered, or parked within the clause. -/
def Thread.inGath (th : Thread) : Bool := match th.stat with | .gathered | .parked _ => true | _ => false

/-- Threads that no longer stand in the gathering leave it; an empty gathering, or one past its clause, ends. -/
def State.settleGath (s : State) (gi : Nat) : State :=
  let g := s.gaths.getD gi Gath.absent
  let rest := g.members.filter (fun t => (s.thread t).inGath)
  let s := { s with gaths := s.gaths.set gi { g with members := rest } }
  if rest.isEmpty || decide (g.words.length < g.pos) then s.endClause gi else s

/-- After the instruction: clocks (R37, R80, R107), also for the threads of the gathering that execute nothing (R102), and the
gathering's next word. -/
def State.advance (s : State) (u : Uses) (c : Ctx) (extra : Nat) : State :=
  let slots := 1 + (if c.chk then 1 else 0) + (if c.upset.isSome then 1 else 0)
  let tn := c.now + slots + u.st.toNat + extra
  let s := s.modCore c.g.core (fun k => { k with
    clock := c.now, slots := k.slots.set c.g.ip (c.now + slots), spineLast := if c.g.ip = 8 then c.q else k.spineLast })
  let s := s.modThreads c.g.members (fun _ th => { th with tNext := max th.tNext tn })
  let g := s.gaths.getD c.gi Gath.absent
  { s with gaths := s.gaths.set c.gi { g with pos := c.next } }.settleGath c.gi

/-- A soft error that the step meets (log entry 4). -/
def State.upsetNow (s : State) : Option Bool := (s.upsets.find? (fun u => u.at_ == s.tick)).map (·.minor)

/-- Issue an instruction whose checks have passed; `alu` marks the instructions that checked execution repeats (R107), and
`extra` is the delay of a control transfer (R102). A gathering without a taking thread executes nothing (R28). -/
def State.issueGo (s : State) (i : Instr) (alu : Bool) (extra : Nat) (body : Ctx → State → Res) (cur : Cur) (g : Gath)
    (takers : List ThreadId) (q : Nat) (hand : Bool) : State :=
  let u := s.usesOf q i
  let qu := s.quire q
  let chk := alu && (s.grid (s.gridOf q)).chk
  let now := s.earliest u g takers q hand + cur.wait
  if s.mustWait i u (qu.role == .spine) takers then s
  else
    let bad := takers.filter (fun t => s.checker now t && s.stallShort u q hand now t)
    let s := s.trapAt g bad { code := .stallShort }
    let takers := takers.filter (fun t => !bad.contains t)
    if takers.isEmpty then s.settleGath cur.gath
    else if !s.portsReady qu.team u then s.parkAt g takers g.pos .port
    else
      let c : Ctx := { gi := cur.gath, g := g, takers := takers, q := q, hand := hand, now := now, size := cur.size,
                       ctr := u.h.bind (fun h => if h.seten then some h.setd.toNat else none), chk := chk,
                       upset := if chk then s.upsetNow else none }
      match body c s with
      | .stay s => s
      | .done s => s.advance u c extra

/-- The state after the current instruction of gathering `cur.gath` is taken up: the checks of R54 in order, for the threads of
each quire by its own role and state, then issue for those that pass. -/
def State.issueAt (s : State) (i : Instr) (alu : Bool) (extra : Nat) (body : Ctx → State → Res) (cur : Cur) : State :=
  let g := s.gaths.getD cur.gath Gath.absent
  let fault := fun (t : ThreadId) => s.preFault i t.quire (s.thread t).hand
  let takers := s.takersOf g
  let bad := takers.filter (fun t => (fault t).isSome)
  let s' := bad.foldl (fun s' t => match fault t with | some code => s'.trapAt g [t] { code := code } | none => s') s
  match takers.filter (fun t => (fault t).isNone) with
  | [] => if takers.isEmpty then s.endClause cur.gath else s'.settleGath cur.gath
  | t0 :: ts => s'.issueGo i alu extra body cur g (t0 :: ts) t0.quire (s.thread t0).hand

/-- Issue an instruction of the gathering that has the turn. -/
def issueWith (i : Instr) (alu : Bool) (extra : Nat) (body : Ctx → State → Res) (s : State) : Host.Outcome State Fault Refusal :=
  match s.cur with
  | none => .fault .noGathering
  | some cur => .next (s.issueAt i alu extra body cur)

/-- An instruction outside the pipes of checked execution. -/
def issue (i : Instr) (body : Ctx → State → Res) (s : State) : Host.Outcome State Fault Refusal := issueWith i false 0 body s

/-- A step of another agent: it answers a next state, the same one when its conditions do not hold. -/
def event (f : State → State) (s : State) : Host.Outcome State Fault Refusal := .next (f s)

/-! ### Fixed-latency results -/

/-- The timing of a fixed-latency result of latency L (R37, R107, R108). -/
def Ctx.timing (c : Ctx) (lat : Nat) : Timing :=
  { at_ := c.now + lat,
    hold := if c.upset.isSome then c.now + 2 * lat + 4 else if c.chk then c.now + lat + 2 else c.now + lat,
    lanes := c.takers.map (·.lane) }

/-- What a vector instruction writes for one thread: registers, predicates, flags. -/
structure VOut where
  writes : List (Nat × Word) := []
  preds  : List (Nat × Bool) := []
  flags  : Flags := 0
  deriving DecidableEq, Repr

/-- A pair of registers with a 64-bit value (R5). -/
def pairWrites (n : Nat) (w : DWord) : List (Nat × Word) := [(n, w.setWidth 32), (n + 1, (w >>> 32).setWidth 32)]

/-- One thread writes its results. -/
def Thread.apply (c : Ctx) (lat : Nat) (o : VOut) (th : Thread) : Thread :=
  let th := o.writes.foldl (fun th w => th.writeV c.now (c.timing lat) w.1 w.2) th
  o.preds.foldl (fun th w => th.writeP c.now (c.timing lat) w.1 w.2) th

/-- The quires of a list of threads. -/
def quiresOf (ts : List ThreadId) : List Nat := (ts.map (·.quire)).eraseDups

/-- R108: a checked instruction that took the majority sets CHK in the quires' flags, and counts at the core (R389). An upset
names no thread: in a gathering of several quires CHK is set for each of them (log entry 4). -/
def State.noteMajority (s : State) (c : Ctx) (lat : Nat) : State :=
  let s := (quiresOf c.takers).foldl (fun s q => s.modQuire q (Quire.addFlags c.now (c.timing lat) fCHK)) s
  s.modCore c.g.core (fun k => { k with chkCount := k.chkCount + 1, quar := k.quar || decide (k.chkCount + 1 ≥ 64) })

/-- R108: with no majority nothing is written and the gang is killed with cause CHECK, and the core is quarantined (R389). An
upset names no thread: in a gathering of several gangs each of them is killed (log entry 4). -/
def State.noMajority (s : State) (c : Ctx) : State :=
  (s.modCore c.g.core (fun k => { k with quar := true })).trapAt c.g c.takers { code := .check }

/-- R107, R108 for an instruction that is no ALU operation: the majority or its failure, around its one effect (R223). -/
def checkedBody (lat : Nat) (body : Ctx → State → Res) (c : Ctx) (s : State) : Res :=
  match c.upset with
  | some false => .done (s.noMajority c)
  | u => match body c s with
    | .stay s => .stay s
    | .done s => .done (if u.isSome then s.noteMajority c lat else s)

/-- R9, R106: a vector instruction of latency L: each taking thread writes what `f` gives for it, from the state before. -/
def vecWrite (lat : Nat) (f : Ctx → State → ThreadId → VOut) (c : Ctx) (s : State) : State :=
  match c.upset with
  | some false => s.noMajority c
  | u =>
    let s1 := s.modThreads c.takers (fun t th => th.apply c lat (f c s t))
    let s2 := c.takers.foldl (fun s' t => s'.modQuire t.quire (Quire.addFlags c.now (c.timing lat) (f c s t).flags)) s1
    if u.isSome then s2.noteMajority c lat else s2

/-- A vector ALU instruction. -/
def vecIssue (i : Instr) (lat : Nat) (f : Ctx → State → ThreadId → VOut) (s : State) : Host.Outcome State Fault Refusal :=
  issueWith i true 0 (fun c s => .done (vecWrite lat f c s)) s

/-- What a uniform instruction writes: registers or ports, predicates, flags. -/
structure QOut where
  writes : List (Nat × Word) := []
  preds  : List (Nat × Bool) := []
  flags  : Flags := 0
  deriving DecidableEq, Repr

/-- The value of a q register or of the port it names (R35). -/
def State.readQPort (s : State) (c : Ctx) (n : Nat) : Word :=
  if n < 160 then s.readQ c.now c.hand c.q n else (((s.team (s.quire c.q).team).queue n).head?.map (·.word)).getD 0

/-- R35: the ports read give up one word each. -/
def State.popPorts (s : State) (c : Ctx) (ns : List Nat) : State :=
  (portsOf ns).foldl (fun s n => s.modTeam (s.quire c.q).team (fun t => { t with
    queues := t.queues.modify (n - 160) List.tail, lastPort := t.lastPort.set (n - 160) (c.g.core, c.now, c.g.ip) })) s

/-- Write a q register, or push to a port. -/
def State.writeQPort (s : State) (c : Ctx) (tm : Timing) (n : Nat) (w : Word) : State :=
  if n < 160 then s.modQuire c.q (Quire.writeQ c.now tm c.hand n w)
  else s.modTeam (s.quire c.q).team (fun t => { t with
    queues := t.queues.modify (n - 160) (· ++ [{ word := w, core := c.g.core, clock := c.now }]),
    lastPort := t.lastPort.set (n - 160) (c.g.core, c.now, c.g.ip) })

/-- R251: what a pop adds to the latency of its instruction: 16 clocks from another core than the team's lowest, which holds its
queues (Table 10.1). -/
def State.portDelay (s : State) (c : Ctx) (ns : List Nat) : Nat :=
  if (portsOf ns).isEmpty || (s.team (s.quire c.q).team).cores.headD c.g.core == c.g.core then 0 else 16

/-- R9: a uniform instruction of latency L executes once for the gathering. -/
def uniWrite (i : Instr) (lat0 : Nat) (f : Ctx → State → QOut) (c : Ctx) (s : State) : State :=
  match c.upset with
  | some false => s.noMajority c
  | u =>
    let o := f c s
    let lat := lat0 + s.portDelay c i.uses.rq
    let s1 := s.popPorts c i.uses.rq
    let s2 := o.writes.foldl (fun s' w => s'.writeQPort c (c.timing lat) w.1 w.2) s1
    let s3 := s2.modQuire c.q (fun q => (o.preds.foldl (fun q w => q.writeQp c.now (c.timing lat) w.1 w.2) q).addFlags c.now (c.timing lat) o.flags)
    if u.isSome then s3.noteMajority c lat else s3

/-- A uniform ALU instruction. -/
def uniIssue (i : Instr) (lat : Nat) (f : Ctx → State → QOut) (s : State) : Host.Outcome State Fault Refusal :=
  issueWith i true 0 (fun c s => .done (uniWrite i lat f c s)) s

/-! ### Operand forms of the integer and float instructions -/

/-- A vector source operand: one register, a pair (R5), or a long immediate (R112). -/
inductive Src where
  | one (n : Nat) | two (n : Nat) | imm (w : Word) | none
  deriving DecidableEq, Repr

/-- The value of a vector source as a thread reads it, zero-extended to 64 bits. -/
def State.src (s : State) (now : Nat) (t : ThreadId) : Src → DWord
  | .one n => (s.readV now t n).setWidth 64
  | .two n => pairOf (s.readV now t n) (s.readV now t (n + 1))
  | .imm w => w.setWidth 64
  | .none => 0

/-- A vector destination: one register, a pair, or a predicate. -/
inductive Dst where
  | one (n : Nat) | two (n : Nat) | pred (n : Nat)
  deriving DecidableEq, Repr

/-- D read as the third source of a destructive form. -/
def Dst.src : Dst → Src | .one n => .one n | .two n => .two n | .pred _ => .none

/-- The registers that a result goes to. -/
def Dst.writes (d : Dst) (o : IntOut) : List (Nat × Word) :=
  match d with
  | .one n => [(n, o.val.setWidth 32)]
  | .two n => pairWrites n o.val
  | .pred _ => []
/-- The predicates that a result goes to; `p` is where a carry goes. -/
def Dst.preds (d : Dst) (p : Option Nat) (o : IntOut) : List (Nat × Bool) :=
  match o.pred, d, p with
  | some b, .pred n, _ => [(n, b)]
  | some b, _, some n => [(n, b)]
  | _, _, _ => []

/-- R114 to R124: a vector integer instruction. `rd` says that it reads D; `cin` names the predicate it reads and `cout`
the one a carry is written to. -/
def vecInt (i : Instr) (lat : Nat) (op : IntIn → IntOut) (d : Dst) (a b : Src) (rd : Bool) (cin cout : Option Nat)
    (s : State) : Host.Outcome State Fault Refusal :=
  vecIssue i lat (fun c s t =>
    let o := op { a := s.src c.now t a, b := s.src c.now t b, d := if rd then s.src c.now t d.src else 0,
                  cin := match cin with | some n => s.readP c.now t n | none => false }
    { writes := d.writes o, preds := d.preds cout o, flags := o.flags }) s

/-- D := op(A, B) on single registers. -/
def vec3 (i : Instr) (lat : Nat) (op : IntIn → IntOut) (d a b : Reg7) (s : State) : Host.Outcome State Fault Refusal :=
  vecInt i lat op (.one d.toNat) (.one a.toNat) (.one b.toNat) false none none s
/-- D := op(A, B, D) on single registers. -/
def vec3d (i : Instr) (lat : Nat) (op : IntIn → IntOut) (d a b : Reg7) (s : State) : Host.Outcome State Fault Refusal :=
  vecInt i lat op (.one d.toNat) (.one a.toNat) (.one b.toNat) true none none s
/-- D := op(A). -/
def vec2 (i : Instr) (lat : Nat) (op : IntIn → IntOut) (d a : Reg7) (s : State) : Host.Outcome State Fault Refusal :=
  vecInt i lat op (.one d.toNat) (.one a.toNat) .none false none none s

/-- A binary32 operation of A, B and D as a vector operation. -/
def fop (f : Word → Word → Word → Word × Flags) (x : IntIn) : IntOut :=
  let r := f x.a32 x.b32 x.d32
  { val := r.1.setWidth 64, flags := r.2 }

/-- The values of k consecutive v registers of a thread. -/
def State.blockV (s : State) (now : Nat) (t : ThreadId) (n k : Nat) : List Word :=
  (List.range k).map (fun i => s.readV now t (n + i))

/-- R159, R167: an instruction over register blocks: `f` gives the words of D's block, `lat` the latency of Table 7.8. -/
def vecBlock (i : Instr) (lat : Ctx → State → Nat) (f : Ctx → State → ThreadId → List Word × Flags) (d : Nat) (s : State) :
    Host.Outcome State Fault Refusal :=
  issueWith i true 0 (fun c s => .done (vecWrite (lat c s) (fun c s t =>
    let r := f c s t
    { writes := (List.range r.1.length).map (fun k => (d + k, r.1.getD k 0)), flags := r.2 }) c s)) s

end Sys2Proof.Machine
end

