-- ==== Sys2Proof/Machine/Access.lean ====
section
/-! DEFINITION. Addresses of the five spaces and their checks (R169 to R175, R195), what a request does at its core (R176
to R181), and the meanings of the access instructions (chapter 08). -/

namespace Sys2Proof.Machine

/-- Consecutive bytes of an access: `off` within the access's data; the virtual address of a translated one. -/
structure Chunk where
  place : Place
  off   : Nat
  size  : Nat
  va    : Option Nat := none
  deriving DecidableEq, Repr

/-- Outcome of forming and checking an address. -/
inductive Check where
  | ok (ps : List Chunk)
  | trap (tr : Trap)
  | miss (root va : Nat)
  deriving DecidableEq, Repr

/-- Bytes that a size moves. -/
def sizeBytes : Size → Nat | .n8 | .i8 => 1 | .n16 | .i16 => 2 | .w32 => 4 | .w64 => 8 | .x4 => 16

/-- R170: the virtual address of private offset o of a thread. -/
def State.privVa (s : State) (t : ThreadId) (o : Int) : Nat :=
  let q := s.quire t.quire
  let r := s.recordQ t.quire
  let ps := ((s.team q.team).ps.getD 0)
  let a : Int := (r.privBase : Int) + (ps * r.quires + q.qid) * 32 * r.privLim + (o / 4) * 128 + t.lane * 4 + o % 4
  (a % (2 ^ 48 : Int)).toNat

/-- The key of a scratch byte: rank of the core within the team, and offset. -/
def scratchKey (rank off : Nat) : Nat := rank * 2 ^ 24 + off

/-- Translate one range of physical bytes. -/
def State.checkG (s : State) (t : ThreadId) (kind : AccKind) (va n : Nat) : Check :=
  let q := s.quire t.quire
  match s.translate q.team q.core q.ip (s.thread t).hand kind va n with
  | .ok pa _ => .ok [{ place := .g pa, off := 0, size := n, va := some va }]
  | .trap tr => .trap tr
  | .miss root va => .miss root va

/-- Two checks in order: the first fault found is raised (R195). -/
def Check.and (x y : Check) : Check :=
  match x, y with
  | .ok ps, .ok qs => .ok (ps ++ qs)
  | .ok _, y => y
  | x, _ => x

/-- Shift the data offsets of a check. -/
def Check.shift (x : Check) (d : Nat) : Check :=
  match x with | .ok ps => .ok (ps.map (fun p => { p with off := p.off + d })) | x => x

/-- R171: a private access of n bytes at offset o, word by word. -/
def State.checkP (s : State) (t : ThreadId) (kind : AccKind) (o : Int) (n : Nat) : Check :=
  let lim := (s.recordQ t.quire).privLim
  if o < 0 ∨ o + n > lim then .trap { code := .privlim, addr := s.privVa t o }
  else if n ≤ 4 then s.checkG t kind (s.privVa t o) n
  else (List.range (n / 4)).foldl (fun c i => c.and ((s.checkG t kind (s.privVa t (o + (4 * i : Nat))) 4).shift (4 * i))) (.ok [])

/-- R172: core scratch of the thread's team on its core. -/
def State.checkS (s : State) (t : ThreadId) (o : Int) (n : Nat) : Check :=
  let q := s.quire t.quire
  let tm := s.team q.team
  if o < 0 ∨ o + n > tm.allot * 65536 then .trap { code := .space, addr := (o % (2 ^ 64 : Int)).toNat }
  else .ok [{ place := .scratch q.team (scratchKey (tm.cores.idxOf q.core) o.toNat), off := 0, size := n }]

/-- R173: cluster memory, Table 8.2. -/
def State.checkC (s : State) (t : ThreadId) (a : Int) (n : Nat) : Check :=
  let q := s.quire t.quire
  let bad : Check := .trap { code := .space, addr := (a % (2 ^ 64 : Int)).toNat }
  if a < 0 ∨ a ≥ (2 ^ 30 : Int) then bad
  else
    let x := a.toNat
    let off := x % 2 ^ 24
    let phys := q.core / 8 * 8 + x / 2 ^ 24 % 8
    match (s.gang (s.team q.team).gang).teams[x / 2 ^ 27 % 8]? with
    | none => bad
    | some ti =>
      let tm := s.team ti
      if tm.ended || !tm.cores.contains phys || decide (off + n > tm.allot * 65536) then bad
      else .ok [{ place := .scratch ti (scratchKey (tm.cores.idxOf phys) off), off := 0, size := n }]

/-- R174: chip scratch, the grid's window. -/
def State.checkK (s : State) (t : ThreadId) (o : Int) (n : Nat) : Check :=
  let r := s.recordQ t.quire
  if o < 0 ∨ o + n > r.ksize then .trap { code := .space, addr := (o % (2 ^ 64 : Int)).toNat }
  else .ok [{ place := .k (r.kbase + o.toNat), off := 0, size := n }]

/-- The address that a trap record shows: virtual for `.g` and `.p`, else the offset (R367). -/
def State.faultAddr (s : State) (t : ThreadId) (space : Space) (ea : Int) : Nat :=
  match space with
  | .g => (ea % (2 ^ 48 : Int)).toNat
  | .p => s.privVa t ea
  | _ => (ea % (2 ^ 64 : Int)).toNat

/-- R195: alignment, extent, translation, in order. -/
def State.checkAccess (s : State) (t : ThreadId) (kind : AccKind) (space : Space) (ea : Int) (align n : Nat) : Check :=
  if ea % (align : Int) ≠ 0 then .trap { code := .align, addr := s.faultAddr t space ea }
  else match space with
    | .p => s.checkP t kind ea n
    | .s => s.checkS t ea n
    | .c => s.checkC t ea n
    | .k => s.checkK t ea n
    | .g => s.checkG t kind (ea % (2 ^ 48 : Int)).toNat n

/-- The base of a memory access (R48, R195). -/
def State.baseOf (s : State) (c : Ctx) (space : Space) (a : Reg8) : Int :=
  if a = 0xFF#8 then 0
  else match space with
    | .g => ((s.readQ c.now c.hand c.q (a.toNat + 1)).toNat % 2 ^ 16 * 2 ^ 32 + (s.readQ c.now c.hand c.q a.toNat).toNat : Nat)
    | _ => ((s.readQ c.now c.hand c.q a.toNat).toNat : Nat)

/-- The signed index from a v register. -/
def State.vIdx (s : State) (c : Ctx) (t : ThreadId) (b : Reg8) : Int := if b = 0xFF#8 then 0 else (s.readV c.now t b.toNat).toInt
/-- The signed index from a q register. -/
def State.qIdx (s : State) (c : Ctx) (b : Reg8) : Int := if b = 0xFF#8 then 0 else (s.readQ c.now c.hand c.q b.toNat).toInt

/-- Keys that tell lines apart for same-line order. -/
def Place.key : Place → Nat
  | .g pa => pa / 128 * 4
  | .k c => c / 128 * 4 + 1
  | .scratch team key => (team * 2 ^ 27 + key) / 128 * 4 + 2

/-- One thread's checked access. -/
structure Target where
  thread : ThreadId
  chunks : List Chunk
  deriving DecidableEq, Repr

/-- The checks of every thread of an issue: those that go on, those that trap, those that need a walk. -/
structure Checked where
  go     : List Target
  traps  : List (ThreadId × Trap)
  misses : List (ThreadId × Nat × Nat)
  deriving DecidableEq, Repr

/-- Sort the outcomes of a check per thread. -/
def checkAll (ts : List ThreadId) (f : ThreadId → Check) : Checked :=
  ts.foldl (fun r t => match f t with
    | .ok ps => { r with go := r.go ++ [{ thread := t, chunks := ps }] }
    | .trap tr => { r with traps := r.traps ++ [(t, tr)] }
    | .miss root va => { r with misses := r.misses ++ [(t, root, va)] }) { go := [], traps := [], misses := [] }

/-- Raise the traps of a check (R195). -/
def State.raiseAll (s : State) (g : Gath) (ts : List (ThreadId × Trap)) : State :=
  ts.foldl (fun s x => (s.noteForeign x.1 x.2).raiseAt x.1 g.hdr g.pos x.2) s

/-- Start the walks that a check needs (R187). -/
def State.startWalks (s : State) (c : Nat) (ms : List (ThreadId × Nat × Nat)) : State :=
  ms.foldl (fun s m => s.addWalk c m.2.1 m.2.2 m.1) s

/-- R179: a thread's release that has not been performed holds its later accesses to the same line. -/
def State.lineHeld (s : State) (tgt : Target) : Bool :=
  s.ops.any (fun o => o.phase == .relWait && o.threads.contains tgt.thread &&
    tgt.chunks.any (fun ch => o.lines.contains ch.place.key))

/-- The bytes that a line of an L1 holds within a range, by offset in the range. -/
def L1Line.held (l : L1Line) (off n : Nat) : List (Nat × Byte) :=
  (List.range n).filterMap (fun i => if l.valid.getLsbD (off + i) then some (i, (l.data >>> (8 * (off + i))).setWidth 8) else none)

/-- A line with bytes written into it. -/
def L1Line.write (l : L1Line) (off : Nat) (bs : List Byte) (dirty : Bool) : L1Line :=
  let m := lineMask off bs.length
  { l with data := linePut l.data off bs, valid := l.valid ||| m, dirty := if dirty then l.dirty ||| m else l.dirty }

/-- R180: a line that is hit takes the access's priority, but for priority 3. -/
def L1Line.touch (l : L1Line) (prio now : Nat) : L1Line := { l with prio := if prio = 3 then l.prio else prio, used := now }

/-- An access whose effect within the core is done: only its reply is outstanding. -/
def State.postLocal (s : State) (r : Req) : State :=
  let (id, s) := s.fresh
  { s with net := s.net ++ [{ r with id := id, kind := .local_, stage := .replied }] }

/-- Store bytes to a team's core scratch. -/
def State.scratchWrite (s : State) (team key : Nat) (bs : List Byte) : State :=
  ((s.noteWrite (.scratch team key) bs.length).define (fun i => .scratch team (key + i)) bs.length).modTeam team (fun t => { t with scratch := cellSetList t.scratch key bs })

/-- R177, R178: a load that misses allocates its line, whose bytes come with the reply. -/
def State.allocate (s : State) (r : Req) : State :=
  if r.noAlloc || r.prio == 3 then s
  else s.l1Put r.core { line := r.line, shared := r.shared, valid := 0, dirty := 0, data := 0, prio := r.prio, used := s.tick }

/-- R177, R178, R181: what a load does at its core. -/
def State.performLoad (s : State) (r : Req) : State :=
  if r.k then s.post r
  else
    let c := r.core
    let s := match s.l1Find c r.line with
      | some l => if r.shared && !l.shared then (s.writeBack c 0 l).l1Drop c r.line else s
      | none => s
    match s.l1Find c r.line with
    | none =>
      let r := { r with noAlloc := r.noAlloc || r.lu }
      (s.allocate r).post r
    | some l =>
      let items := r.items.map (fun it => { it with own := l.held it.off it.size })
      if r.lu then (s.l1Drop c r.line).post { r with items := items, noAlloc := true }
      else
        let s := s.l1Set c (l.touch r.prio s.tick)
        if items.all (fun it => it.own.length == it.size) then s.postLocal { r with items := items }
        -- only the youngest load on its way fills the line: a copy never grows older than a value already read (R269)
        else (s.noAlloc c r.line).post { r with items := items }

/-- A request's store bytes written into a line. -/
def L1Line.writeItems (l : L1Line) (items : List Item) (dirty : Bool) : L1Line :=
  let l := items.foldl (fun l it => l.write it.off it.data dirty) l
  if dirty then { l with owner := items.head?.map (fun it => it.thread.quire) } else l

/-- R178 to R180, R199: what a store does at its core. A plain store to a line that the L1 holds completes there: where it
writes through besides, no operation waits for that request, only the releases of R179. -/
def State.performStore (s : State) (r : Req) : State :=
  if r.k then s.post r
  else
    let c := r.core
    let through := fun (s : State) => s.post { r with shared := true }
    match s.l1Find c r.line with
    | some l =>
      let wrote := s.l1Set c ((l.writeItems r.items false).touch r.prio s.tick)
      if r.shared && !l.shared then through ((s.writeBack c 0 l).l1Drop c r.line)
      else if r.shared then through wrote
      else if l.shared || r.noAlloc then (wrote.post { r with op := 0, shared := true }).postLocal r
      else (s.l1Set c ((l.writeItems r.items true).touch r.prio s.tick)).postLocal r
    | none =>
      if r.shared || r.noAlloc then through s
      else
        let l : L1Line := { line := r.line, shared := false, valid := 0, dirty := 0, data := 0, prio := r.prio, used := s.tick }
        (s.l1Put c (l.writeItems r.items true)).postLocal r

/-- R172, R173: an access of core scratch, in rising lane order. -/
def State.performScratch (s : State) (r : Req) (team : Nat) (write : Bool) : State :=
  if write then (r.items.foldl (fun s it => s.scratchWrite team it.off it.data) s).postLocal r
  else (r.items.foldl (fun s it => s.noteRead (.scratch team it.off) it.size) s).postLocal { r with items := r.items.map (fun it =>
    { it with own := (List.range it.size).map (fun i => (i, s.scratchByte team (it.off + i))) }) }

/-- What a request does when its access is performed at the core. -/
def State.perform (s : State) (r : Req) : State :=
  match r.kind with
  | .load => s.performLoad r
  | .store => s.performStore r
  | .scratch team write => s.performScratch r team write
  | .local_ => s.postLocal r
  | _ => s.post r

/-- R221, R229: a slice atomic or a stamp drops the core's shared copy of its line when it issues. -/
def State.dropOwn (s : State) (r : Req) : State :=
  match r.kind with
  | .atomic .. | .stamp .. =>
    let s := if r.k then s else s.noAlloc r.core r.line
    (match s.l1Find r.core r.line with
      | some l => if l.shared && !r.k then s.l1Drop r.core r.line else s
      | none => s)
  | _ => s

/-- R187: a request that an access sends beyond its core. -/
def State.sendsOut (s : State) (r : Req) : Bool :=
  match r.kind with
  | .load => r.k || (match s.l1Find r.core r.line with
    | some l => (r.shared && !l.shared) || r.lu || !r.items.all (fun it => (l.held it.off it.size).length == it.size)
    | none => true)
  | .store => r.k || r.shared || r.noAlloc || (match s.l1Find r.core r.line with | some l => l.shared | none => false)
  | .scratch .. | .local_ => false
  | _ => true

/-- R187: a core has room for what requests send beyond it. -/
def State.roomFor (s : State) (c : Nat) (rs : List Req) : Bool := decide (s.outstanding c + (rs.filter s.sendsOut).length ≤ 3072)

/-- Keep an access back until its release is performed (R179). -/
def State.hold (s : State) (r : Req) : State :=
  let (id, s) := s.fresh
  { s with net := s.net ++ [{ r with id := id, stage := .held }] }

/-- Group the chunks of an issue by line: one request per line, items in rising lane (R198). `mk` gives a chunk's item. -/
def groupLines (blank : Req) (mk : Target → Chunk → Item) (ts : List Target) : List Req :=
  let add := fun (rs : List Req) (tgt : Target) (ch : Chunk) =>
    let it := mk tgt ch
    let (k, line, kind) : Bool × Nat × ReqKind := match ch.place with
      | .g pa => (false, pa / 128, blank.kind)
      | .k c => (true, c / 128, blank.kind)
      | .scratch team _ => (false, 0, ReqKind.scratch team (blank.kind == ReqKind.store))
    if rs.any (fun r => r.k == k && r.line == line && r.kind == kind) then
      rs.map (fun r => if r.k = k ∧ r.line = line ∧ r.kind = kind then { r with items := r.items ++ [it] } else r)
    else rs ++ [{ blank with k := k, line := line, kind := kind, items := [it] }]
  ts.foldl (fun rs tgt => tgt.chunks.foldl (fun rs ch => add rs tgt ch) rs) []

/-- Offset of a place within its line, or its scratch key. -/
def Place.off : Place → Nat | .g pa => pa % 128 | .k c => c % 128 | .scratch _ key => key

/-- A new operation of the instruction being issued. -/
def Ctx.newOp (c : Ctx) (id : Nat) (kind : OpKind) (ts : List ThreadId) : Op :=
  { id := id, kind := kind, threads := ts, ctr := c.ctr, core := c.g.core, quire := c.q, hdr := c.g.hdr,
    pos := c.g.pos, phase := .active, rel := .none,
    acq := .none, reads := false, wrThru := false, lines := [], dests := [], uniform := false }

/-- R39: register an operation: the counter of each of its threads rises. -/
def State.addOp (s : State) (o : Op) : State :=
  let s := { s with ops := s.ops ++ [o] }
  match o.ctr with
  | none => s
  | some k => s.modThreads o.threads (fun _ th => th.inc k)

/-- R187: the TLB entries that a thread's access hit stand in its micro TLB. -/
def State.fillMicro (s : State) (c ip : Nat) (team : Nat) (vas : List Nat) : State :=
  vas.foldl (fun s va => match s.tlbFind c ip (s.recordOf team).root va with | some e => s.microFill c ip e | none => s) s

/-- R187: the same for the accesses of an issue. -/
def State.fillFor (s : State) (ts : List Target) : State :=
  ts.foldl (fun s t =>
    let q := s.quire t.thread.quire
    s.fillMicro q.core q.ip q.team (t.chunks.filterMap (·.va))) s

/-- A request that writes memory or scratch. -/
def ReqKind.writes : ReqKind → Bool
  | .store | .atomic .. | .stamp .. | .scratch _ true => true
  | _ => false

/-- Where an item of a request lies. -/
def Req.itemPlace (r : Req) (it : Item) : Place :=
  match r.kind with
  | .scratch team _ => .scratch team it.off
  | _ => if r.k then kAt r.part (r.byteAddr + it.off) else .g (r.byteAddr + it.off)

/-- A store of a thread that no MOPF follows yet. -/
def Thread.stored (p : Place) (n : Nat) (th : Thread) : Thread :=
  if th.unfenced.contains (p, n) then th else { th with unfenced := (p, n) :: th.unfenced }

/-- R292: threads of matrix-role quires store what an operation that they sign before an MOPF may not read. -/
def State.noteStores (s : State) (r : Req) : State :=
  if r.kind.writes then r.items.foldl (fun s it =>
    if (s.quire it.thread.quire).role == .matrix then s.modThread it.thread (Thread.stored (r.itemPlace it) it.size) else s) s
  else s

/-- Issue the checked accesses of an instruction: traps are raised; with a walk needed, no room for the requests, or a held
line, the instruction stays; else the operation is registered and its requests performed, or held behind its release. -/
def issueAccess (c : Ctx) (chk : Checked) (o : Nat → Op) (reqs : Nat → List Target → List Req) (mark : Nat → State → State)
    (s : State) : Res :=
  let s := s.raiseAll c.g chk.traps
  if !chk.misses.isEmpty then .stay ((s.startWalks c.g.core chk.misses).settleGath c.gi)
  else if chk.go.any s.lineHeld || !s.roomFor c.g.core (reqs 0 chk.go) then .stay (s.settleGath c.gi)
  else if chk.go.isEmpty then .done s
  else
    let (id, s) := (s.fillFor chk.go).fresh
    let op := o id
    let rs := reqs id chk.go
    let op := { op with threads := if op.uniform then op.threads else chk.go.map (·.thread),
                        lines := chk.go.flatMap (fun t => t.chunks.map (fun ch => ch.place.key)),
                        phase := if op.rel = .none then .active else .relWait }
    let s := rs.foldl State.noteStores (rs.foldl State.dropOwn (mark id (s.addOp op)))
    .done (if op.rel = .none then rs.foldl State.perform s else rs.foldl State.hold s)

/-- The blank request of a memory access. A store with the last-use bit and priority 3 takes priority 2 and allocates: R181
sets the line's priority, and R180 lets no line hold priority 3 (log entry 91). -/
def memReq (c : Ctx) (s : State) (m : MemF) (sh store : Bool) (id : Nat) : Req :=
  let prio := if store && m.lu then 2 else m.ep.toNat
  { Req.blank c.g.core (s.partOfCore c.g.core) with
    op := id, kind := if store then .store else .load, shared := m.space == .g && (sh || m.order != .plain),
    prio := prio, lu := m.lu && !store, noAlloc := m.ep == 3 && prio == 3, cls := if store then 1 else 0 }

/-- The operation of a memory access. -/
def memOp (c : Ctx) (m : MemF) (sh store uniform : Bool) (dests : List RegId) (id : Nat) : Op :=
  { c.newOp id .mem c.takers with
    rel := if m.order = .rel then m.scope else .none, acq := if m.order = .acq then m.scope else .none, reads := !store,
    wrThru := store && ((m.space == .g && (sh || m.order != .plain || m.ep == 3)) || (m.space == .p && m.ep == 3)), dests := dests, uniform := uniform }

/-- A v register as a destination of a thread that holds it. -/
def vDests (d : Reg8) (n : Nat) : List RegId := (span d.toNat n).map RegId.v

/-- R194 to R197: LD and LD.sh. -/
def loadV (i : Instr) (m : MemF) (sh : Bool) (s : State) : Host.Outcome State Fault Refusal :=
  issue i (fun c s =>
    let n := sizeBytes m.size
    let chk := checkAll c.takers (fun t =>
      s.checkAccess t .read m.space (s.baseOf c m.space m.a + s.vIdx c t m.b * n + m.imm.toInt) n n)
    issueAccess c chk (memOp c m sh false false (vDests m.d m.size.regs))
      (fun id => groupLines (memReq c s m sh false id) (fun tgt ch =>
        { thread := tgt.thread, off := ch.place.off, size := ch.size, data := [], regs := loadRegs .v m.d.toNat ch.off ch.size,
          ext := m.size, own := [], res := [] }))
      (fun id s => chk.go.foldl (fun s t => s.markV c.now t.thread (span m.d.toNat m.size.regs) id) s) s) s

/-- The bytes of consecutive v registers of a thread. -/
def State.vBytes (s : State) (now : Nat) (t : ThreadId) (d n : Nat) : List Byte :=
  ((List.range ((n + 3) / 4)).flatMap (fun i => leBytes 4 (s.readV now t (d + i)).toNat)).take n

/-- The bytes of consecutive q registers. -/
def State.qBytes (s : State) (c : Ctx) (d n : Nat) : List Byte :=
  ((List.range ((n + 3) / 4)).flatMap (fun i => leBytes 4 (s.readQ c.now c.hand c.q (d + i)).toNat)).take n

/-- R194 to R197: ST and ST.sh; the data is read at issue. -/
def storeV (i : Instr) (m : MemF) (sh : Bool) (s : State) : Host.Outcome State Fault Refusal :=
  issue i (fun c s =>
    let n := sizeBytes m.size
    let chk := checkAll c.takers (fun t =>
      s.checkAccess t .write m.space (s.baseOf c m.space m.a + s.vIdx c t m.b * n + m.imm.toInt) n n)
    issueAccess c chk (memOp c m sh true false [])
      (fun id => groupLines (memReq c s m sh true id) (fun tgt ch =>
        { thread := tgt.thread, off := ch.place.off, size := ch.size,
          data := ((s.vBytes c.now tgt.thread m.d.toNat n).drop ch.off).take ch.size, regs := [],
          ext := m.size, own := [], res := [] }))
      (fun _ s => s) s) s

/-- The thread on whose behalf a uniform access is made: the first taking thread. -/
def Ctx.lead (c : Ctx) : ThreadId := c.takers.headD ⟨c.q, 0⟩

/-- A uniform access faults in every taking thread (R245 for STDEF; R195 forms one address for the gathering). -/
def spreadTraps (c : Ctx) (chk : Checked) : Checked :=
  match chk.traps with
  | [] => chk
  | (_, tr) :: _ => { chk with go := [], traps := c.takers.map (fun t => (t, tr)) }

/-- R194 to R197: LDQ and LDQ.sh, once for the gathering. -/
def loadQ (i : Instr) (m : MemF) (sh : Bool) (s : State) : Host.Outcome State Fault Refusal :=
  issue i (fun c s =>
    let n := sizeBytes m.size
    let chk := spreadTraps c (checkAll [c.lead] (fun t =>
      s.checkAccess t .read m.space (s.baseOf c m.space m.a + s.qIdx c m.b * n + m.imm.toInt) n n))
    let names := (span m.d.toNat m.size.regs).map (qName c.hand)
    issueAccess c chk (memOp c m sh false true (names.map RegId.q))
      (fun id => groupLines (memReq c s m sh false id) (fun tgt ch =>
        { thread := tgt.thread, off := ch.place.off, size := ch.size, data := [],
          regs := loadRegs (fun r => .q (qName c.hand r)) m.d.toNat ch.off ch.size, ext := m.size, own := [], res := [] }))
      (fun id s => s.markQ c.now c.q c.hand (span m.d.toNat m.size.regs) id) s) s

/-- R194 to R197: STQ and STQ.sh, once for the gathering. -/
def storeQ (i : Instr) (m : MemF) (sh : Bool) (s : State) : Host.Outcome State Fault Refusal :=
  issue i (fun c s =>
    let n := sizeBytes m.size
    let chk := spreadTraps c (checkAll [c.lead] (fun t =>
      s.checkAccess t .write m.space (s.baseOf c m.space m.a + s.qIdx c m.b * n + m.imm.toInt) n n))
    issueAccess c chk (memOp c m sh true true [])
      (fun id => groupLines (memReq c s m sh true id) (fun tgt ch =>
        { thread := tgt.thread, off := ch.place.off, size := ch.size, data := ((s.qBytes c m.d.toNat n).drop ch.off).take ch.size,
          regs := [], ext := m.size, own := [], res := [] }))
      (fun _ s => s) s) s

/-- LD (0xA0). -/
def execLd (h : Hdr) (m : MemF) (s : State) : Host.Outcome State Fault Refusal := loadV (.ld h m) m false s
/-- LD.sh (0xA1). -/
def execLdSh (h : Hdr) (m : MemF) (s : State) : Host.Outcome State Fault Refusal := loadV (.ldSh h m) m true s
/-- ST (0xA2). -/
def execSt (h : Hdr) (m : MemF) (s : State) : Host.Outcome State Fault Refusal := storeV (.st h m) m false s
/-- ST.sh (0xA3). -/
def execStSh (h : Hdr) (m : MemF) (s : State) : Host.Outcome State Fault Refusal := storeV (.stSh h m) m true s
/-- LDQ (0xA4). -/
def execLdq (h : Hdr) (m : MemF) (s : State) : Host.Outcome State Fault Refusal := loadQ (.ldq h m) m false s
/-- LDQ.sh (0xA5). -/
def execLdqSh (h : Hdr) (m : MemF) (s : State) : Host.Outcome State Fault Refusal := loadQ (.ldqSh h m) m true s
/-- STQ (0xA6). -/
def execStq (h : Hdr) (m : MemF) (s : State) : Host.Outcome State Fault Refusal := storeQ (.stq h m) m false s
/-- STQ.sh (0xA7). -/
def execStqSh (h : Hdr) (m : MemF) (s : State) : Host.Outcome State Fault Refusal := storeQ (.stqSh h m) m true s

/-- R187, R200: the walk of a prefetch whose translation is at hand nowhere; one that fails leaves nothing (log entry 12). -/
def State.prefWalk (s : State) (t : ThreadId) (k : Check) : State :=
  let c := (s.quire t.quire).core
  match k with
  | .miss root va => (match s.walk (s.partOfCore c) root va with
    | .leaf e sz => (s.askWalk (s.partOfCore c) root va).tlbInsert c root va e sz
    | _ => s.askWalk (s.partOfCore c) root va)
  | _ => s

/-- R200: the prefetch of one line; a line already at or above its level is left as it is. -/
def State.prefetch (s : State) (level : Nat) (r : Req) : State :=
  if (s.l1Find r.core r.line).isSome then s
  else if level ≠ 0 && ((s.slices.getD (s.sliceFor r.part false r.byteAddr) Slice.reset).tags.any (fun t => t.1 == r.line)) then s
  else if level = 0 then (s.allocate r).post r
  else s.post r

/-- R198, R200: PREF has no completion point and never faults: one request per line, for the threads whose access would not. -/
def execPref (st : BitVec 3) (level : BitVec 2) (space : Space) (ep : BitVec 2) (a b : Reg8) (imm : BitVec 10) (s : State) :
    Host.Outcome State Fault Refusal :=
  issue (.pref st level space ep a b imm) (fun c s =>
    let check := fun (s' : State) (t : ThreadId) => s'.checkAccess t .read space (s.baseOf c space a + s.vIdx c t b + imm.toInt) 1 1
    let s1 := c.takers.foldl (fun s' t => s'.prefWalk t (check s' t)) s
    let go := (checkAll c.takers (check s1)).go
    let rs := (groupLines { Req.blank c.g.core (s.partOfCore c.g.core) with
        kind := .fetch level.toNat, prio := ep.toNat, noAlloc := ep == 3 } (fun tgt ch =>
      { thread := tgt.thread, off := ch.place.off, size := 0, data := [], regs := [], ext := .n8, own := [], res := [] }) go).map
        (fun r => { r with items := [] })
    if s1.roomFor c.g.core rs then .done (rs.foldl (fun s r => s.prefetch level.toNat r) (s1.fillFor go)) else .stay s1) s

/-- R201: CMAINT on one line of the core, for the threads whose address it holds. -/
def State.maintain (s : State) (op : Nat) (r : Req) : State :=
  match s.l1Find r.core r.line with
  | none => (if op = 0 then s else s.noAlloc r.core r.line).postLocal r
  | some l =>
    let wb := { r with kind := .writeback, data := l.data, mask := l.dirty, prio := l.prio, cls := 1, owner := l.owner }
    match op with
    | 0 => if l.dirty = 0 then s.postLocal r else (s.l1Set r.core { l with dirty := 0 }).post wb
    | 1 => (s.l1Drop r.core r.line).postLocal r
    | _ => if l.dirty = 0 then (s.l1Drop r.core r.line).postLocal r else (s.l1Drop r.core r.line).post wb

/-- R201: CMAINT. Clean operations are checked for RD, invalidate for W (R185). -/
def execCmaint (h : Hdr) (op : BitVec 2) (space : Space) (a b : Reg8) (imm : BitVec 10) (s : State) : Host.Outcome State Fault Refusal :=
  issue (.cmaint h op space a b imm) (fun c s =>
    let chk := checkAll c.takers (fun t =>
      s.checkAccess t (if op = 1 then .write else .read) space (s.baseOf c space a + s.vIdx c t b + imm.toInt) 1 1)
    let s := s.raiseAll c.g chk.traps
    if !chk.misses.isEmpty then .stay ((s.startWalks c.g.core chk.misses).settleGath c.gi)
    else
    let rs := groupLines (Req.blank c.g.core (s.partOfCore c.g.core)) (fun tgt ch =>
        { thread := tgt.thread, off := ch.place.off, size := 0, data := [], regs := [], ext := .n8, own := [], res := [] }) chk.go
    let cleans := (rs.filter (fun r => op != 1 && (match s.l1Find r.core r.line with | some l => l.dirty != 0 | none => false))).length
    if chk.go.any s.lineHeld || decide (s.outstanding c.g.core + cleans > 3072) then .stay (s.settleGath c.gi)
    else if chk.go.isEmpty then .done s
    else
      let (id, s) := (s.fillFor chk.go).fresh
      let rs := rs.map (fun r => { r with op := id })
      .done (rs.foldl (fun s r => s.maintain op.toNat r) (s.addOp (c.newOp id .mem (chk.go.map (·.thread)))))) s

end Sys2Proof.Machine
end

