-- ==== Sys2Proof/Machine/Float.lean ====
section
/-! DEFINITION. The meanings of the float instructions (chapter 06) and of the narrow-format instructions (chapter 07). -/

namespace Sys2Proof.Machine

/-- An FSET as an operation of A and B (R139): the predicate, and NV. -/
def opFset (cond : BitVec 4) (x : IntIn) : IntOut :=
  let r := f32Set cond x.a32 x.b32
  { val := 0, pred := some r.1, flags := r.2 }

/-- R137 FADD, with the modifier of A (R134). -/
def execFadd (m : BitVec 2) (d a b : Reg7) (st : BitVec 3) (s : State) : Host.Outcome State Fault Refusal :=
  vec3 (.fadd m d a b st) 5 (fop (fun a b _ => f32Add (fmodify m a) b)) d a b s

/-- R137 FSUB, with the modifier of A (R134). -/
def execFsub (m : BitVec 2) (d a b : Reg7) (st : BitVec 3) (s : State) : Host.Outcome State Fault Refusal :=
  vec3 (.fsub m d a b st) 5 (fop (fun a b _ => f32Sub (fmodify m a) b)) d a b s

/-- R137 FMUL, with the modifier of A (R134). -/
def execFmul (m : BitVec 2) (d a b : Reg7) (st : BitVec 3) (s : State) : Host.Outcome State Fault Refusal :=
  vec3 (.fmul m d a b st) 5 (fop (fun a b _ => f32Mul (fmodify m a) b)) d a b s

/-- R137 FFMA, with the modifier of A (R134). -/
def execFfma (m : BitVec 2) (d a b : Reg7) (st : BitVec 3) (s : State) : Host.Outcome State Fault Refusal :=
  vec3d (.ffma m d a b st) 5 (fop (fun a b d => f32Fma (fmodify m a) b d)) d a b s

/-- R138 FMIN, with the modifier of A (R134). -/
def execFmin (m : BitVec 2) (d a b : Reg7) (st : BitVec 3) (s : State) : Host.Outcome State Fault Refusal :=
  vec3 (.fmin m d a b st) 4 (fop (fun a b _ => f32MinMax false (fmodify m a) b)) d a b s

/-- R138 FMAX, with the modifier of A (R134). -/
def execFmax (m : BitVec 2) (d a b : Reg7) (st : BitVec 3) (s : State) : Host.Outcome State Fault Refusal :=
  vec3 (.fmax m d a b st) 4 (fop (fun a b _ => f32MinMax true (fmodify m a) b)) d a b s

/-- R139 FSET. -/
def execFset (p : BitVec 3) (cond : BitVec 4) (a b : Reg7) (st : BitVec 3) (s : State) : Host.Outcome State Fault Refusal :=
  vecInt (.fset p cond a b st) 4 (opFset cond) (.pred p.toNat) (.one a.toNat) (.one b.toNat) false none none s

/-- R140 FRND. -/
def execFrnd (d a : Reg7) (mode : BitVec 7) (st : BitVec 3) (s : State) : Host.Outcome State Fault Refusal :=
  vec2 (.frnd d a mode st) 4 (fop (fun a _ _ => f32Rnd mode.toNat a)) d a s

/-- R141 FCLASS. -/
def execFclass (d a : Reg7) (st : BitVec 3) (s : State) : Host.Outcome State Fault Refusal :=
  vec2 (.fclass d a st) 4 (fop (fun a _ _ => (f32Class a, 0))) d a s

/-- R142 FSQRT. -/
def execFsqrt (d a : Reg7) (st : BitVec 3) (s : State) : Host.Outcome State Fault Refusal :=
  vec2 (.fsqrt d a st) 20 (fop (fun a _ _ => f32Special .sqrt a)) d a s

/-- R142 FRCP. -/
def execFrcp (d a : Reg7) (st : BitVec 3) (s : State) : Host.Outcome State Fault Refusal :=
  vec2 (.frcp d a st) 20 (fop (fun a _ _ => f32Special .rcp a)) d a s

/-- R142 FRSQ. -/
def execFrsq (d a : Reg7) (st : BitVec 3) (s : State) : Host.Outcome State Fault Refusal :=
  vec2 (.frsq d a st) 20 (fop (fun a _ _ => f32Special .rsq a)) d a s

/-- R142 FEX2. -/
def execFex2 (d a : Reg7) (st : BitVec 3) (s : State) : Host.Outcome State Fault Refusal :=
  vec2 (.fex2 d a st) 24 (fop (fun a _ _ => f32Special .ex2 a)) d a s

/-- R142 FLG2. -/
def execFlg2 (d a : Reg7) (st : BitVec 3) (s : State) : Host.Outcome State Fault Refusal :=
  vec2 (.flg2 d a st) 24 (fop (fun a _ _ => f32Special .lg2 a)) d a s

/-- R143 PKADD.f16. -/
def execPkaddF16 (d a b : Reg7) (st : BitVec 3) (s : State) : Host.Outcome State Fault Refusal :=
  vec3 (.pkaddF16 d a b st) 5 (fop (fun a b _ => pkAdd a b)) d a b s

/-- R143 PKMUL.f16. -/
def execPkmulF16 (d a b : Reg7) (st : BitVec 3) (s : State) : Host.Outcome State Fault Refusal :=
  vec3 (.pkmulF16 d a b st) 5 (fop (fun a b _ => pkMul a b)) d a b s

/-- R143 PKFMA.f16. -/
def execPkfmaF16 (d a b : Reg7) (st : BitVec 3) (s : State) : Host.Outcome State Fault Refusal :=
  vec3d (.pkfmaF16 d a b st) 5 (fop pkFma16) d a b s

/-- R143 PKFMA.bf16. -/
def execPkfmaBf16 (d a b : Reg7) (st : BitVec 3) (s : State) : Host.Outcome State Fault Refusal :=
  vec3d (.pkfmaBf16 d a b st) 5 (fop pkFmaBf) d a b s

/-- R135 FADD, long immediate in place of B. -/
def execFaddLi (d a : Reg8) (imm : Word) (st : BitVec 3) (s : State) : Host.Outcome State Fault Refusal :=
  vecInt (.faddLi d a imm st) 5 (fop (fun a b _ => f32Add a b)) (.one d.toNat) (.one a.toNat) (.imm imm) false none none s

/-- R135 FMUL, long immediate in place of B. -/
def execFmulLi (d a : Reg8) (imm : Word) (st : BitVec 3) (s : State) : Host.Outcome State Fault Refusal :=
  vecInt (.fmulLi d a imm st) 5 (fop (fun a b _ => f32Mul a b)) (.one d.toNat) (.one a.toNat) (.imm imm) false none none s

/-- R135 FFMA, long immediate in place of B. -/
def execFfmaLi (d a : Reg8) (imm : Word) (st : BitVec 3) (s : State) : Host.Outcome State Fault Refusal :=
  vecInt (.ffmaLi d a imm st) 5 (fop f32Fma) (.one d.toNat) (.one a.toNat) (.imm imm) true none none s

/-- R135 FSET, long immediate in place of B. -/
def execFsetLi (p : BitVec 3) (cond : BitVec 4) (a : Reg8) (imm : Word) (st : BitVec 3) (s : State) : Host.Outcome State Fault Refusal :=
  vecInt (.fsetLi p cond a imm st) 4 (opFset cond) (.pred p.toNat) (.one a.toNat) (.imm imm) false none none s

/-! ### Narrow formats (chapter 07) -/

/-- R160 CVT. -/
def execCvt (d a : Reg7) (sel : BitVec 7) (st : BitVec 3) (s : State) : Host.Outcome State Fault Refusal :=
  vec2 (.cvt d a sel st) 5 (fop (fun a _ _ => cvtWord sel a)) d a s

/-- Table 7.8: the latency of QNT and DQNT by block size. -/
def blockLat (n : Nat) : Nat := if n = 8 then 10 else if n = 16 then 14 else 22
/-- Table 7.8: the latency of HAD by points. -/
def hadLat (n : Nat) : Nat := if n = 16 then 16 else if n = 32 then 24 else 40
/-- `%team` of a quire (R313). -/
def State.teamNo (s : State) (q : Nat) : Word := BitVec.ofNat 32 (s.team (s.quire q).team).index
/-- `%tid` of a thread: 32 × `%qid` + `%lane` (R75). -/
def State.tidOf (s : State) (t : ThreadId) : Word := BitVec.ofNat 32 (32 * (s.quire t.quire).qid + t.lane)

/-- R161 QNT. -/
def execQnt (d a : Reg7) (slot : BitVec 7) (st : BitVec 3) (s : State) : Host.Outcome State Fault Refusal :=
  vecBlock (.qnt d a slot st) (fun c s => blockLat (s.slot c.q slot.toNat).blockSize) (fun c s t =>
    let f := s.slot c.q slot.toNat
    qntBlock f (s.teamNo t.quire) (s.tidOf t) (s.blockV c.now t a.toNat f.blockSize)) d.toNat s

/-- R162 DQNT. -/
def execDqnt (d a : Reg7) (slot : BitVec 7) (st : BitVec 3) (s : State) : Host.Outcome State Fault Refusal :=
  vecBlock (.dqnt d a slot st) (fun c s => blockLat (s.slot c.q slot.toNat).blockSize) (fun c s t =>
    let f := s.slot c.q slot.toNat
    dqntBlock f (s.blockV c.now t a.toNat f.blockWords) (s.readV c.now t (a.toNat + f.blockWords))) d.toNat s

/-- R163 HAD. -/
def execHad (d a : Reg7) (slot : BitVec 7) (st : BitVec 3) (s : State) : Host.Outcome State Fault Refusal :=
  vecBlock (.had d a slot st) (fun c s => hadLat (s.slot c.q slot.toNat).points) (fun c s t =>
    hadBlock (s.blockV c.now t a.toNat (s.slot c.q slot.toNat).points)) d.toNat s

/-- R164 PACK4. -/
def execPack4 (d a b : Reg7) (st : BitVec 3) (s : State) : Host.Outcome State Fault Refusal :=
  vec3 (.pack4 d a b st) 4 (fop (fun a b _ => (pack4Word a b, 0))) d a b s

/-- R164 UNPK4. -/
def execUnpk4 (d a : Reg7) (sel : BitVec 7) (st : BitVec 3) (s : State) : Host.Outcome State Fault Refusal :=
  vec2 (.unpk4 d a sel st) 4 (fop (fun a _ _ => (unpk4Word sel a, 0))) d a s

/-- R165 SCALE. -/
def execScale (d a b : Reg7) (st : BitVec 3) (s : State) : Host.Outcome State Fault Refusal :=
  vec3 (.scale d a b st) 5 (fop (fun a b _ => scaleWord a b)) d a b s

/-- R166 FSLOT. -/
def execFslot (d : Reg7) (slot sel : BitVec 7) (st : BitVec 3) (s : State) : Host.Outcome State Fault Refusal :=
  vecBlock (.fslot d slot sel st) (fun _ _ => 4) (fun c s _ => ([fslotWord (s.slot c.q slot.toNat) sel.toNat], 0)) d.toNat s

end Sys2Proof.Machine
end

