-- ==== Sys2Proof/Machine/Control.lean ====
section
/-! DEFINITION. Control transfers and the return stack, predicate logic, and the quire-wide operations (chapter 04,
opcodes 0x90 to 0x9F). -/

namespace Sys2Proof.Machine

/-! ### Control transfers (R88 to R94) -/

/-- Threads go to clause headers. -/
def State.jump (s : State) (ts : List ThreadId) (f : ThreadId → Addr) : State :=
  s.modThreads ts (fun t th => { th with hdr := f t, pos := 0, gov := true, stat := .ready })

/-- R91: header address plus 4 × sext(IMM32, 48), modulo 2^48. -/
def Gath.target (g : Gath) (off : Word) : Addr := g.hdr + (off.signExtend 48 <<< 2)

/-- R30, R92: a target: ALIGN, then translation and execute permission, at the transfer. -/
def State.checkTarget (s : State) (t : ThreadId) (a : Addr) : Check :=
  if a.toNat % 4 ≠ 0 then .trap { code := .align, addr := a.toNat } else s.checkG t .fetch a.toNat 4

/-- R88: bytes of checked chunks read as a private access reads them: from the core's L1 where valid, else from memory. -/
def State.chunkBytes (s : State) (c : Nat) (ps : List Chunk) : List Byte :=
  ps.flatMap (fun p => match p.place with
    | .g pa =>
      let l := s.l1Find c (pa / 128)
      (List.range p.size).map (fun i => match l with
        | some l => if l.valid.getLsbD (pa % 128 + i) then (l.data >>> (8 * (pa % 128 + i))).setWidth 8 else s.memByte (pa + i)
        | none => s.memByte (pa + i))
    | _ => List.replicate p.size 0)

/-- R88: bytes stored as a private access stores them. -/
def State.chunkStore (s : State) (c : Nat) (t : ThreadId) (ps : List Chunk) (bs : List Byte) : State :=
  ps.foldl (fun s p => match p.place with
    | .g pa => s.performStore { Req.blank c (s.partOfCore c) with
        kind := .store, line := pa / 128,
        items := [{ thread := t, off := pa % 128, size := p.size, data := (bs.drop p.off).take p.size, regs := [], ext := .n8, own := [], res := [] }] }
    | _ => s) s

/-- Some chunk's line has a write of the core's leaf on its way. -/
def State.chunksBusy (s : State) (c : Nat) (ts : List Target) : Bool :=
  ts.any (fun t => t.chunks.any (fun p => match p.place with | .g pa => s.writeOnWay c (pa / 128) | _ => false))

/-- R88: a thread's push of `next`: with eight entries held, the oldest has been spilled. -/
def Thread.push (next : Addr) (th : Thread) : Thread :=
  if th.rstack.length < 8 then { th with rstack := th.rstack ++ [next] }
  else { th with rstack := th.rstack.tail ++ [next], spilled := th.spilled + 1 }

/-- R88: the store of a thread's oldest entry to its private window when all eight entries are held. -/
def State.spill (s : State) (c : Nat) (tgt : Target) : State :=
  let th := s.thread tgt.thread
  if th.rstack.length < 8 then s else s.chunkStore c tgt.thread tgt.chunks (leBytes 8 (th.rstack.headD 0).toNat)

/-- R88, R89: the check of a push: room in the hardware entries, a spill that fits below PRIVLIM, or RSTACK. Where PRIVLIM is
4 mod 8 the eight bytes are not aligned to their size: they are checked for no ALIGN, here and in a fill (log entry 96). -/
def State.checkPush (s : State) (t : ThreadId) : Check :=
  let th := s.thread t
  let lim := (s.recordQ t.quire).privLim
  if th.rstack.length < 8 then .ok []
  else if (s.quire t.quire).role = .spine ∨ lim < 8 * (th.spilled + 1) then .trap { code := .rstack }
  else s.checkP t .write ((lim : Int) - 8 * (th.spilled + 1)) 8

/-- R91, R92: threads call: each pushes the address of the following clause and goes to its target. -/
def callAll (c : Ctx) (ts : List ThreadId) (target : ThreadId → Addr) (s : State) : Res :=
  let chk := checkAll ts s.checkPush
  let s := s.raiseAll c.g chk.traps
  if !chk.misses.isEmpty then .stay ((s.startWalks c.g.core chk.misses).settleGath c.gi)
  else
    let ts := chk.go.map (·.thread)
    .done (((chk.go.foldl (fun s t => s.spill c.g.core t) s).modThreads ts (fun _ th => th.push c.g.nextHdr)).jump ts target)

/-- R30, R92: threads whose target passes its checks go on with `k`; the others trap at the transfer. -/
def transfer (c : Ctx) (target : ThreadId → Addr) (k : List ThreadId → State → Res) (s : State) : Res :=
  let chk := checkAll c.takers (fun t => s.checkTarget t (target t))
  let s := s.raiseAll c.g chk.traps
  if !chk.misses.isEmpty then .stay ((s.startWalks c.g.core chk.misses).settleGath c.gi)
  else k (chk.go.map (·.thread)) s

/-- R91 BRA. -/
def execBra (off : Word) (st : BitVec 3) (s : State) : Host.Outcome State Fault Refusal :=
  issueWith (.bra off st) false 3 (fun c s =>
    transfer c (fun _ => c.g.target off) (fun ts s' => .done (s'.jump ts (fun _ => c.g.target off))) s) s
/-- R91 BRQ: the condition is read once for the gathering; a branch that is not taken checks no target. -/
def execBrq (neg : Bool) (qp : BitVec 3) (off : Word) (st : BitVec 3) (s : State) : Host.Outcome State Fault Refusal :=
  issueWith (.brq neg qp off st) false 3 (fun c s =>
    if s.readQp c.now c.q qp.toNat != neg then
      transfer c (fun _ => c.g.target off) (fun ts s' => .done (s'.jump ts (fun _ => c.g.target off))) s
    else .done (s.jump c.takers (fun _ => c.g.nextHdr))) s
/-- R91 CALL. -/
def execCall (off : Word) (st : BitVec 3) (s : State) : Host.Outcome State Fault Refusal :=
  issueWith (.call off st) false 3 (fun c s =>
    transfer c (fun _ => c.g.target off) (fun ts s' => callAll c ts (fun _ => c.g.target off) s') s) s
/-- R92: the target of a thread: bits [47:0] of its pair. -/
def pairTarget (c : Ctx) (s : State) (a : Reg8) (t : ThreadId) : Addr :=
  (pairOf (s.readV c.now t a.toNat) (s.readV c.now t (a.toNat + 1))).setWidth 48
/-- R92 BRX. -/
def execBrx (a : Reg8) (st : BitVec 3) (s : State) : Host.Outcome State Fault Refusal :=
  issueWith (.brx a st) false 3 (fun c s =>
    transfer c (pairTarget c s a) (fun ts s' => .done (s'.jump ts (pairTarget c s a))) s) s
/-- R92 CALLX. -/
def execCallx (a : Reg8) (st : BitVec 3) (s : State) : Host.Outcome State Fault Refusal :=
  issueWith (.callx a st) false 3 (fun c s =>
    transfer c (pairTarget c s a) (fun ts s' => callAll c ts (pairTarget c s a) s') s) s

/-- R88: where a pop reads: a hardware entry, a filled entry, or RSTACK (R89). -/
def State.checkPop (s : State) (t : ThreadId) : Check :=
  let th := s.thread t
  if !th.rstack.isEmpty then .ok []
  else if th.spilled = 0 then .trap { code := .rstack }
  else s.checkP t .read (((s.recordQ t.quire).privLim : Int) - 8 * th.spilled) 8

/-- R93: the popped entry, bits [47:0]. -/
def State.popped (s : State) (c : Nat) (tgt : Target) : Addr :=
  match (s.thread tgt.thread).rstack.getLast? with
  | some a => a
  | none => BitVec.ofNat 48 (leNat (s.chunkBytes c tgt.chunks))

/-- R88, R177: a fill is an ordinary private load: a line that the L1 does not hold whole comes from its home slice and is
allocated in local class, and its data is consumed (R385). -/
def State.fillChunk (s : State) (c : Nat) (t : ThreadId) (ch : Chunk) : State :=
  match ch.place with
  | .g pa =>
    let line := lineOf pa
    let old := s.l1Find c line
    let have_ := match old with | some l => l.valid | none => 0
    if (List.range ch.size).all (fun i => have_.getLsbD (pa % 128 + i)) then
      (match old with | some l => s.l1Set c (l.touch 0 s.tick) | none => s)
    else
      let home := s.memBytes (line * 128) 128
      let l := old.getD { line := line, shared := false, valid := 0, dirty := 0, data := 0, prio := 0, used := s.tick }
      let keep := lineBytes l.data
      let data := lineData (home.mapIdx (fun i b => if have_.getLsbD i then keep.getD i 0 else b))
      let s := ((s.consume (s.gangOf t.quire) line).noteRead (.g (line * 128)) 128).touchTag (homeSlice (s.part (s.partOfCore c)) pa) line 0 0
      s.l1Put c { l with data := data, valid := BitVec.allOnes 128, used := s.tick }
  | _ => s
/-- The fills of threads that pop a spilled entry. -/
def State.fillAll (s : State) (c : Nat) (go : List Target) : State :=
  go.foldl (fun s g => g.chunks.foldl (fun s ch => s.fillChunk c g.thread ch) s) s

/-- R88: remove the popped entry. -/
def Thread.pop (th : Thread) : Thread :=
  if th.rstack.isEmpty then { th with spilled := th.spilled - 1 } else { th with rstack := th.rstack.dropLast }

/-- R93 RET. -/
def execRet (st : BitVec 3) (s : State) : Host.Outcome State Fault Refusal :=
  issueWith (.ret st) false 3 (fun c s =>
    let pops := checkAll c.takers s.checkPop
    let s := s.raiseAll c.g pops.traps
    if !pops.misses.isEmpty then .stay ((s.startWalks c.g.core pops.misses).settleGath c.gi)
    else if s.chunksBusy c.g.core pops.go then .stay (s.settleGath c.gi)
    else
      let aims : List (ThreadId × Addr) := pops.go.map (fun g => (g.thread, s.popped c.g.core g))
      let target := fun t => ((aims.find? (fun x => x.1 == t)).map (·.2)).getD 0
      let chk := checkAll (aims.map (·.1)) (fun t => s.checkTarget t (target t))
      let s := s.raiseAll c.g chk.traps
      if !chk.misses.isEmpty then .stay ((s.startWalks c.g.core chk.misses).settleGath c.gi)
      else
        let ts := chk.go.map (·.thread)
        .done (((s.fillAll c.g.core pops.go).modThreads ts (fun _ th => th.pop)).jump ts target)) s
/-- R94 EXIT: THREAD_RETIRE follows once the counters read zero. Until then the thread is live (R239) and stands at its EXIT, where
a pre-emption finds it (R380, log entry 106). -/
def execExit (st : BitVec 3) (s : State) : Host.Outcome State Fault Refusal :=
  issueWith (.exit st) false 3 (fun c s =>
    .done (s.modThreads c.takers (fun _ th => { th with stat := .exiting, hdr := c.g.hdr, pos := c.g.pos }))) s
/-- R95 NOP. -/
def execNop (st : BitVec 3) (s : State) : Host.Outcome State Fault Refusal := issue (.nop st) (fun _ s => .done s) s
/-- R95 YIELD: the scheduler may swap the quire out. -/
def execYield (st : BitVec 3) (s : State) : Host.Outcome State Fault Refusal :=
  issue (.yield st) (fun c s => .done ((quiresOf c.takers).foldl (fun s q => s.modQuire q (fun x => { x with yielded := true })) s)) s
/-- R95 QSYNC: its clause is a reconvergence clause (R85). -/
def execQsync (st : BitVec 3) (s : State) : Host.Outcome State Fault Refusal := issue (.qsync st) (fun _ s => .done s) s

/-! ### Predicate logic (R96) -/

/-- R96: the table's bit for three predicates. -/
def plopBit (table : BitVec 8) (a b c : Bool) : Bool := table.getLsbD (4 * a.toNat + 2 * b.toNat + c.toNat)

/-- R96 PLOP. -/
def execPlop (d a b c : BitVec 3) (table : BitVec 8) (st : BitVec 3) (s : State) : Host.Outcome State Fault Refusal :=
  issue (.plop d a b c table st) (fun x s => .done (vecWrite 2 (fun x s t =>
    { preds := [(d.toNat, plopBit table (s.readP x.now t a.toNat) (s.readP x.now t b.toNat) (s.readP x.now t c.toNat))] }) x s)) s
/-- R96 QPLOP. -/
def execQplop (d a b c : BitVec 3) (table : BitVec 8) (st : BitVec 3) (s : State) : Host.Outcome State Fault Refusal :=
  issue (.qplop d a b c table st) (fun x s => .done (uniWrite (.qplop d a b c table st) 2 (fun x s =>
    { preds := [(d.toNat, plopBit table (s.readQp x.now x.q a.toNat) (s.readQp x.now x.q b.toNat) (s.readQp x.now x.q c.toNat))] }) x s)) s

/-! ### Quire-wide operations (R97 to R101) -/

/-- The participants' lane ranks take part: lane i is in P. -/
def Ctx.inP (c : Ctx) (i : Nat) : Bool := c.takers.contains ⟨c.q, i⟩

/-- R97: VOTE's result. -/
def voteBit (kind : Nat) (bs : List Bool) : Bool :=
  match kind with
  | 0 => bs.all id
  | 1 => bs.any id
  | _ => bs.all id || !bs.any id

/-- R97 VOTE. -/
def execVote (kind : BitVec 2) (d a : BitVec 3) (st : BitVec 3) (s : State) : Host.Outcome State Fault Refusal :=
  issue (.vote kind d a st) (fun c s => .done (uniWrite (.vote kind d a st) 4 (fun c s =>
    { preds := [(d.toNat, voteBit kind.toNat (c.takers.map (fun t => s.readP c.now t a.toNat)))] }) c s)) s
/-- R97: BALLOT's mask. -/
def ballotWord (c : Ctx) (s : State) (a : Nat) : Word :=
  (List.range 32).foldl (fun w i => if c.inP i && s.readP c.now ⟨c.q, i⟩ a then w ||| BitVec.twoPow 32 i else w) 0
/-- R97 BALLOT. -/
def execBallot (d : Reg8) (a : BitVec 3) (st : BitVec 3) (s : State) : Host.Outcome State Fault Refusal :=
  issue (.ballot d a st) (fun c s => .done (uniWrite (.ballot d a st) 4 (fun c s => { writes := [(d.toNat, ballotWord c s a.toNat)] }) c s)) s

/-- R98: the source lane of lane i. -/
def lxchLane (kind n i src : Nat) : Int :=
  match kind with
  | 0 => src
  | 1 => (i : Int) - n
  | 2 => i + n
  | 3 => Nat.xor i n
  | _ => n
/-- R98 LXCH. -/
def execLxch (kind : BitVec 3) (d a b : Reg8) (p : BitVec 3) (n : BitVec 5) (st : BitVec 3) (s : State) : Host.Outcome State Fault Refusal :=
  issue (.lxch kind d a b p n st) (fun c s => .done (vecWrite 6 (fun c s t =>
    let j := lxchLane kind.toNat n.toNat t.lane (if kind = 0 then (s.readV c.now t b.toNat).toNat else 0)
    let ok := decide (0 ≤ j) && decide (j ≤ 31) && c.inP j.toNat
    { writes := [(d.toNat, s.readV c.now (if ok then ⟨c.q, j.toNat⟩ else t) a.toNat)], preds := [(p.toNat, ok)] }) c s)) s

/-- Table 4.4: op(x, y) with its flags. -/
def redOp (op : Nat) (x y : Word) : Word × Flags :=
  match op with
  | 0 => (x + y, 0)
  | 1 => (if x.toInt ≤ y.toInt then x else y, 0)
  | 2 => (if x.toNat ≤ y.toNat then x else y, 0)
  | 3 => (if x.toInt ≥ y.toInt then x else y, 0)
  | 4 => (if x.toNat ≥ y.toNat then x else y, 0)
  | 5 => (x &&& y, 0)
  | 6 => (x ||| y, 0)
  | 7 => (x ^^^ y, 0)
  | 8 => f32Add x y
  | 9 => f32MinMax false x y
  | _ => f32MinMax true x y
/-- Table 4.4: the identity. -/
def redId (op : Nat) : Word :=
  match op with
  | 1 => 0x7FFFFFFF | 2 => 0xFFFFFFFF | 3 => 0x80000000 | 5 => 0xFFFFFFFF
  | 8 => 0x80000000 | 9 => 0x7F800000 | 10 => 0xFF800000 | _ => 0

/-- R99: the lanes' values, the identity outside P. -/
def lanesOf (c : Ctx) (s : State) (op a : Nat) : List Word :=
  (List.range 32).map (fun i => if c.inP i then s.readV c.now ⟨c.q, i⟩ a else redId op)

/-- R99: one level of the pairwise tree. -/
def redPairs (op : Nat) : List Word → List Word × Flags
  | x :: y :: rest => let r := redOp op x y; let t := redPairs op rest; (r.1 :: t.1, r.2 ||| t.2)
  | _ => ([], 0)
/-- R99 QRED over 32 values. -/
def redTree (op : Nat) (xs : List Word) : Word × Flags :=
  let r := (List.range 5).foldl (fun (a : List Word × Flags) _ => let t := redPairs op a.1; (t.1, a.2 ||| t.2)) (xs, 0)
  (r.1.headD 0, r.2)
/-- R99: one doubling step at distance h. -/
def scanStep (op h : Nat) (xs : List Word) : List Word × Flags :=
  let rs := (List.range xs.length).map (fun i => if i < h then (xs.getD i 0, (0 : Flags)) else redOp op (xs.getD (i - h) 0) (xs.getD i 0))
  (rs.map (·.1), rs.foldl (fun f r => f ||| r.2) 0)
/-- R99 QSCAN over 32 values. -/
def scanAll (op : Nat) (xs : List Word) : List Word × Flags :=
  (List.range 5).foldl (fun (a : List Word × Flags) k => let t := scanStep op (2 ^ k) a.1; (t.1, a.2 ||| t.2)) (xs, 0)

/-- R99 QRED. -/
def execQred (op : BitVec 4) (d a : Reg8) (st : BitVec 3) (s : State) : Host.Outcome State Fault Refusal :=
  issue (.qred op d a st) (fun c s => .done (uniWrite (.qred op d a st) (if op.toNat < 8 then 8 else 12) (fun c s =>
    let r := redTree op.toNat (lanesOf c s op.toNat a.toNat)
    { writes := [(d.toNat, r.1)], flags := r.2 }) c s)) s
/-- R99 QSCAN. -/
def execQscan (op : BitVec 4) (d a : Reg8) (excl : Bool) (st : BitVec 3) (s : State) : Host.Outcome State Fault Refusal :=
  issue (.qscan op d a excl st) (fun c s => .done (vecWrite (if op.toNat < 8 then 10 else 14) (fun c s t =>
    let r := scanAll op.toNat (lanesOf c s op.toNat a.toNat)
    let w := if !excl then r.1.getD t.lane 0 else if t.lane = 0 then redId op.toNat else r.1.getD (t.lane - 1) 0
    { writes := [(d.toNat, w)], flags := if c.lead = t then r.2 else 0 }) c s)) s

/-- R101: the value that MATCH compares. -/
def matchVal (c : Ctx) (s : State) (wide : Bool) (a : Nat) (t : ThreadId) : DWord :=
  pairOf (s.readV c.now t a) (if wide then s.readV c.now t (a + 1) else 0)
/-- R101 MATCH. -/
def execMatch (wide : Bool) (d a : Reg8) (st : BitVec 3) (s : State) : Host.Outcome State Fault Refusal :=
  issue (.match_ wide d a st) (fun c s => .done (vecWrite 8 (fun c s t =>
    { writes := [(d.toNat, (List.range 32).foldl (fun w j =>
        if c.inP j && matchVal c s wide a.toNat ⟨c.q, j⟩ == matchVal c s wide a.toNat t then w ||| BitVec.twoPow 32 j else w) 0)] }) c s)) s

end Sys2Proof.Machine
end

