-- ==== Sys2Proof/Machine/Integer.lean ====
section
/-! DEFINITION. The meanings of the vector integer instructions, Table 2.6 and the long-immediate forms (chapter 05). -/

namespace Sys2Proof.Machine

/-- R114 ADD. -/
def execAdd (d a b : Reg7) (st : BitVec 3) (s : State) : Host.Outcome State Fault Refusal :=
  vec3 (.add d a b st) 4 opAdd d a b s
/-- R114 ADD.i32.sat. -/
def execAddI32Sat (d a b : Reg7) (st : BitVec 3) (s : State) : Host.Outcome State Fault Refusal :=
  vec3 (.addI32Sat d a b st) 4 opAddI32Sat d a b s
/-- R114 ADD.n32.sat. -/
def execAddN32Sat (d a b : Reg7) (st : BitVec 3) (s : State) : Host.Outcome State Fault Refusal :=
  vec3 (.addN32Sat d a b st) 4 opAddN32Sat d a b s
/-- R114 SUB. -/
def execSub (d a b : Reg7) (st : BitVec 3) (s : State) : Host.Outcome State Fault Refusal :=
  vec3 (.sub d a b st) 4 opSub d a b s
/-- R114 SUB.i32.sat. -/
def execSubI32Sat (d a b : Reg7) (st : BitVec 3) (s : State) : Host.Outcome State Fault Refusal :=
  vec3 (.subI32Sat d a b st) 4 opSubI32Sat d a b s
/-- R114 SUB.n32.sat. -/
def execSubN32Sat (d a b : Reg7) (st : BitVec 3) (s : State) : Host.Outcome State Fault Refusal :=
  vec3 (.subN32Sat d a b st) 4 opSubN32Sat d a b s
/-- R114 MIN.i32. -/
def execMinI32 (d a b : Reg7) (st : BitVec 3) (s : State) : Host.Outcome State Fault Refusal :=
  vec3 (.minI32 d a b st) 4 opMinI32 d a b s
/-- R114 MIN.n32. -/
def execMinN32 (d a b : Reg7) (st : BitVec 3) (s : State) : Host.Outcome State Fault Refusal :=
  vec3 (.minN32 d a b st) 4 opMinN32 d a b s
/-- R114 MAX.i32. -/
def execMaxI32 (d a b : Reg7) (st : BitVec 3) (s : State) : Host.Outcome State Fault Refusal :=
  vec3 (.maxI32 d a b st) 4 opMaxI32 d a b s
/-- R114 MAX.n32. -/
def execMaxN32 (d a b : Reg7) (st : BitVec 3) (s : State) : Host.Outcome State Fault Refusal :=
  vec3 (.maxN32 d a b st) 4 opMaxN32 d a b s
/-- R114 AND. -/
def execAnd (d a b : Reg7) (st : BitVec 3) (s : State) : Host.Outcome State Fault Refusal :=
  vec3 (.and d a b st) 4 opAnd d a b s
/-- R114 OR. -/
def execOr (d a b : Reg7) (st : BitVec 3) (s : State) : Host.Outcome State Fault Refusal :=
  vec3 (.or d a b st) 4 opOr d a b s
/-- R114 XOR. -/
def execXor (d a b : Reg7) (st : BitVec 3) (s : State) : Host.Outcome State Fault Refusal :=
  vec3 (.xor d a b st) 4 opXor d a b s
/-- R114 ANDN. -/
def execAndn (d a b : Reg7) (st : BitVec 3) (s : State) : Host.Outcome State Fault Refusal :=
  vec3 (.andn d a b st) 4 opAndn d a b s
/-- R117 SHL. -/
def execShl (d a b : Reg7) (st : BitVec 3) (s : State) : Host.Outcome State Fault Refusal :=
  vec3 (.shl d a b st) 4 opShl d a b s
/-- R117 SHR. -/
def execShr (d a b : Reg7) (st : BitVec 3) (s : State) : Host.Outcome State Fault Refusal :=
  vec3 (.shr d a b st) 4 opShr d a b s
/-- R117 SHRA. -/
def execShra (d a b : Reg7) (st : BitVec 3) (s : State) : Host.Outcome State Fault Refusal :=
  vec3 (.shra d a b st) 4 opShra d a b s
/-- R117 ROT. -/
def execRot (d a b : Reg7) (st : BitVec 3) (s : State) : Host.Outcome State Fault Refusal :=
  vec3 (.rot d a b st) 4 opRot d a b s
/-- R119 BFE.i32. -/
def execBfeI32 (d a b : Reg7) (st : BitVec 3) (s : State) : Host.Outcome State Fault Refusal :=
  vec3 (.bfeI32 d a b st) 4 opBfeI32 d a b s
/-- R119 BFE.n32. -/
def execBfeN32 (d a b : Reg7) (st : BitVec 3) (s : State) : Host.Outcome State Fault Refusal :=
  vec3 (.bfeN32 d a b st) 4 opBfeN32 d a b s
/-- R116 MUL. -/
def execMul (d a b : Reg7) (st : BitVec 3) (s : State) : Host.Outcome State Fault Refusal :=
  vec3 (.mul d a b st) 6 opMul d a b s
/-- R116 MULH.i32. -/
def execMulhI32 (d a b : Reg7) (st : BitVec 3) (s : State) : Host.Outcome State Fault Refusal :=
  vec3 (.mulhI32 d a b st) 6 opMulhI32 d a b s
/-- R116 MULH.n32. -/
def execMulhN32 (d a b : Reg7) (st : BitVec 3) (s : State) : Host.Outcome State Fault Refusal :=
  vec3 (.mulhN32 d a b st) 6 opMulhN32 d a b s
/-- R116 MAD, destructive. -/
def execMad (d a b : Reg7) (st : BitVec 3) (s : State) : Host.Outcome State Fault Refusal :=
  vec3d (.mad d a b st) 6 opMad d a b s
/-- R119 FUNNEL, destructive. -/
def execFunnel (d a b : Reg7) (st : BitVec 3) (s : State) : Host.Outcome State Fault Refusal :=
  vec3d (.funnel d a b st) 4 opFunnel d a b s
/-- R119 BFI, destructive. -/
def execBfi (d a b : Reg7) (st : BitVec 3) (s : State) : Host.Outcome State Fault Refusal :=
  vec3d (.bfi d a b st) 4 opBfi d a b s
/-- R119 BSWZ, destructive. -/
def execBswz (d a b : Reg7) (st : BitVec 3) (s : State) : Host.Outcome State Fault Refusal :=
  vec3d (.bswz d a b st) 4 opBswz d a b s
/-- R115 ADDC: carry in and out in p6. -/
def execAddc (d a b : Reg7) (st : BitVec 3) (s : State) : Host.Outcome State Fault Refusal :=
  vecInt (.addc d a b st) 4 opAddc (.one d.toNat) (.one a.toNat) (.one b.toNat) false (some 6) (some 6) s
/-- R115 SUBB: borrow in and out in p6. -/
def execSubb (d a b : Reg7) (st : BitVec 3) (s : State) : Host.Outcome State Fault Refusal :=
  vecInt (.subb d a b st) 4 opSubb (.one d.toNat) (.one a.toNat) (.one b.toNat) false (some 6) (some 6) s
/-- R116 MADW.i32: pair D, destructive. -/
def execMadwI32 (d a b : Reg7) (st : BitVec 3) (s : State) : Host.Outcome State Fault Refusal :=
  vecInt (.madwI32 d a b st) 6 opMadwI32 (.two d.toNat) (.one a.toNat) (.one b.toNat) true none none s
/-- R116 MADW.n32: pair D, destructive. -/
def execMadwN32 (d a b : Reg7) (st : BitVec 3) (s : State) : Host.Outcome State Fault Refusal :=
  vecInt (.madwN32 d a b st) 6 opMadwN32 (.two d.toNat) (.one a.toNat) (.one b.toNat) true none none s
/-- R120 NEG. -/
def execNeg (d a : Reg7) (st : BitVec 3) (s : State) : Host.Outcome State Fault Refusal :=
  vec2 (.neg d a st) 4 opNeg d a s
/-- R120 ABS. -/
def execAbs (d a : Reg7) (st : BitVec 3) (s : State) : Host.Outcome State Fault Refusal :=
  vec2 (.abs d a st) 4 opAbs d a s
/-- R120 POPC. -/
def execPopc (d a : Reg7) (st : BitVec 3) (s : State) : Host.Outcome State Fault Refusal :=
  vec2 (.popc d a st) 4 opPopc d a s
/-- R120 CLZ. -/
def execClz (d a : Reg7) (st : BitVec 3) (s : State) : Host.Outcome State Fault Refusal :=
  vec2 (.clz d a st) 4 opClz d a s
/-- R120 BREV. -/
def execBrev (d a : Reg7) (st : BitVec 3) (s : State) : Host.Outcome State Fault Refusal :=
  vec2 (.brev d a st) 4 opBrev d a s
/-- R121 ISET.i32. -/
def execIsetI32 (p : BitVec 3) (cond : BitVec 4) (a b : Reg7) (st : BitVec 3) (s : State) : Host.Outcome State Fault Refusal :=
  vecInt (.isetI32 p cond a b st) 4 (opIsetI32 cond) (.pred p.toNat) (.one a.toNat) (.one b.toNat) false none none s
/-- R121 ISET.n32. -/
def execIsetN32 (p : BitVec 3) (cond : BitVec 4) (a b : Reg7) (st : BitVec 3) (s : State) : Host.Outcome State Fault Refusal :=
  vecInt (.isetN32 p cond a b st) 4 (opIsetN32 cond) (.pred p.toNat) (.one a.toNat) (.one b.toNat) false none none s
/-- R121 ISET.i64. -/
def execIsetI64 (p : BitVec 3) (cond : BitVec 4) (a b : Reg7) (st : BitVec 3) (s : State) : Host.Outcome State Fault Refusal :=
  vecInt (.isetI64 p cond a b st) 6 (opIsetI64 cond) (.pred p.toNat) (.two a.toNat) (.two b.toNat) false none none s
/-- R121 ISET.n64. -/
def execIsetN64 (p : BitVec 3) (cond : BitVec 4) (a b : Reg7) (st : BitVec 3) (s : State) : Host.Outcome State Fault Refusal :=
  vecInt (.isetN64 p cond a b st) 6 (opIsetN64 cond) (.pred p.toNat) (.two a.toNat) (.two b.toNat) false none none s
/-- R118 ADD.64 on pairs. -/
def execAdd64 (d a b : Reg7) (st : BitVec 3) (s : State) : Host.Outcome State Fault Refusal :=
  vecInt (.add64 d a b st) 6 opAdd64 (.two d.toNat) (.two a.toNat) (.two b.toNat) false none none s
/-- R118 SUB.64 on pairs. -/
def execSub64 (d a b : Reg7) (st : BitVec 3) (s : State) : Host.Outcome State Fault Refusal :=
  vecInt (.sub64 d a b st) 6 opSub64 (.two d.toNat) (.two a.toNat) (.two b.toNat) false none none s
/-- R118 MUL.64 on pairs. -/
def execMul64 (d a b : Reg7) (st : BitVec 3) (s : State) : Host.Outcome State Fault Refusal :=
  vecInt (.mul64 d a b st) 12 opMul64 (.two d.toNat) (.two a.toNat) (.two b.toNat) false none none s
/-- R118 SHL.64 on pairs; the count is the single register B. -/
def execShl64 (d a b : Reg7) (st : BitVec 3) (s : State) : Host.Outcome State Fault Refusal :=
  vecInt (.shl64 d a b st) 6 opShl64 (.two d.toNat) (.two a.toNat) (.one b.toNat) false none none s
/-- R118 SHR.64 on pairs; the count is the single register B. -/
def execShr64 (d a b : Reg7) (st : BitVec 3) (s : State) : Host.Outcome State Fault Refusal :=
  vecInt (.shr64 d a b st) 6 opShr64 (.two d.toNat) (.two a.toNat) (.one b.toNat) false none none s
/-- R118 SHRA.64 on pairs; the count is the single register B. -/
def execShra64 (d a b : Reg7) (st : BitVec 3) (s : State) : Host.Outcome State Fault Refusal :=
  vecInt (.shra64 d a b st) 6 opShra64 (.two d.toNat) (.two a.toNat) (.one b.toNat) false none none s
/-- R124 ICVT: pairs where the selector says 64 bits. -/
def execIcvt (d a : Reg7) (sel : BitVec 7) (st : BitVec 3) (s : State) : Host.Outcome State Fault Refusal :=
  vecInt (.icvt d a sel st) (if icvtSrcWide sel || icvtDstWide sel then 6 else 4) (opIcvt sel)
    (if icvtDstWide sel then .two d.toNat else .one d.toNat) (if icvtSrcWide sel then .two a.toNat else .one a.toNat) .none
    false none none s
/-- R123 LEA.i32: pair D := pair A + B scaled. -/
def execLeaI32 (k : BitVec 2) (d a b : Reg7) (st : BitVec 3) (s : State) : Host.Outcome State Fault Refusal :=
  vecInt (.leaI32 k d a b st) 4 (opLeaI32 k) (.two d.toNat) (.two a.toNat) (.one b.toNat) false none none s
/-- R123 LEA.n32: pair D := pair A + B scaled. -/
def execLeaN32 (k : BitVec 2) (d a b : Reg7) (st : BitVec 3) (s : State) : Host.Outcome State Fault Refusal :=
  vecInt (.leaN32 k d a b st) 4 (opLeaN32 k) (.two d.toNat) (.two a.toNat) (.one b.toNat) false none none s
/-- R122 SEL: A when p holds, else B. -/
def execSel (p : BitVec 3) (d a b : Reg7) (st : BitVec 3) (s : State) : Host.Outcome State Fault Refusal :=
  vecInt (.sel p d a b st) 4 opSel (.one d.toNat) (.one a.toNat) (.one b.toNat) false (some p.toNat) none s

/-- The move of an immediate, as an integer operation on B (R122). -/
def opMovB (x : IntIn) : IntOut := out32 x.b32

/-- R112, R122 MOVI, long immediate. -/
def execMoviLi (d : Reg8) (imm : Word) (st : BitVec 3) (s : State) : Host.Outcome State Fault Refusal :=
  vecInt (.moviLi d imm st) 4 opMovB (.one d.toNat) .none (.imm imm) false none none s
/-- R112 ADD, long immediate in place of B. -/
def execAddLi (d a : Reg8) (imm : Word) (st : BitVec 3) (s : State) : Host.Outcome State Fault Refusal :=
  vecInt (.addLi d a imm st) 4 opAdd (.one d.toNat) (.one a.toNat) (.imm imm) false none none s
/-- R112 MUL, long immediate in place of B. -/
def execMulLi (d a : Reg8) (imm : Word) (st : BitVec 3) (s : State) : Host.Outcome State Fault Refusal :=
  vecInt (.mulLi d a imm st) 6 opMul (.one d.toNat) (.one a.toNat) (.imm imm) false none none s
/-- R112 MAD, long immediate in place of B. -/
def execMadLi (d a : Reg8) (imm : Word) (st : BitVec 3) (s : State) : Host.Outcome State Fault Refusal :=
  vecInt (.madLi d a imm st) 6 opMad (.one d.toNat) (.one a.toNat) (.imm imm) true none none s
/-- R112 AND, long immediate in place of B. -/
def execAndLi (d a : Reg8) (imm : Word) (st : BitVec 3) (s : State) : Host.Outcome State Fault Refusal :=
  vecInt (.andLi d a imm st) 4 opAnd (.one d.toNat) (.one a.toNat) (.imm imm) false none none s
/-- R112 OR, long immediate in place of B. -/
def execOrLi (d a : Reg8) (imm : Word) (st : BitVec 3) (s : State) : Host.Outcome State Fault Refusal :=
  vecInt (.orLi d a imm st) 4 opOr (.one d.toNat) (.one a.toNat) (.imm imm) false none none s
/-- R112 XOR, long immediate in place of B. -/
def execXorLi (d a : Reg8) (imm : Word) (st : BitVec 3) (s : State) : Host.Outcome State Fault Refusal :=
  vecInt (.xorLi d a imm st) 4 opXor (.one d.toNat) (.one a.toNat) (.imm imm) false none none s
/-- R112 ISET, long immediate in place of B. -/
def execIsetI32Li (p : BitVec 3) (cond : BitVec 4) (a : Reg8) (imm : Word) (st : BitVec 3) (s : State) : Host.Outcome State Fault Refusal :=
  vecInt (.isetI32Li p cond a imm st) 4 (opIsetI32 cond) (.pred p.toNat) (.one a.toNat) (.imm imm) false none none s
/-- R112 ISET, long immediate in place of B. -/
def execIsetN32Li (p : BitVec 3) (cond : BitVec 4) (a : Reg8) (imm : Word) (st : BitVec 3) (s : State) : Host.Outcome State Fault Refusal :=
  vecInt (.isetN32Li p cond a imm st) 4 (opIsetN32 cond) (.pred p.toNat) (.one a.toNat) (.imm imm) false none none s

end Sys2Proof.Machine
end

