-- ==== Sys2Proof/Machine/MatrixArith.lean ====
section
/-! DEFINITION. The arithmetic of a matrix pass as functions of operand values (R278 to R286, R301). -/

namespace Sys2Proof.Machine

/-- A value inside the array: magnitudes are counted, so a zero has no sign (R284). -/
inductive AVal where
  | nan
  | inf (neg : Bool)
  | fin (m : Int) (e : Int)
  deriving DecidableEq, Repr

/-- A value with the NV it raised. -/
abbrev AValNV := AVal × Bool

/-- A value as read by the array: a signalling BF16 or FP16 NaN sets NV (R284). -/
def AVal.ofFVal : FVal → AValNV
  | .nan s => (.nan, s)
  | .inf s => (.inf s, false)
  | .fin s m e => (.fin (signed s m) e, false)

/-- R284: an element code; a reserved code is NaN with NV, or 0 with NV in an INT32 pass. -/
def AVal.ofElem (int32 : Bool) (x : ElemVal) : AValNV :=
  if x.reserved then (if int32 then (.fin 0 0, true) else (.nan, true)) else AVal.ofFVal x.val

/-- The product of two array values; 0 × ∞ is invalid (R284). -/
def AVal.mul (x y : AVal) : AValNV :=
  match x, y with
  | .nan, _ => (.nan, false)
  | _, .nan => (.nan, false)
  | .inf s, .inf t => (.inf (s != t), false)
  | .inf s, .fin m _ => if m = 0 then (.nan, true) else (.inf (s != decide (m < 0)), false)
  | .fin m _, .inf s => if m = 0 then (.nan, true) else (.inf (s != decide (m < 0)), false)
  | .fin m e, .fin n g => (.fin (m * n) (e + g), false)

/-- The sum of two array values; ∞ − ∞ is invalid (R284). -/
def AVal.add (x y : AVal) : AValNV :=
  match x, y with
  | .nan, _ => (.nan, false)
  | _, .nan => (.nan, false)
  | .inf s, .inf t => if s == t then (.inf s, false) else (.nan, true)
  | .inf s, _ => (.inf s, false)
  | _, .inf s => (.inf s, false)
  | .fin m e, .fin n g =>
    let k := min e g
    (.fin (m * 2 ^ (e - k).toNat + n * 2 ^ (g - k).toNat) k, false)

/-- A zero. -/
def AVal.isZero : AVal → Bool | .fin m _ => m == 0 | _ => false
/-- An infinity. -/
def AVal.isInf : AVal → Bool | .inf _ => true | _ => false

/-- Product of two factors carrying NV. -/
def mulNV (x y : AValNV) : AValNV := let r := x.1.mul y.1; (r.1, x.2 || y.2 || r.2)
/-- R284: the exact product of a list of factors: NaN with NV when a zero and an infinity stand among them, whatever their
order and whatever NaN stands beside them. -/
def prodNV (xs : List AValNV) : AValNV :=
  let bad := xs.any (fun x => x.1.isZero) && xs.any (fun x => x.1.isInf)
  (if bad then .nan else xs.foldl (fun a x => (a.mul x.1).1) (.fin 1 0), bad || xs.any (·.2))
/-- R284: the exact sum of a list: NaN with NV when infinities of both signs stand in it, whatever NaN stands beside them. -/
def sumNV (xs : List AValNV) : AValNV :=
  let bad := xs.any (fun x => x.1 == .inf false) && xs.any (fun x => x.1 == .inf true)
  (if bad then .nan else xs.foldl (fun a x => (a.add x.1).1) (.fin 0 0), bad || xs.any (·.2))

/-- A scale code's value (R148, R149); a reserved code is NaN with NV. -/
def scaleVal (b : BScale) (code : Byte) : AValNV :=
  match b.value code.toNat with
  | some (m, e) => (.fin m e, false)
  | Option.none => (.nan, true)

/-- A band scale (R150), 1 where the slot has none. -/
def bandVal (on : Bool) (code : BitVec 16) : AValNV :=
  if on then AVal.ofFVal (decodeIeee fmtBF16 code.toNat) else (.fin 1 0, false)

/-- K elements per row (Table 12.1). -/
def passDepth (el : Elem) : Nat := 1024 / el.bits

/-- Elements `lo .. lo + len − 1` of a packed row, as array values. -/
def rowVals (int32 : Bool) (el : Elem) (ws : List Word) : List AValNV :=
  (List.range (passDepth el)).map fun k => AVal.ofElem int32 (el.read (elemAt el.bits ws k))

/-- The exact sum over one block (R282, R283). -/
def blockSum (a w : List AValNV) (lo len : Nat) : AValNV :=
  sumNV ((((a.drop lo).take len).zip ((w.drop lo).take len)).map fun p => mulNV p.1 p.2)

/-- Table 12.2: may a weight plane of record `w0` meet an activation slot? -/
def pairOk (w0 : Word) (act : Slot) : Bool :=
  let wt : Slot := { w0, seed := 0 }
  wt.elem.bits == act.elem.bits &&
  (wt.elem.bits != 16 || wt.elem == act.elem) &&
  (wt.elem.bits == 16 || wt.block == act.block) &&
  (!act.accInt || ((wt.elem == .i4 && act.elem == .i4 || wt.elem == .i8 && act.elem == .i8) && wt.bscale == .none && !wt.band))

/-- An array value as an exact number for rounding; an exact zero is +0 (R284). -/
def AVal.toExact (fl : Flags) : AVal → Exact
  | .nan => .nan fl
  | .inf s => .inf s fl
  | .fin m e => if m = 0 then .zero false fl else .fin (decide (m < 0)) { num := m.natAbs, den := 1, e } fl

/-- Round to binary32 with a mode (R285), with its flags. -/
def finishMode (mode : RoundMode) : Exact → Word × Flags
  | .fin neg r fl =>
    let o := fmtF32.round mode neg r
    if o.tooBig then (BitVec.ofNat 32 (fmtF32.infinity neg), fl ||| fOF ||| fNX)
    else (BitVec.ofNat 32 o.code, fl ||| flagIf (o.tiny && o.inexact) fUF ||| flagIf o.inexact fNX)
  | x => x.f32

/-- Add an exact number to a tile element with one rounding; a NaN sets no NV here (R284). -/
def accAdd (mode : RoundMode) (acc : Word) (x : AVal) : Word × Flags :=
  match readF32 acc, x with
  | .nan _, _ => (0x7FC00000, 0)
  | _, .nan => (0x7FC00000, 0)
  | .inf s, .inf t => if s == t then (acc, 0) else (0x7FC00000, fNV)
  | .inf _, _ => (acc, 0)
  | _, .inf t => (BitVec.ofNat 32 (fmtF32.infinity t), 0)
  | .fin s m e, .fin n g => finishMode mode (addFin s m e (decide (n < 0)) n.natAbs g 0)

/-- R282: the second addition, of the rounded u. -/
def accAddWord (mode : RoundMode) (acc u : Word) : Word × Flags :=
  match readF32 acc, readF32 u with
  | .nan _, _ => (0x7FC00000, 0)
  | _, .nan _ => (0x7FC00000, 0)
  | .inf s, .inf t => if s == t then (acc, 0) else (0x7FC00000, fNV)
  | .inf _, _ => (acc, 0)
  | _, .inf _ => (u, 0)
  | .fin s m e, .fin t n g => finishMode mode (addFin s m e t n g 0)

/-- What a pass needs besides the rows: the weight plane's record and scales, the activation slot and its scales. -/
structure PassIn where
  wt     : Slot
  act    : Slot
  team   : Word
  wrows  : List (List Word)
  wscale : List Byte
  wband  : List (BitVec 16)
  aband  : List (BitVec 16)
  deriving DecidableEq, Repr

/-- R282, R283, R285: one output element, from its activation row, block scales and old value. -/
def passElem (p : PassIn) (wvals : List AValNV) (avals : List AValNV) (ascale : List Byte) (t n : Nat) (acc : Word) :
    Word × Flags :=
  let el := p.act.elem
  let int32 := p.act.accInt
  let bk := if el.bits = 16 then 8 else p.act.block
  let nb := passDepth el / bk
  let bands := [bandVal p.act.band (p.aband.getD (t / 64) 0), bandVal p.wt.band (p.wband.getD (n / 64) 0)]
  let mode (acc : Word) : RoundMode :=
    if p.act.stochastic then .stochastic (srHash p.act.seed p.team 0 (BitVec.ofNat 32 (256 * t + n)) acc) else .rne
  if int32 then
    let s := sumNV ((List.range nb).map fun j => blockSum avals wvals (j * bk) bk)
    match s.1 with
    | .fin m e => (acc + BitVec.ofInt 32 (m * 2 ^ e.toNat), flagIf s.2 fNV)
    | _ => (acc, flagIf s.2 fNV)
  else if el.bits = 16 then
    (List.range nb).foldl (fun (st : Word × Flags) j =>
      let x := prodNV (blockSum avals wvals (j * bk) bk :: bands)
      let r := accAdd (mode st.1) st.1 x.1
      (r.1, st.2 ||| r.2 ||| flagIf x.2 fNV)) (acc, 0)
  else
    let ps := (List.range nb).map fun j =>
      prodNV [blockSum avals wvals (j * bk) bk, scaleVal p.act.bscale (ascale.getD j 0),
        scaleVal p.wt.bscale (p.wscale.getD (32 * n + j) 0)]
    let t' := prodNV (sumNV ps :: bands)
    let u := (t'.1.toExact (flagIf t'.2 fNV)).f32
    let r := accAddWord (mode acc) acc u.1
    (r.1, u.2 ||| r.2)

/-- One tile row of a pass. -/
def passRow (p : PassIn) (wvals : List (List AValNV)) (arow : List Word) (ascale : List Byte) (t : Nat) (accRow : List Word) :
    List Word × Flags :=
  let av := rowVals p.act.accInt p.act.elem arow
  let es := (List.range 256).map fun n => passElem p (wvals.getD n []) av ascale t n (accRow.getD n 0)
  (es.map (·.1), es.foldl (fun f e => f ||| e.2) 0)

/-- R280, `.t`: the tile rows n from K rows of 256 elements. -/
def transposeTile (el : Elem) (ks : List (List Word)) : List (List Word) :=
  (List.range 256).map fun n => packWords el.bits ((List.range (passDepth el)).map fun k => elemAt el.bits (ks.getD k []) n) 32

/-- R286: one entry of the checksum column; none when an element of the column is a NaN or an infinity. -/
def checkEntry (el : Elem) (rows : List (List Word)) (k : Nat) : Option (Bool × Nat × Int) :=
  match (sumNV (rows.map fun r => AVal.ofElem false (el.read (elemAt el.bits r k)))).1 with
  | .fin m e => some (decide (m < 0), m.natAbs, e)
  | _ => Option.none

/-- R301: a binary32 tile element narrowed to bfloat16. -/
def drainBf16 (x : Word) : BitVec 16 :=
  match readF32 x with
  | .nan _ => 0x7FC0
  | v => BitVec.ofNat 16 ((v.exact 0).finish fmtBF16).1

/-- Table 9.6 `badd`: bfloat16 halves added as PKFMA.bf16 with factor 1.0 (R143). -/
def baddWord (a b : Word) : Word := (pkFmaBf a 0x3F803F80 b).1

/-- One bfloat16 half of `badd`. -/
def baddHalf (a b : BitVec 16) : BitVec 16 := (baddWord (a.setWidth 32) (b.setWidth 32)).setWidth 16

end Sys2Proof.Machine
end

