-- ==== Sys2Proof/Machine/Atomics.lean ====
section
/-! DEFINITION. Slice atomics, stamps and network reductions: the instructions of chapter 09 and what the slices do for them
(R218 to R234). -/

namespace Sys2Proof.Machine

/-! ### The slice's part of a request -/

/-- Two requests are for the same line. -/
def Req.sameLine (x y : Req) : Bool := x.k == y.k && x.line == y.line && x.part == y.part && x.slice == y.slice

/-- R212: the request that stands first in the wait queue of a line, of those that no earlier request of their leaf precedes
(R210). -/
def State.queueHead (s : State) (r : Req) : Option Req :=
  let q := s.net.filter (fun x => x.stage == .sent && x.joined != 0 && x.sameLine r && s.isFirst x)
  q.find? (fun x => q.all (fun y => decide (x.joined ≤ y.joined)))

/-- A request that its slice may take now: sent, first of its leaf on its line (R210), and next in the line's wait queue
where one stands (R212). -/
def State.atSlice (s : State) (r : Req) : Bool :=
  r.stage == .sent && s.isFirst r && (match s.queueHead r with | some x => x.id == r.id | none => true)

/-- The quire of a request, for the replay log: that whose stores a write-back carries, else that of its first item. -/
def Req.quire? (r : Req) : Option Nat := match r.owner with | some q => some q | none => r.items.head?.map (fun it => it.thread.quire)

/-- R391: carry out an operation of a quire's grid at an ordering point, or hold it, or kill the grid; `src` and `tag` are
what the log records. -/
def State.gatedAt (s : State) (q point src tag : Nat) (k : State → State) : State :=
  match s.replayCheck q point src with
  | none => s
  | some false => s.killReplay q
  | some true => k (s.replayNote q point src tag)

/-- R391: an update of a line by a request. -/
def State.gated (s : State) (r : Req) (k : State → State) : State :=
  match r.quire? with
  | none => k s
  | some q => s.gatedAt q (linePoint r.k r.line) (leafOf r.core) (s.ordOf r.slice).toNat k

/-- R385: every gang that takes data of a poisoned line consumes it. -/
def State.consumeAll (s : State) (r : Req) : State :=
  if r.k then s else r.items.foldl (fun s it => s.consume (s.gangOf it.thread.quire) r.line) s

/-- A request has been applied: its reply is on the way back. -/
def State.replied (s : State) (id : Nat) (items : List Item) (fault : Option Trap) : State :=
  s.modReq id (fun r => { r with stage := .replied, items := items, fault := fault })

/-! ### Atomics (R219, R220) -/

/-- Table 9.6 on one element of n bits; floats and packed halves are 32-bit operations. -/
def atomElem {n : Nat} (op : Nat) (old b : BitVec n) : BitVec n :=
  match op with
  | 0 => old + b
  | 1 => old - b
  | 2 => if old.toInt ≤ b.toInt then old else b
  | 3 => if old.toNat ≤ b.toNat then old else b
  | 4 => if old.toInt ≥ b.toInt then old else b
  | 5 => if old.toNat ≥ b.toNat then old else b
  | 6 => old &&& b
  | 7 => old ||| b
  | 8 => old ^^^ b
  | 9 => b
  | 10 => if old.toNat ≥ b.toNat then 0 else old + 1
  | 11 => if old.toNat = 0 ∨ old.toNat > b.toNat then b else old - 1
  | _ => old

/-- Table 9.6 on a 32-bit element. -/
def atomWord (op : Nat) (old b : Word) : Word :=
  match op with
  | 12 => (f32Add old b).1
  | 13 => (f32MinMax true old b).1
  | 14 => (pkFmaBf old 0x3F803F80 b).1
  | _ => atomElem op old b

/-- Table 9.6 on the bytes of an access of width W. -/
def atomBytes (op w : Nat) (old b : List Byte) : List Byte :=
  match w with
  | 0 => leBytes 4 (atomWord op (BitVec.ofNat 32 (leNat old)) (BitVec.ofNat 32 (leNat b))).toNat
  | 1 => leBytes 8 (atomElem op (BitVec.ofNat 64 (leNat old)) (BitVec.ofNat 64 (leNat b))).toNat
  | _ => ((bytesWords old).zip (bytesWords b)).flatMap (fun x => leBytes 4 (atomWord op x.1 x.2).toNat)

/-- R220: one thread's atomic at the home slice; the item gets the old value. -/
def State.atomItem (s : State) (r : Req) (op w : Nat) (cas : Bool) (it : Item) : State × Item :=
  let a := r.byteAddr + it.off
  let old := s.sliceBytes r.part r.k a it.size
  let it' := { it with res := old }
  if cas then
    if old = it.data.take it.size then (s.updateFor r it.off (it.data.drop it.size), it') else (s, it')
  else (s.updateFor r it.off (atomBytes op w old it.data), it')

/-- R220: the atomics of a request one after another in rising lane rank. -/
def State.atomAll (s : State) (r : Req) (op w : Nat) (cas : Bool) : State × List Item :=
  r.items.foldl (fun (a : State × List Item) it => let x := a.1.atomItem r op w cas it; (x.1, a.2 ++ [x.2])) (s, [])

/-- Carry out an atomic request at its slice. -/
def State.applyAtomic (s : State) (r : Req) (op w : Nat) (cas : Bool) : State :=
  s.gated r (fun s =>
    let s := s.consumeAll r
    let x := s.atomAll r op w cas
    let wrote := x.1.ordOf r.slice != s.ordOf r.slice
    (if r.k then x.1 else if wrote then x.1.touchWrite r.slice r.line r.prio r.cls else x.1.touchTag r.slice r.line r.prio r.cls).replied r.id x.2 none)

/-- SLICE_ATOMIC_APPLY (R220): an ATOM, CAS or ATOMQ at its home slice. -/
def execSliceAtomicApply (req : Nat) (s : State) : Host.Outcome State Fault Refusal :=
  event (fun s => match s.req? req with
    | some r => (match r.kind with
      | .atomic op w cas true => if s.atSlice r then s.applyAtomic r op w cas else s
      | _ => s)
    | none => s) s

/-- The request of an atomic access. -/
def atomReq (c : Ctx) (s : State) (m : AtomF) (cas reply : Bool) (id : Nat) : Req :=
  { Req.blank c.g.core (s.partOfCore c.g.core) with
    op := id, kind := .atomic m.op.toNat m.w.toNat cas reply, prio := m.ep.toNat, noAlloc := m.ep == 3 }

/-- The operation of an atomic access (R222): acquire-release is a release before it and an acquire after it. -/
def atomOp (c : Ctx) (m : AtomF) (uniform reads : Bool) (dests : List RegId) (id : Nat) : Op :=
  { c.newOp id .mem c.takers with
    rel := match m.order with | .rel | .acqrel => m.scope | _ => .none,
    acq := match m.order with | .acq | .acqrel => m.scope | _ => .none,
    reads := reads, dests := dests, uniform := uniform }

/-- The space of an atomic. -/
def gkSpace (k : Bool) : Space := if k then .k else .g
/-- R218: access size of width W. -/
def atomSize (w : BitVec 2) : Nat := 4 <<< w.toNat

/-- ATOM, CAS and RED (R218 to R223); checked execution guards the operands and addresses, and the slice's update is made
once (R223). -/
def atomV (i : Instr) (m : AtomF) (cas reply : Bool) (s : State) : Host.Outcome State Fault Refusal :=
  issueWith i true 0 (checkedBody 24 fun c s =>
    let n := atomSize m.w
    let dests := if reply then span m.d.toNat (atomRegs m.w) else []
    let chk := checkAll c.takers (fun t => s.checkAccess t (if reply then .rw else .write) (gkSpace m.k)
      (s.baseOf c (gkSpace m.k) m.a + s.vIdx c t m.b * n + m.imm.toInt) n n)
    issueAccess c chk (atomOp c m false reply (dests.map RegId.v))
      (fun id => groupLines (atomReq c s m cas reply id) (fun tgt ch =>
        { thread := tgt.thread, off := ch.place.off, size := n, data := s.vBytes c.now tgt.thread m.d.toNat (if cas then 2 * n else n),
          regs := dests.map RegId.v, ext := .w32, own := [], res := [] }))
      (fun id s => chk.go.foldl (fun s t => s.markV c.now t.thread dests id) s) s) s

/-- ATOM (0xB0). -/
def execAtom (h : Hdr) (m : AtomF) (s : State) : Host.Outcome State Fault Refusal := atomV (.atom h m) m false true s
/-- CAS (0xB1). -/
def execCas (h : Hdr) (m : AtomF) (s : State) : Host.Outcome State Fault Refusal := atomV (.cas h m) m true true s
/-- RED (0xB2). -/
def execRed (h : Hdr) (m : AtomF) (s : State) : Host.Outcome State Fault Refusal := atomV (.red h m) m false false s
/-- ATOMQ (0xB3), once for the gathering. -/
def execAtomq (h : Hdr) (m : AtomF) (s : State) : Host.Outcome State Fault Refusal :=
  issueWith (.atomq h m) true 0 (checkedBody 24 fun c s =>
    let n := atomSize m.w
    let chk := spreadTraps c (checkAll [c.lead] (fun t => s.checkAccess t .rw (gkSpace m.k)
      (s.baseOf c (gkSpace m.k) m.a + s.qIdx c m.b * n + m.imm.toInt) n n))
    let dests := (span m.d.toNat (atomRegs m.w)).map (fun r => RegId.q (qName c.hand r))
    issueAccess c chk (atomOp c m true true dests)
      (fun id => groupLines (atomReq c s m false true id) (fun tgt ch =>
        { thread := tgt.thread, off := ch.place.off, size := n, data := s.qBytes c m.d.toNat n, regs := dests, ext := .w32,
          own := [], res := [] }))
      (fun id s => s.markQ c.now c.q c.hand (span m.d.toNat (atomRegs m.w)) id) s) s

/-! ### Stamps (R224 to R230) -/

/-- What a stamp runs on (R227): the line, the payload, T0 to T3, M0 to M3. -/
structure StampSt where
  l : List Word
  a : List Word
  t : List (List Word)
  m : List Word
  deriving DecidableEq, Repr

/-- R227: the state at entry. -/
def StampSt.entry (l a : List Word) : StampSt :=
  { l := l, a := a, t := List.replicate 4 (List.replicate 32 0), m := List.replicate 4 0xFFFFFFFF }

/-- Fields of a stamp instruction word (Table 9.9). -/
structure StampWord where
  sop : Nat
  dst : Nat
  sa  : Nat
  sb  : Nat
  msk : Nat
  imm : BitVec 16
  deriving DecidableEq, Repr

/-- Table 9.9. -/
def stampDecode (w : Word) : StampWord :=
  { sop := (w.extractLsb' 27 5).toNat, dst := (w.extractLsb' 24 3).toNat, sa := (w.extractLsb' 21 3).toNat,
    sb := (w.extractLsb' 18 3).toNat, msk := (w.extractLsb' 16 2).toNat, imm := w.extractLsb' 0 16 }

/-- The operation reads SA. -/
def StampWord.readsA (w : StampWord) : Bool := decide (w.sop < 21)
/-- The operation reads SB. -/
def StampWord.readsB (w : StampWord) : Bool := decide (w.sop < 21) && w.sop != 0
/-- The operation writes DST as a destination. -/
def StampWord.writesDst (w : StampWord) : Bool := decide (w.sop < 22) && w.sop != 18
/-- The operation reads IMM16. -/
def StampWord.readsImm (w : StampWord) : Bool :=
  decide (22 ≤ w.sop) || (w.readsA && decide (6 ≤ w.sa)) || (w.readsB && decide (6 ≤ w.sb))

/-- Table 9.11, subcodes 3 and 4: 0 when the word may run. An smset whose DST[2:1] is not zero gives 4 (DEDUCED). The spec
gives the two subcodes no order and does not say whether bits [15:4] of an AW operand's IMM16 must be zero: of a word with
both faults the model reports 3, and it ignores those bits (log entry 92). -/
def StampWord.fault (w : StampWord) : Nat :=
  if w.sop ≥ 24 || (w.writesDst && decide (w.dst ≥ 5)) then 3
  else if (w.readsA && w.readsB && decide (6 ≤ w.sa) && decide (6 ≤ w.sb)) || (!w.readsA && w.sa != 0) || (!w.readsB && w.sb != 0) ||
      (!w.readsImm && w.imm != 0) || (w.sop == 22 && decide (w.dst ≥ 2)) ||
      (w.sop == 23 && (w.dst != 0 || w.msk != 0 || decide (w.imm.toNat ≥ 2))) then 4
  else 0

/-- An operand's lane value (Table 9.9). -/
def StampSt.operand (x : StampSt) (imm : BitVec 16) (code lane : Nat) : Word :=
  match code with
  | 0 => x.l.getD lane 0
  | 5 => x.a.getD (lane % 16) 0
  | 6 => x.a.getD (imm.toNat % 16) 0
  | 7 => imm.signExtend 32
  | k => (x.t.getD (k - 1) []).getD lane 0

/-- A bfloat16 half operation of R138 or R137 in each half: through binary32, whose high half a bfloat16 is. -/
def bfHalves (f : Word → Word → Word) (a b : Word) : Word :=
  let hi := f (a &&& 0xFFFF0000) (b &&& 0xFFFF0000)
  let lo := f (a <<< 16) (b <<< 16)
  (hi &&& 0xFFFF0000) ||| (lo >>> 16)

/-- Table 9.10, operations 0 to 17 on lane values. -/
def stampOp (sop : Nat) (a b : Word) : Word :=
  match sop with
  | 0 => a
  | 1 => a + b
  | 2 => a - b
  | 3 => if a.toInt ≤ b.toInt then a else b
  | 4 => if a.toNat ≤ b.toNat then a else b
  | 5 => if a.toInt ≥ b.toInt then a else b
  | 6 => if a.toNat ≥ b.toNat then a else b
  | 7 => a &&& b
  | 8 => a ||| b
  | 9 => a ^^^ b
  | 10 => shlW a b.toNat
  | 11 => shrW a b.toNat
  | 12 => (f32Add a b).1
  | 13 => (f32MinMax false a b).1
  | 14 => (f32MinMax true a b).1
  | 15 => (pkFmaBf a 0x3F803F80 b).1
  | 16 => bfHalves (fun x y => (f32MinMax false x y).1) a b
  | _ => bfHalves (fun x y => (f32MinMax true x y).1) a b

/-- Table 9.10, scmp conditions. -/
def stampCompare (cond : Nat) (a b : Word) : Bool :=
  match cond with
  | 0 => a == b
  | 1 => a != b
  | 2 => decide (a.toInt < b.toInt)
  | 3 => decide (a.toInt ≥ b.toInt)
  | 4 => decide (a.toNat < b.toNat)
  | 5 => decide (a.toNat ≥ b.toNat)
  | 6 => (f32Set 2 a b).1
  | _ => (f32Set 5 a b).1

/-- Number of ones. -/
def popcount (w : Word) : Nat := ((List.range 32).filter (fun i => w.getLsbD i)).length

/-- Lanes of a destination written where the mask has ones. -/
def maskLanes (m : Word) (old : List Word) (f : Nat → Word) : List Word :=
  (List.range 32).map (fun j => if m.getLsbD j then f j else old.getD j 0)

/-- Write a destination. -/
def StampSt.put (x : StampSt) (dst : Nat) (m : Word) (f : Nat → Word) : StampSt :=
  if dst = 0 then { x with l := maskLanes m x.l f }
  else { x with t := x.t.modify (dst - 1) (fun old => maskLanes m old f) }

/-- A mask from a bit per lane. -/
def maskOf (f : Nat → Bool) : Word := (List.range 32).foldl (fun w j => if f j then w ||| BitVec.twoPow 32 j else w) 0

/-- One stamp instruction that is neither sret nor a fault (Table 9.10). -/
def StampSt.step (x : StampSt) (w : StampWord) : StampSt :=
  let a := x.operand w.imm w.sa
  let b := x.operand w.imm w.sb
  let m := x.m.getD w.msk 0
  match w.sop with
  | 18 => { x with m := x.m.set w.msk (maskOf (fun j => stampCompare w.dst (a j) (b j))) }
  | 19 => x.put w.dst 0xFFFFFFFF (fun j => if m.getLsbD j then a j else b j)
  | 20 => x.put w.dst m (fun j => a ((b j).toNat % 32))
  | 21 => x.put w.dst m (fun _ => BitVec.ofNat 32 (popcount m))
  | 22 =>
    let half : Word := if w.dst = 0 then (m.extractLsb' 16 16 ++ w.imm : BitVec (16 + 16)) else (w.imm ++ m.extractLsb' 0 16 : BitVec (16 + 16))
    { x with m := x.m.set w.msk half }
  | k => x.put w.dst m (fun j => stampOp k (a j) (b j))

/-- How a stamp ended: with its line, discarded, or a STAMPF subcode. -/
inductive StampEnd where
  | commit (l : List Word) | discard | fault (sub : Nat)
  deriving DecidableEq, Repr

/-- R228, R229: run the instructions in order; a discarded run gives up every change to L. -/
def StampSt.run (x : StampSt) : List Word → StampEnd
  | [] => .commit x.l
  | w :: ws =>
    let f := stampDecode w
    if f.fault ≠ 0 then .fault f.fault
    else if f.sop = 23 then (if f.imm.getLsbD 0 then .discard else .commit x.l)
    else (x.step f).run ws

/-- Table 9.8: V and the reserved fields. -/
def stampEntryOk (e : BitVec 128) : Bool :=
  e.getLsbD 63 && e.extractLsb' 64 64 == 0 && e.extractLsb' 54 9 == 0 && e.extractLsb' 0 7 == 0
/-- CODE as a line number. -/
def stampCodeLine (e : BitVec 128) : Nat := (e.extractLsb' 7 41).toNat
/-- LEN + 1. -/
def stampLen (e : BitVec 128) : Nat := (e.extractLsb' 48 5).toNat + 1
/-- POST. -/
def stampPost (e : BitVec 128) : Bool := e.getLsbD 53

/-- R224: the address of an entry of a partition's stamp table. -/
def State.stampAddr (s : State) (part idx : Nat) : Nat := (s.part part).stBase + 16 * idx

/-- R224, R229: the entry and code that a slice uses: a cached copy, which it may keep or read afresh (R226), or the table's; a
table in another partition's memory gives no entry (R24). -/
def State.stampFetch (s : State) (part sl idx : Nat) : Except Nat (StampEntry) :=
  let cached := (s.slices.getD sl Slice.reset).stamps.find? (fun e => e.part == part && e.index == idx)
  match cached, Config.freeBool s.tick (sl * 64 + idx) with
  | some e, true => .ok e
  | _, _ =>
    let a := s.stampAddr part idx
    let e := if s.partOfPa a = part then BitVec.ofNat 128 (leNat (s.memBytes a 16)) else 0
    if !stampEntryOk e then .error 1
    else
      let line := stampCodeLine e
      if s.partOfPa (line * 128) ≠ part ∨ s.poison.contains line then .error 2
      else .ok { part := part, index := idx, entry := e, code := (bytesWords (s.memBytes (line * 128) 128)).take (stampLen e) }

/-- R224: a slice keeps an entry, at most 16: of a seventeenth's sixteen the one used longest ago goes, which the spec leaves open
(log entry 102). -/
def State.stampKeep (s : State) (sl : Nat) (e : StampEntry) : State :=
  s.modSlice sl (fun x => { x with stamps := (e :: x.stamps.filter (fun y => !(y.part == e.part && y.index == e.index))).take 16 })

/-- R229: one thread's run on the line; the item gets its reply. -/
def State.stampItem (s : State) (r : Req) (e : StampEntry) (k first : Nat) (it : Item) : State × Except Nat Item :=
  let pre := bytesWords (s.sliceBytes r.part r.k r.byteAddr 128)
  let a := bytesWords it.data ++ List.replicate (16 - it.data.length / 4) 0
  let img := fun (l : List Word) => (((if stampPost e.entry then l else pre).drop first).take k).flatMap (fun w => leBytes 4 w.toNat)
  match (StampSt.entry pre a).run e.code with
  | .fault sub => (s, .error sub)
  | .discard => (s, .ok { it with res := img pre })
  | .commit l => (s.updateFor r 0 (l.flatMap (fun w => leBytes 4 w.toNat)), .ok { it with res := img l })

/-- The runs of a request in rising lane rank; a fault is the same for every one of them, since the code has no branch. -/
def State.stampAll (s : State) (r : Req) (e : StampEntry) (k first : Nat) : State × Except Nat (List Item) :=
  r.items.foldl (fun (a : State × Except Nat (List Item)) it =>
    match a.2 with
    | .error _ => a
    | .ok done =>
      let x := a.1.stampItem r e k first it
      (x.1, match x.2 with | .error sub => .error sub | .ok it => .ok (done ++ [it]))) (s, .ok [])

/-- R229: reply words of a reply code. -/
def stampWords (reply : Nat) : Nat := stampReply (BitVec.ofNat 2 reply)

/-- R212: while a stamp holds a line, the other requests for it join the line's wait queue, behind those that stand in it; the
requests beyond 256 are refused. Which requests have reached the slice by then is open: the model counts every one that has
been sent, in the order of sending (log entry 93); none joins before an earlier one of its leaf (R210). -/
def State.refuseWaiters (s : State) (r : Req) : State :=
  let mine := s.net.filter (fun x => x.id != r.id && x.waiting && x.sameLine r)
  let room := 256 - (mine.filter (fun x => x.stage == .sent && x.joined != 0)).length
  -- those that join, and the leaves whose later requests stay behind a refused one
  let fate := mine.foldl (fun (a : List Nat × List Nat) x =>
    if x.stage == .sent && x.joined != 0 then a
    else if x.stage == .sent && !a.2.contains (leafOf x.core) && decide (a.1.length < room) then (a.1 ++ [x.id], a.2)
    else (a.1, leafOf x.core :: a.2)) ([], [])
  { s with net := s.net.map (fun x =>
      if fate.1.contains x.id then { x with joined := s.tick }
      else if x.id != r.id && x.waiting && x.sameLine r && x.stage == .sent && x.joined == 0 then { x with stage := .refused } else x) }

/-- STAMP_RUN (R229, R230). -/
def State.runStamp (s : State) (r : Req) (idx reply first : Nat) : State :=
  s.gated r (fun s =>
    match s.stampFetch r.part r.slice idx with
    | .error sub =>
      let s := if s.partOfPa (s.stampAddr r.part idx) = r.part then s else s.discardAccess r.part
      s.replied r.id r.items (some { code := .stampf, detail := sub })
    | .ok e =>
      let s := (((if r.k then s else s.askFor r.slice r.line r.cls).stampKeep r.slice e).consumeAll r).refuseWaiters r
      let x := s.stampAll r e (stampWords reply) first
      match x.2 with
      | .error sub => s.replied r.id r.items (some { code := .stampf, detail := sub })
      | .ok items => (if r.k || x.1.ordOf r.slice == s.ordOf r.slice then x.1 else x.1.dirtyTag r.slice r.line r.cls).replied r.id items none)

/-- STAMP_RUN (R229). -/
def execStampRun (req : Nat) (s : State) : Host.Outcome State Fault Refusal :=
  event (fun s => match s.req? req with
    | some r => (match r.kind with
      | .stamp idx reply first => if s.atSlice r then s.runStamp r idx reply first else s
      | _ => s)
    | none => s) s

/-- STAMP (0xB4, R229): the thread is held until the verdict, so that STAMPF stays precise (R11). -/
def execStamp (h : Hdr) (k : Bool) (reply : BitVec 2) (n : BitVec 5) (idx : BitVec 6) (r : BitVec 5) (d a b : Reg8) (s : State) :
    Host.Outcome State Fault Refusal :=
  issue (.stamp h k reply n idx r d a b) (fun c s =>
    let chk := checkAll c.takers (fun t => s.checkAccess t .write (gkSpace k) (s.baseOf c (gkSpace k) a + s.vIdx c t b * 128) 128 128)
    let dests := span d.toNat (stampReply reply)
    issueAccess c chk (fun id => { c.newOp id .stamp c.takers with reads := true, dests := dests.map RegId.v })
      (fun id => groupLines { Req.blank c.g.core (s.partOfCore c.g.core) with op := id, kind := .stamp idx.toNat reply.toNat r.toNat }
        (fun tgt _ => { thread := tgt.thread, off := 0, size := 128, data := s.vBytes c.now tgt.thread d.toNat (4 * n.toNat),
                        regs := dests.map RegId.v, ext := .w32, own := [], res := [] }))
      (fun id s => (chk.go.foldl (fun s t => s.markV c.now t.thread dests id) s).parkAt c.g (chk.go.map (·.thread)) c.next (.op id)) s) s

/-- STAMPSYNC (0xB5, R226): held as a release at `.dv`; then every slice of the partition is to drop its copy. -/
def execStampsync (h : Hdr) (all : Bool) (idx : BitVec 6) (s : State) : Host.Outcome State Fault Refusal :=
  issue (.stampsync h all idx) (fun c s =>
    let (id, s) := s.fresh
    let left := (s.part (s.partOfCore c.g.core)).units.slices
    .done (s.addOp { c.newOp id (.stampsync all idx.toNat left) c.takers with rel := .dv, phase := .relWait })) s

/-- STAMP_CACHE_DROP (R226): a slice drops its copies and acknowledges; the last acknowledgement completes STAMPSYNC. -/
def execStampCacheDrop (op slice : Nat) (s : State) : Host.Outcome State Fault Refusal :=
  event (fun s => match s.op? op with
    | some o => (match o.kind with
      | .stampsync all idx left =>
        if o.phase == .active && left.contains slice then
          let part := s.partOfCore o.core
          let s := s.modSlice slice (fun x => { x with stamps := x.stamps.filter (fun e => !(e.part == part && (all || e.index == idx))) })
          let left := left.filter (· != slice)
          if left.isEmpty then s.complete op else s.modOp op (fun o => { o with kind := .stampsync all idx left })
        else s
      | _ => s)
    | none => s) s

/-! ### Network reduction (R231 to R234) -/

/-- NRED (0xB6, R231): one arrival for the gathering; it is held until the arrival is counted, so that NREDF stays precise. -/
def execNred (h : Hdr) (op : BitVec 4) (d a b n : Reg8) (s : State) : Host.Outcome State Fault Refusal :=
  issue (.nred h op d a b n) (fun c s =>
    let chk := spreadTraps c (checkAll [c.lead] (fun t => s.checkAccess t .write .g (s.baseOf c .g a) 128 128))
    let dest := RegId.q (qName c.hand d.toNat)
    issueAccess c chk (fun id => { c.newOp id .nred c.takers with dests := [dest], uniform := true })
      (fun id => groupLines { Req.blank c.g.core (s.partOfCore c.g.core) with
          op := id, kind := .nred op.toNat (s.readQ c.now c.hand c.q n.toNat).toNat }
        (fun tgt _ => { thread := tgt.thread, off := 0, size := 4, data := leBytes 4 (s.readQ c.now c.hand c.q b.toNat).toNat,
                        regs := [dest], ext := .w32, own := [], res := [] }))
      (fun id s => (s.markQ c.now c.q c.hand [d.toNat] id).parkAt c.g c.takers c.next (.op id)) s) s

/-- The value of an arrival. -/
def Req.nredValue (r : Req) : Word := match r.items with | it :: _ => BitVec.ofNat 32 (leNat it.data) | [] => 0

/-- R232: fold values from left to right. -/
def foldRed (sub : Nat) : List Word → Word
  | [] => redId sub
  | v :: vs => vs.foldl (fun acc w => (redOp sub acc w).1) v

/-- Insert an arrival by rising cluster number. -/
def insertArrival (x : Nat × Word × Nat) : List (Nat × Word × Nat) → List (Nat × Word × Nat)
  | [] => [x]
  | y :: ys => if x.1 < y.1 then x :: y :: ys else y :: insertArrival x ys

/-- An arrival is counted: its threads go on and the request waits for the result. -/
def State.nredCounted (s : State) (r : Req) : State :=
  match s.op? r.op with
  | some o => (s.modReq r.id (fun x => { x with stage := .waiting })).unparkOp r.op o.threads
  | none => s

/-- R233: an arrival that is not counted traps NREDF in its threads and completes nothing. -/
def State.nredFault (s : State) (r : Req) : State :=
  match s.op? r.op with
  | some o => ((s.complete r.op).dropReq r.id).raiseOp o o.threads { code := .nredf }
  | none => s.dropReq r.id

/-- R232: a round that holds its N arrivals answers every party and is closed. -/
def State.nredClose (s : State) (sl line : Nat) : State :=
  match (s.slices.getD sl Slice.reset).rounds.find? (fun x => x.line == line) with
  | none => s
  | some rd =>
    if rd.arrivals.length < rd.n then s
    else
      let v := foldRed rd.sub (rd.arrivals.map (fun a => a.2.1))
      rd.arrivals.foldl (fun s a => s.modReq a.2.2 (fun r => { r with stage := .replied, items := r.items.map (fun it => { it with res := leBytes 4 v.toNat }) }))
        (s.modSlice sl (fun x => { x with rounds := x.rounds.filter (fun y => y.line != line) }))

/-- R232: with N = 1 an arrival at a mailbox without an open round completes at once and receives its own value. -/
def State.nredAlone (s : State) (r : Req) : State :=
  (s.nredCounted r).modReq r.id (fun x => { x with stage := .replied, items := x.items.map (fun it => { it with res := leBytes 4 r.nredValue.toNat }) })

/-- R233: an arrival that no round counts yet. -/
def State.nredUncounted (s : State) (r : Req) : Bool :=
  r.stage != .replied && (match r.kind with | .nred .. => true | _ => false) &&
  !(s.slices.getD r.slice Slice.reset).rounds.any (fun x => x.arrivals.any (fun a => a.2.2 == r.id))
/-- R234: an arrival that waits at its slice for a free round. -/
def State.nredWaits (s : State) (r : Req) : Bool := r.stage == .waiting && s.nredUncounted r
/-- R232 to R234: an arrival at its mailbox's slice; one that would open a 65th round waits, behind those that wait already. An arrival
with N = 1 at a mailbox with an open round is one of a differing N (R233): R232 lets it complete at once, and the model's choice is
NREDF (log entry 102). -/
def State.nredArrive (s : State) (r : Req) (sub n : Nat) : State :=
  let rounds := (s.slices.getD r.slice Slice.reset).rounds
  let cluster := leafOf r.core
  if n = 0 ∨ n > (s.part r.part).units.clusters.length then s.nredFault r
  else match rounds.find? (fun x => x.line == r.line) with
    | none =>
      if n = 1 then s.nredAlone r
      else if rounds.length ≥ 64 ∨ (r.stage != .waiting && s.net.any (fun x => x.slice == r.slice && s.nredWaits x)) = true then s.modReq r.id (fun x => { x with stage := .waiting })
      else ((s.modSlice r.slice (fun x => { x with rounds := x.rounds ++ [{ line := r.line, n := n, sub := sub, arrivals := [(cluster, r.nredValue, r.id)] }] })).nredCounted r).nredClose r.slice r.line
    | some rd =>
      if rd.n ≠ n ∨ rd.sub ≠ sub ∨ rd.arrivals.any (fun a => a.1 == cluster) then s.nredFault r
      else ((s.modSlice r.slice (fun x => { x with rounds := x.rounds.map (fun y =>
        if y.line = r.line then { y with arrivals := insertArrival (cluster, r.nredValue, r.id) y.arrivals } else y) })).nredCounted r).nredClose r.slice r.line

/-- R234: a waiting arrival may go on: the first that waits at its slice, or one whose round has been opened meanwhile. -/
def State.nredFirst (s : State) (r : Req) : Bool :=
  s.nredWaits r && (!(s.net.takeWhile (fun x => x.id != r.id)).any (fun x => x.slice == r.slice && s.nredWaits x) ||
    (s.slices.getD r.slice Slice.reset).rounds.any (fun x => x.line == r.line))

/-- NRED_ARRIVAL (R232 to R234). -/
def execNredArrival (req : Nat) (s : State) : Host.Outcome State Fault Refusal :=
  event (fun s => match s.req? req with
    | some r => (match r.kind with
      | .nred sub n => if s.atSlice r || s.nredFirst r then s.nredArrive r sub n else s
      | _ => s)
    | none => s) s

end Sys2Proof.Machine
end

