-- ==== Sys2Proof/Machine/Sync.lean ====
section
/-! DEFINITION. Barriers, CARVE, stations' definition, handles, queue ports, condition monitors and fences: the instructions
of chapter 10 and the steps that let their waiters go on (R236 to R257, R182). -/

namespace Sys2Proof.Machine

/-! ### Barriers (R239 to R243) -/

/-- A barrier by kind, owner and number. -/
def State.bar (s : State) (kind : BarKind) (owner n : Nat) : Barrier :=
  (match kind with | .team => (s.team owner).barriers | .gang => (s.gang owner).barriers | .grid => (s.grid owner).barriers).getD n Barrier.reset
/-- Update a barrier. -/
def State.modBar (s : State) (kind : BarKind) (owner n : Nat) (f : Barrier → Barrier) : State :=
  match kind with
  | .team => s.modTeam owner (fun t => { t with barriers := t.barriers.modify n f })
  | .gang => s.modGang owner (fun g => { g with barriers := g.barriers.modify n f })
  | .grid => s.modGrid owner (fun g => { g with barriers := g.barriers.modify n f })
/-- R239: the population of a barrier, its live threads. -/
def State.population (s : State) (kind : BarKind) (owner : Nat) : List ThreadId :=
  match kind with | .team => s.teamLive owner | .gang => s.gangLive owner | .grid => s.gridLive owner
/-- The owner of a thread's barrier. -/
def State.ownerOf (s : State) (kind : BarKind) (t : ThreadId) : Nat :=
  match kind with | .team => (s.quire t.quire).team | .gang => s.gangOf t.quire | .grid => s.gridOf t.quire

/-- R241: an awaited phase has been reached. One more than 2^31 phases old, which no arrival still to come completes, lets its
waiter go or not unpredictably: `free` is that choice. -/
def phaseReached (free : Bool) (b : Barrier) (e : Word) : Bool :=
  let d := (b.ph - e).toInt
  decide (0 ≤ d) || (b.old && decide (d < -1) && free)

/-- The choice of R241 for a thread. -/
def State.oldPhase (s : State) (t : ThreadId) : Bool := Config.freeBool s.tick (saltOf t 3088)

/-- R241, R242: let the waiters of a barrier go whose phase is reached; those with an acquire perform it first. -/
def State.releaseWaiters (s : State) (kind : BarKind) (owner n : Nat) : State :=
  let b := s.bar kind owner n
  if b.hold then s
  else (s.population kind owner).foldl (fun s t => match (s.thread t).stat with
    | .parked (.barrier k m e scope op) =>
      if k = kind ∧ m = n ∧ phaseReached (s.oldPhase t) b e then
        if scope = .none then (s.unpark t).completeFor op [t]
        else (s.modThread t (fun th => { th with stat := .parked (.op op) })).modOp op (fun o => { o with phase := .acqWait })
      else s
    | _ => s) s

/-- R182 step 2: the waiters that a completion would release trap SPACE. -/
def State.carveFail (s : State) (team n : Nat) : State :=
  let b := s.bar .team team n
  (s.teamLive team).foldl (fun s t => match (s.thread t).stat with
    | .parked (.barrier .team m e _ op) =>
      if m = n ∧ phaseReached (s.oldPhase t) b e then
        match s.op? op with
        | some o => (s.completeFor op [t]).raiseOp o [t] { code := .space }
        | none => s.raise t { code := .space }
      else s
    | _ => s) s

/-- R182 step 2: granting n granules leaves each core's L1 at least 4. -/
def State.carveFits (s : State) (team n : Nat) : Bool :=
  let t := s.team team
  t.cores.all (fun c => decide (s.regUsed c + (s.scratchUsed c - t.holds) + n + 4 ≤ 80))

/-- R239: the phase of a barrier advances and its set empties; the live threads that other chips have reported stay (R243). -/
def Barrier.advance (b : Barrier) : Barrier :=
  { b with ph := b.ph + 1, arrived := [], carve := none, old := b.old || decide (b.ph.toNat + 1 ≥ 2 ^ 31),
           far := b.far.map (fun x => (x.1, 0, x.2.2)) }

/-- R243: a grid spans chips. -/
def State.spansChips (s : State) (kind : BarKind) (owner : Nat) : Bool := kind == .grid && decide ((s.grid owner).chips > 1)

/-- R243, R408: rank 0 of a grid that spans chips has the counts of every other chip, all their live threads arrived. -/
def State.chipsArrived (s : State) (owner n : Nat) : Bool :=
  (List.range (s.grid owner).chips).all (fun k => k == 0 || ((s.bar .grid owner n).far.any (fun x => x.1 == k && x.2.1 == x.2.2)))

/-- R239: a phase completes: the waiters go on; a phase with a CARVE changes the allotment first (R182). -/
def State.barrierDone (s : State) (kind : BarKind) (owner n : Nat) : State :=
  let b := s.bar kind owner n
  let s := s.modBar kind owner n Barrier.advance
  match b.carve with
  | none => s.releaseWaiters kind owner n
  | some g =>
    if s.carveFits owner g then
      (s.modBar kind owner n (fun b => { b with hold := true })).modTeam owner (fun t => { t with carving := t.carving ++ [(n, g)] })
    else s.carveFail owner n

/-- R243, R408: a chip of a grid that spans chips: rank 0 completes a phase when all chips' live threads have arrived, and says
so; another chip sends its counts. -/
def State.barrierChips (s : State) (owner n : Nat) (local_ : Bool) : State :=
  let g := s.grid owner
  let pop := s.population .grid owner
  if g.chipRank = 0 then
    if local_ && s.chipsArrived owner n && (!pop.isEmpty || (s.bar .grid owner n).far.any (fun x => x.2.2 != 0)) then
      (s.barrierDone .grid owner n).emit (.barrierDone g.gid n)
    else s
  else s.emit (.barrierCounts g.gid n g.chipRank (pop.filter (s.bar .grid owner n).arrived.contains).length pop.length)

/-- R239, BARRIER_COMPLETE: when every live thread of the population is in the set, the phase completes. -/
def State.barrierEval (s : State) (kind : BarKind) (owner n : Nat) : State :=
  let b := s.bar kind owner n
  let pop := s.population kind owner
  let all := pop.all b.arrived.contains
  if s.spansChips kind owner then s.barrierChips owner n all
  else if pop.isEmpty || !all then s
  else s.barrierDone kind owner n

/-- R243, R408: what another chip of a grid brings over the scale-up ports. -/
def State.chipWord (s : State) (acc : OutsideAccess) : State :=
  let grid := fun (gid : Nat) => (List.range s.grids.length).find? (fun i => (s.grid i).gid == gid && !(s.grid i).dead && decide ((s.grid i).chips > 1))
  match acc with
  | .counts gid n rank arrived live => (match grid gid with
    | some i =>
      if (s.grid i).chipRank = 0 ∧ n < 4 ∧ 0 < rank ∧ rank < (s.grid i).chips then
        (s.modBar .grid i n (fun b => { b with far := (rank, arrived, live) :: b.far.filter (fun x => x.1 != rank) })).barrierEval .grid i n
      else s
    | none => s)
  | .completed gid n => (match grid gid with
    | some i => if (s.grid i).chipRank ≠ 0 ∧ n < 4 then s.barrierDone .grid i n else s
    | none => s)
  | _ => s

/-- R239: threads arrive; one already in the set is not added again. -/
def State.arrive (s : State) (kind : BarKind) (owner n : Nat) (ts : List ThreadId) : State :=
  s.modBar kind owner n (fun b => { b with arrived := b.arrived ++ ts.filter (fun t => !b.arrived.contains t) })

/-- An arrival counted at its barrier unit: BARARV's reply, or the wait of BARSYN. -/
def State.arrived (s : State) (o : Op) (kind : BarKind) (owner n : Nat) (dest : Option Nat) (waits : Bool) : State :=
  let e := (s.bar kind owner n).ph + 1
  let s := s.arrive kind owner n o.threads
  let s := if waits then s.modThreads o.threads (fun _ th => { th with stat := .parked (.barrier kind n e o.acq o.id) }) else s
  let s := match dest with
    | some d => s.postLocal { Req.blank o.core 0 with op := o.id, items := o.threads.map (fun t =>
        { thread := t, off := 0, size := 4, data := [], regs := [.v d], ext := .w32, own := (leBytes 4 e.toNat).mapIdx (fun i b => (i, b)), res := [] }) }
    | none => s
  s.barrierEval kind owner n

/-- Where a gang's or grid's barrier unit stands (Table 10.1): a line key whose slice is the unit's. Which slice a grid's is chosen at
admission is open: the model's is slice SB of the partition for every grid (log entry 102). -/
def State.unitLine (s : State) (kind : BarKind) (owner : Nat) : Nat :=
  match kind with
  | .gang => 2 ^ 40 + leafOf ((s.team ((s.gang owner).teams.headD 0)).cores.headD 0)
  | _ => 2 ^ 41

/-- A message to a barrier unit. -/
def State.toUnit (s : State) (core op : Nat) (kind : BarKind) (owner n : Nat) (retire : Bool) (ts : List ThreadId) : State :=
  s.post { Req.blank core (s.partOfCore core) with
    op := op, kind := .barrier kind owner n retire, k := true, line := s.unitLine kind owner,
    items := ts.map (fun t => { thread := t, off := 0, size := 0, data := [], regs := [], ext := .n8, own := [], res := [] }) }

/-- R241: the arrival of an operation whose release is complete. -/
def State.doArrival (s : State) (o : Op) : State :=
  match o.threads, o.kind with
  | t :: _, .barrier .team n dest waits => s.arrived o .team (s.ownerOf .team t) n dest waits
  | t :: _, .barrier kind n _ _ => s.toUnit o.core o.id kind (s.ownerOf kind t) n false o.threads
  | t :: _, .carve n size =>
    let team := s.ownerOf .team t
    match (s.bar .team team n).carve with
    | some g =>
      if g = size then s.arrived o .team team n none true
      else (s.complete o.id).raiseOp o o.threads { code := .mismatch, detail := 4 }
    | none => (s.modBar .team team n (fun b => { b with carve := some size })).arrived o .team team n none true
  | _, _ => s

/-- BARRIER_UNIT_ARRIVAL (R239, R240, R243). -/
def execBarrierUnitArrival (req : Nat) (s : State) : Host.Outcome State Fault Refusal :=
  event (fun s => match s.req? req with
    | some r => (match r.kind with
      | .barrier kind owner n retire =>
        if s.atSlice r then
          let s := s.dropReq req
          if retire then
            (s.modBar kind owner n (fun b => { b with arrived := b.arrived.filter (fun t => !r.items.any (fun it => it.thread == t)) })).barrierEval kind owner n
          else match s.op? r.op with
            | some o => (match o.kind with
              | .barrier _ _ dest waits => s.arrived o kind owner n dest waits
              | _ => s)
            | none => s
        else s
      | _ => s)
    | none => s) s

/-- R240: a retired thread leaves the arrival sets of its barriers; a barrier may complete. A grid's that spans chips counts it out
whether or not a thread has arrived (R243). -/
def State.retireBarriers (s : State) (t : ThreadId) : State :=
  let team := s.ownerOf .team t
  let s := (List.range 16).foldl (fun s n =>
    (s.modBar .team team n (fun b => { b with arrived := b.arrived.filter (· != t) })).barrierEval .team team n) s
  let far := fun (s : State) (kind : BarKind) => (List.range 4).foldl (fun s n =>
    if (s.bar kind (s.ownerOf kind t) n).arrived.isEmpty && !s.spansChips kind (s.ownerOf kind t) then s
    else s.toUnit (s.quire t.quire).core 0 kind (s.ownerOf kind t) n true [t]) s
  let s := far s .gang
  if (s.recordQ t.quire).cor then far s .grid else s

/-- The threads of an issue by the owner of their barrier. -/
def State.byOwner (s : State) (kind : BarKind) (ts : List ThreadId) : List (List ThreadId) :=
  (ts.map (s.ownerOf kind)).eraseDups.map (fun o => ts.filter (fun t => s.ownerOf kind t == o))

/-- R241: who acts as one: threads of one owner where nothing is to be waited for, else each thread by itself. -/
def State.byThread (s : State) (kind : BarKind) (scope : Scope) (ts : List ThreadId) : List (List ThreadId) :=
  if scope = .none then s.byOwner kind ts else ts.map (fun t => [t])

/-- R241: an instruction arrives at a barrier, after each thread's release; `waits` parks its threads until the phase. -/
def arriveAt (c : Ctx) (kind : BarKind) (n : Nat) (scope : Scope) (dest : Option Nat) (waits : Bool) (s : State) : State :=
  (s.byThread kind scope c.takers).foldl (fun s ts =>
    let (id, s) := s.fresh
    let o : Op := { c.newOp id (.barrier kind n dest waits) ts with
      rel := scope, acq := if waits then scope else .none, phase := if scope = .none then .active else .relWait,
      dests := match dest with | some d => [.v d] | none => [] }
    let s := s.addOp o
    let s := match dest with | some d => ts.foldl (fun s t => s.markV c.now t [d] id) s | none => s
    let s := if waits then s.parkAt c.g ts c.next (.op id) else s
    if scope = .none then s.doArrival o else s) s

/-- R241: an instruction waits for each thread's phase. -/
def waitAt (c : Ctx) (kind : BarKind) (n : Nat) (scope : Scope) (e : ThreadId → Word) (s : State) : State :=
  (s.byThread kind scope c.takers).foldl (fun s ts =>
    let (id, s) := s.fresh
    let s := s.addOp { c.newOp id (.barrier kind n none true) ts with acq := scope }
    let s := s.parkAt c.g ts c.next (.op id)
    let s := s.modThreads ts (fun t th => { th with stat := .parked (.barrier kind n (e t) scope id) })
    match ts with | t :: _ => s.releaseWaiters kind (s.ownerOf kind t) n | [] => s) s

/-- R237: a barrier, station or handle number by immediate or q register. -/
def State.objNum (s : State) (c : Ctx) (o : ObjName) : Nat :=
  match o with | .imm n => n.toNat | .reg q => (s.readQ c.now c.hand c.q q.toNat).toNat
/-- The barrier number of BARARV, BARWT and BARSYN. -/
def State.barNum (s : State) (c : Ctx) (f : BarF) : Nat := s.objNum c f.num % (if f.gang then 4 else 16)
/-- Team or gang. -/
def barKind (f : BarF) : BarKind := if f.gang then .gang else .team

/-- R241 BARARV. -/
def execBararv (h : Hdr) (f : BarF) (s : State) : Host.Outcome State Fault Refusal :=
  issue (.bararv h f) (fun c s => .done (arriveAt c (barKind f) (s.barNum c f) f.scope (some f.v.toNat) false s)) s
/-- R241 BARWT. -/
def execBarwt (h : Hdr) (f : BarF) (s : State) : Host.Outcome State Fault Refusal :=
  issue (.barwt h f) (fun c s => .done (waitAt c (barKind f) (s.barNum c f) f.scope (fun t => s.readV c.now t f.v.toNat) s)) s
/-- R241 BARSYN. -/
def execBarsyn (h : Hdr) (f : BarF) (s : State) : Host.Outcome State Fault Refusal :=
  issue (.barsyn h f) (fun c s => .done (arriveAt c (barKind f) (s.barNum c f) f.scope none true s)) s
/-- R408: a thread whose multi-chip grid waits for its COMMIT. -/
def State.uncommitted (s : State) (t : ThreadId) : Bool := (s.grid (s.gridOf t.quire)).multi == .reserved
/-- R243 GBAR; before the COMMIT of a multi-chip grid it traps GANGABORT (R408). -/
def execGbar (h : Hdr) (k : BitVec 2) (d a : Reg8) (scope : Scope) (n : BitVec 2) (s : State) : Host.Outcome State Fault Refusal :=
  issue (.gbar h k d a scope n) (fun c s =>
    let s' := s.trapAt c.g (c.takers.filter s.uncommitted) { code := .gangabort }
    let c := { c with takers := c.takers.filter (fun t => !s.uncommitted t) }
    .done (match k.toNat with
    | 0 => arriveAt c .grid n.toNat scope (some d.toNat) false s'
    | 1 => waitAt c .grid n.toNat scope (fun t => s.readV c.now t a.toNat) s'
    | _ => arriveAt c .grid n.toNat scope none true s')) s

/-- R182 CARVE: an arrival at a team barrier as BARSYN with scope 0, with the size it asks for. -/
def execCarve (h : Hdr) (a : Reg8) (bar : BitVec 4) (s : State) : Host.Outcome State Fault Refusal :=
  issue (.carve h a bar) (fun c s =>
    let size := (s.readQ c.now c.hand c.q a.toNat).toNat
    let (id, s) := s.fresh
    let o := c.newOp id (.carve bar.toNat size) c.takers
    .done (((s.addOp o).parkAt c.g c.takers c.next (.op id)).doArrival o)) s

/-- R182 step 3: a matrix operation reads or writes a team's scratch: a stream or load of the team, or a fill or drain of any
team of the cluster whose rows lie there. -/
def MatRun.usesScratch (o : MatRun) (team : Nat) : Bool :=
  (match o.what with | .stream .. | .load .. => o.team == team | _ => false) ||
  o.rows.any (fun ps => ps.any (fun p => match p with | .scratch t _ => t == team | _ => false))

/-- R182 step 3: a copy, stream, fill or drain of any team uses the team's scratch. -/
def State.scratchBusy (s : State) (team : Nat) : Bool :=
  s.cores.any (fun k => k.copies.any (fun x => x.team == team || x.dests.any (fun d => d.1 == team)) || k.unit.ops.any (fun o => o.usesScratch team))

/-- CARVE_APPLY (R182 steps 3 and 4), once the lines that go may leave the L1s. -/
def execCarveApply (team : Nat) (s : State) : Host.Outcome State Fault Refusal :=
  event (fun s => match (s.team team).carving with
    | [] => s
    | (n, g) :: more =>
      let grows := decide ((s.team team).allot < g)
      if s.scratchBusy team || (grows && !(s.team team).cores.all s.cleanReady) then s
      else
        let s := if grows then (s.team team).cores.foldl (fun s c => s.l1Shrink c (s.l1Granules c)) s else s
        let s := s.modTeam team (fun t => { t with
          allot := g, carving := more,
          scratch := (List.range t.cores.length).foldl (fun m k => cellClear m (scratchKey k (g * 65536)) (scratchKey (k + 1) 0)) t.scratch })
        let s := { s with undefAt := s.undefAt.filter (fun p => match p with | .scratch x k => x != team || decide (k % 2 ^ 24 < g * 65536) | _ => true) }
        let s := (s.team team).cores.foldl State.l1Refit s
        (s.modBar .team team n (fun b => { b with hold := false })).releaseWaiters .team team n) s

/-! ### Stations (R244, R245) -/

/-- Update a station of a core. -/
def State.modStation (s : State) (c n : Nat) (f : Station → Station) : State :=
  s.modCore c (fun k => { k with stations := k.stations.modify n f })

/-- R245 STDEF. -/
def execStdef (st : BitVec 3) (a : Reg8) (num : ObjName) (s : State) : Host.Outcome State Fault Refusal :=
  issue (.stdef st a num) (fun c s =>
    let n := (s.readQ c.now c.hand c.q a.toNat).toNat
    let sn := s.objNum c num % 16
    let stn := (s.core c.g.core).stations.getD sn Station.reset
    let team := (s.quire c.q).team
    let bad := decide (n > 3072) || (match stn.owner with | some o => o != team | none => false) || (!stn.signers.isEmpty && n != stn.n)
    if bad then .done (s.trapAt c.g c.takers { code := .station })
    else if !stn.signers.isEmpty then .done s
    else if n = 0 then .done (s.modStation c.g.core sn (fun _ => Station.reset))
    else .done (s.modStation c.g.core sn (fun _ => { owner := some team, n := n, signers := [], set := none }))) s

/-! ### Handles (R247 to R250) -/

/-- What a handle instruction does now (Table 10.6). -/
inductive HAct where
  | exec | trap | wait
  deriving DecidableEq, Repr

/-- R249 step 3: a HEXP of the clock in which a delivery made the handle full (R248 lets no second HEXP run in one clock). -/
def Handle.sameClock (h : Handle) (tick : Nat) : Bool := h.state == .full && h.fullAt + 1 == tick

/-- Table 10.6 for one handle: whether an instruction executes, traps or waits. `acq` says that a HACQ of the handle is
parked, `allot` is the allotment in bytes. -/
def handleAct (tick : Nat) (h : Handle) (acq : Bool) (allot : Nat) (w : HandleOp) : HAct :=
  match w with
  | .acq base size =>
    if h.err || base % 128 != 0 || size % 128 != 0 || size == 0 || decide (base + size > allot) then .trap
    else if h.state = .free then .exec else .wait
  | .exp n =>
    if h.err then .trap
    else if h.state = .filling then (if h.exp + n > h.size then .trap else .exec)
    else if h.sameClock tick then (if h.carry + n > h.size then .trap else .exec)
    else if acq then .wait else .trap
  | .take ph _ => if h.err then .trap else if h.state = .full ∧ h.ph = ph then .exec else .wait
  | .free => if h.state = .draining ∨ h.err then .exec else .trap

/-- R249 step 2: full when the expectation is met, an error when it is passed; `tick` is that of a delivery, none for a HEXP. -/
def Handle.settle (tick : Option Nat) (h : Handle) : Handle :=
  if h.state = .filling ∧ h.exp ≠ 0 then
    if h.dlv = h.exp then { h with state := .full, ph := !h.ph, fullAt := tick.getD h.fullAt }
    else if h.dlv > h.exp then { h with err := true } else h
  else h

/-- Table 10.6: the effect of an instruction on its handle. A HEXP of 0 has no effect (R249). -/
def handleDo (h : Handle) (w : HandleOp) : Handle :=
  match w with
  | .acq base size => { h with base := base, size := size, exp := h.carry, carry := 0, dlv := 0, state := .filling }
  | .exp n =>
    if n = 0 then h
    else if h.state = .filling then ({ h with exp := h.exp + n }).settle none else { h with carry := h.carry + n }
  | .take _ _ => { h with state := .draining }
  | .free => if h.err then { h with state := .free, err := false, carry := 0 } else { h with state := .free }

/-- A team's handle. -/
def State.handle (s : State) (team h : Nat) : Handle := (s.team team).handles.getD h Handle.reset
/-- Update a handle. -/
def State.modHandle (s : State) (team h : Nat) (f : Handle → Handle) : State :=
  s.modTeam team (fun t => { t with handles := t.handles.modify h f })

/-- R249 step 1: bytes delivered to a handle, counted in the 23 bits of DLV (Table 10.5); one that is not filling gets ERR. -/
def Handle.take (tick n : Nat) (x : Handle) : Handle :=
  ({ x with dlv := (x.dlv + n) % 2 ^ 23, err := x.err || x.state != HState.filling }).settle (some tick)

/-- R249 steps 1 and 2: all deliveries of a clock count before the handle is looked at. Whether one that follows the delivery that
made the handle full belongs to its clock is open: it then finds the handle filling still (log entry 13). -/
def State.deliver (s : State) (team h n : Nat) : State :=
  s.modHandle team h (fun x => Handle.take s.tick n (
    if x.sameClock s.tick && Config.freeBool s.tick (2 ^ 28 + team * 32 + h) then { x with state := .filling, ph := !x.ph } else x))

/-- R248: a handle instruction executes: its effect, and its completion's reply. -/
def State.handleExec (s : State) (team h : Nat) (w : HWaiter) : State :=
  let x := s.handle team h
  let s := s.modHandle team h (fun x => handleDo x w.what)
  match s.op? w.op with
  | none => s
  | some o =>
    let item := fun (t : ThreadId) (regs : List RegId) (bs : List Byte) =>
      { thread := t, off := 0, size := bs.length, data := [], regs := regs, ext := Size.w32, own := bs.mapIdx (fun i b => (i, b)), res := [] : Item }
    let items := match w.what, w.threads with
      | .take _ d, t :: _ => [item t [.q d] (leBytes 4 x.base)]
      | _, t :: _ => [item t [] []]
      | _, [] => []
    (s.postLocal { Req.blank o.core 0 with op := o.id, items := items }).unparkOp o.id w.threads

/-- R248: a handle instruction traps HANDLE in its threads. -/
def State.handleTrap (s : State) (w : HWaiter) : State :=
  match s.op? w.op with
  | none => s
  | some o => (s.complete w.op).raiseOp o w.threads { code := .handle }

/-- A HACQ of the handle is parked. -/
def Team.acqParked (t : Team) (h : Nat) : Bool := t.hwait.any (fun w => w.h == h && (match w.what with | .acq .. => true | _ => false))

/-- What a waiter does now. -/
def State.waiterAct (s : State) (team : Nat) (w : HWaiter) : HAct :=
  let t := s.team team
  handleAct s.tick (s.handle team w.h) (t.acqParked w.h) (t.allot * 65536) w.what

/-- R248: the waiter of a handle that acts now: the earliest issued that does not go on waiting. -/
def State.actingWaiter (s : State) (team h : Nat) : Option HWaiter :=
  (s.team team).hwait.find? (fun w => w.h == h && s.waiterAct team w != .wait)

/-- Run one handle instruction of a waiter record. -/
def State.runWaiter (s : State) (team : Nat) (w : HWaiter) : State :=
  let s' := s.modTeam team (fun t => { t with hwait := t.hwait.filter (fun x => x.op != w.op) })
  match s.waiterAct team w with
  | .exec => s'.handleExec team w.h w
  | .trap => s'.handleTrap w
  | .wait => s

/-- HANDLE_WAITER_EXECUTE (R248). -/
def execHandleWaiterExecute (team h : Nat) (s : State) : Host.Outcome State Fault Refusal :=
  event (fun s => match s.actingWaiter team h with | some w => s.runWaiter team w | none => s) s

/-- The handle word: number in [4:0], parity in bit 5. -/
def State.handleWord (s : State) (c : Ctx) (w : HWord) : Nat :=
  match w with | .imm x => x.toNat | .reg q => (s.readQ c.now c.hand c.q q.toNat).toNat

/-- R248: a handle instruction issues: it executes or traps at once, or parks its threads behind the earlier waiters. -/
def handleIssue (i : Instr) (hw : HWord) (what : Ctx → State → Nat → HandleOp) (dest : Option Reg8) (s : State) :
    Host.Outcome State Fault Refusal :=
  issue i (fun c s =>
    let word := s.handleWord c hw
    let h := word % 32
    let team := (s.quire c.q).team
    let (id, s) := s.fresh
    let dests := match dest with | some d => [RegId.q (qName c.hand d.toNat)] | none => []
    let w : HWaiter := { op := id, h := h, what := what c s word, quire := c.q, threads := c.takers }
    let s := s.addOp { c.newOp id .handle c.takers with dests := dests, uniform := true }
    let s := match dest with | some d => s.markQ c.now c.q c.hand [d.toNat] id | none => s
    let s := s.modTeam team (fun t => { t with hwait := t.hwait ++ [w] })
    let s := s.parkAt c.g c.takers c.next (.handle id)
    let first := match s.actingWaiter team h with | some x => x.op == id | none => false
    let now := s.waiterAct team w != .wait && (first || s.waiterAct team w == .trap)
    .done (if now then s.runWaiter team w else s)) s

/-- A q register's value as a number. -/
def State.qNat (s : State) (c : Ctx) (q : Reg8) : Nat := (s.readQ c.now c.hand c.q q.toNat).toNat

/-- HACQ. -/
def execHacq (h : Hdr) (hw : HWord) (base size : Reg8) (s : State) : Host.Outcome State Fault Refusal :=
  handleIssue (.hacq h hw base size) hw (fun c s _ => .acq (s.qNat c base) (s.qNat c size)) none s
/-- HEXP. -/
def execHexp (h : Hdr) (hw : HWord) (bytes : Reg8) (s : State) : Host.Outcome State Fault Refusal :=
  handleIssue (.hexp h hw bytes) hw (fun c s _ => .exp (s.qNat c bytes)) none s
/-- HTAKE. -/
def execHtake (h : Hdr) (hw : HWord) (d : Reg8) (s : State) : Host.Outcome State Fault Refusal :=
  handleIssue (.htake h hw d) hw (fun c _ w => .take (w.testBit 5) (qName c.hand d.toNat)) (some d) s
/-- HFREE. -/
def execHfree (h : Hdr) (hw : HWord) (s : State) : Host.Outcome State Fault Refusal :=
  handleIssue (.hfree h hw) hw (fun _ _ _ => .free) none s

/-! ### Queue ports (R251, R252) -/

/-- The instruction a parked gathering waits to issue. -/
def Gath.instr? (g : Gath) : Option Instr :=
  match decode (g.words.drop (g.pos - 1)) with | .ok (i, _) => some i | .error _ => none

/-- PORT_WAITER_ISSUE (R251): once every port is ready, or can never be (R252), the gathering goes on and issues. -/
def execPortWaiterIssue (t : ThreadId) (s : State) : Host.Outcome State Fault Refusal :=
  event (fun s => match (s.thread t).stat, s.gaths.find? (fun g => g.members.contains t) with
    | .parked .port, some g => (match g.instr? with
      | some i =>
        let q := s.quire t.quire
        if s.portsReady q.team i.uses || (portsOf i.uses.rq).any (s.portDead q.team (q.role == .spine)) then
          s.modThreads g.members (fun _ th => if th.stat = .parked .port then { th with stat := .gathered } else th)
        else s
      | none => s)
    | _, _ => s) s

/-! ### Condition monitors (R253, R254) -/

/-- WAITC (0xBF): one registration for the gathering, which is parked until its reply. -/
def execWaitc (h : Hdr) (wide : Bool) (cond : BitVec 4) (k : Bool) (scope : Scope) (d a b : Reg8) (s : State) :
    Host.Outcome State Fault Refusal :=
  issue (.waitc h wide cond k scope d a b) (fun c s =>
    let n := if wide then 8 else 4
    let regs := if wide then 2 else 1
    let chk := spreadTraps c (checkAll [c.lead] (fun t => s.checkAccess t .read (gkSpace k) (s.baseOf c (gkSpace k) a) n n))
    let dests := (span d.toNat regs).map (fun r => RegId.q (qName c.hand r))
    let y := pairOf (s.readQ c.now c.hand c.q b.toNat) (if wide then s.readQ c.now c.hand c.q (b.toNat + 1) else 0)
    issueAccess c chk (fun id => { c.newOp id .waitc c.takers with acq := scope, reads := true, dests := dests, uniform := true })
      (fun id => groupLines { Req.blank c.g.core (s.partOfCore c.g.core) with op := id, kind := .monitor wide cond.toNat y }
        (fun tgt ch => { thread := tgt.thread, off := ch.place.off, size := n, data := [], regs := dests, ext := if wide then .w64 else .w32,
                         own := [], res := [] }))
      (fun id s => (s.markQ c.now c.q c.hand (span d.toNat regs) id).parkAt c.g c.takers c.next (.monitor id)) s) s

/-- MONITOR_REGISTER (R253): reply at once, record an entry, or reply POLL. -/
def execMonitorRegister (req : Nat) (s : State) : Host.Outcome State Fault Refusal :=
  event (fun s => match s.req? req with
    | some r => (match r.kind, r.items with
      | .monitor wide cond y, it :: _ =>
        if s.atSlice r then
          let s := s.consumeAll r
          let a := r.byteAddr + it.off
          let x := BitVec.ofNat 64 (leNat (s.sliceBytes r.part r.k a it.size))
          if condMet cond wide x y then s.replied r.id [{ it with res := leBytes 8 x.toNat }] none
          else if (s.slices.getD r.slice Slice.reset).monitors.length < 4096 then
            (s.modSlice r.slice (fun v => { v with monitors := v.monitors ++
              [{ op := r.op, k := r.k, addr := a, wide := wide, cond := cond, y := y, gang := s.gangOf it.thread.quire }] })).modReq r.id
              (fun r => { r with stage := .waiting })
          else s.modReq r.id (fun r => { r with stage := .poll })
        else s
      | _, _ => s)
    | none => s) s

/-- MONITOR_POLL_RETRY (R254): after POLL the core repeats the registration, behind what it has sent since (R210). -/
def execMonitorPollRetry (req : Nat) (s : State) : Host.Outcome State Fault Refusal :=
  event (fun s => match s.req? req with
    | some r => if r.stage = .poll then (s.dropReq req).post { r with joined := 0 } else s
    | none => s) s

/-- WAITC_REPLY (R254): q[D] is written; then the acquire, or completion. -/
def execWaitcReply (req : Nat) (s : State) : Host.Outcome State Fault Refusal :=
  event (fun s => match s.req? req with
    | some r => (match r.kind, r.stage with
      | .monitor .., .replied =>
        let s := r.items.foldl (fun s it => (it.regs.zip (bytesWords it.res)).foldl (fun s x => s.lateReply it.thread r.op x.1 x.2) s) s
        let s := s.dropReq req
        match s.op? r.op with
        | none => s
        | some o =>
          if o.acq = .none then (s.complete o.id).unparkOp o.id o.threads
          else s.modOp o.id (fun o => { o with phase := .acqWait })
      | _, _ => s)
    | none => s) s

/-! ### Fences, releases and acquires (R179, R255) -/

/-- Scopes at which other cores take part. -/
def wideScope : Scope → Bool | .cl | .dv | .sy => true | _ => false

/-- R255: a memory operation; copy commands and handle instructions count in spine code. -/
def State.opIsMem (s : State) (o : Op) : Bool :=
  match o.kind with
  | .mem | .stamp | .waitc | .nred | .bag _ => true
  | .copy | .growg .. | .handle => (s.quire o.quire).role == .spine
  | _ => false

/-- Operations issued before `o`, in order. -/
def State.opsBefore (s : State) (o : Op) : List Op := s.ops.takeWhile (fun x => x.id != o.id)

/-- Two operations share a thread. -/
def Op.shares (x o : Op) (ts : List ThreadId) : Bool := x.id != o.id && x.threads.any ts.contains

/-- R255: a write-through of a store without a counter left the core before `o` issued and is not acknowledged. -/
def State.plainStores (s : State) (o : Op) : Bool :=
  s.net.any (fun r => r.core == o.core && r.kind == .store && r.op == 0 && decide (r.id < o.id))

/-- R179, R255: the conditions of a release at scope S for threads `ts` hold. -/
def State.releaseHolds (s : State) (o : Op) (scope : Scope) (ts : List ThreadId) : Bool :=
  (s.opsBefore o).all (fun x => !(s.opIsMem x && x.shares o ts) && !(wideScope scope && x.wrThru && x.core == o.core)) &&
  !(wideScope scope && s.plainStores o)

/-- R255: the conditions of an acquire for threads `ts` hold: every earlier read has written its destination. -/
def State.acquireHolds (s : State) (o : Op) (ts : List ThreadId) : Bool :=
  (s.opsBefore o).all (fun x => !(s.opIsMem x && x.reads && x.shares o ts))

/-- R179: what an acquire does at scope S. -/
def State.acquireDo (s : State) (core : Nat) (scope : Scope) : State := if wideScope scope then s.dropShared core else s

/-- The accesses that an operation's release holds back. -/
def State.heldBy (s : State) (op : Nat) : List Req := s.net.filter (fun r => r.op == op && r.stage == .held)

/-- R187: the core of an operation has room for what its release holds back. -/
def State.heldFits (s : State) (o : Op) : Bool := s.roomFor o.core (s.heldBy o.id)

/-- R179: a release is performed: the accesses that it held back go on. -/
def State.performHeld (s : State) (op : Nat) : State :=
  let held := s.heldBy op
  let s := { s with net := s.net.filter (fun r => !(r.op == op && r.stage == .held)) }
  held.foldl (fun s r => s.perform { r with stage := .sent }) s

/-- The threads of a barrier or WAITC operation that wait for its acquire. -/
def State.acquiring (s : State) (o : Op) : List ThreadId :=
  match o.kind with
  | .barrier .. | .carve .. => o.threads.filter (fun t => (s.thread t).stat == .parked (.op o.id))
  | _ => o.threads

/-- An acquire completes for the threads that wait for it. -/
def State.acquireEnd (s : State) (o : Op) : State :=
  let ts := s.acquiring o
  if s.acquireHolds o ts then
    let s := ((s.acquireDo o.core o.acq).completeFor o.id ts).unparkOp o.id ts
    s.modOp o.id (fun o => { o with phase := .active })
  else s

/-- A release completes: the access is performed, the arrival made, or the caches told to drop. -/
def State.releaseEnd (s : State) (o : Op) : State :=
  if s.releaseHolds o o.rel o.threads && s.heldFits o then
    let s := s.modOp o.id (fun o => { o with phase := .active })
    match o.kind with
    | .barrier .. | .carve .. => s.doArrival { o with phase := .active }
    | .stampsync .. => s
    | _ => s.performHeld o.id
  else s

/-- FENCE (0xB8): each taking thread's own (R255). -/
def execFence (h : Hdr) (kind : FenceKind) (scope : Scope) (s : State) : Host.Outcome State Fault Refusal :=
  issue (.fence h kind scope) (fun c s => .done (c.takers.foldl (fun s t =>
    let (id, s) := s.fresh
    s.addOp { c.newOp id (.fence kind) [t] with rel := scope, acq := scope, phase := .relWait }) s)) s

end Sys2Proof.Machine
end

