-- ==== Sys2Proof/Machine/Slices.lean ====
section
/-! DEFINITION. The steps of slices, of the reply side of the cores, of page walks and of the fabric (chapters 08 and 09). -/

namespace Sys2Proof.Machine

/-! ### Service at the home slice (R204 to R211) -/

/-- R181: a line read for the last time is dropped, at its slice and at its memory-side cache: its bytes read as undefined
values. -/
def State.dropLine (s : State) (sl line : Nat) : State :=
  { (s.setUndef line (BitVec.allOnes 128)).modSlice sl (fun x =>
      { x with tags := x.tags.filter (fun t => t.1 != line), dirty := x.dirty.filter (· != line) }) with
    mside := s.mside.filter (fun x => x.line != line) }

/-- A load served: the line's data goes back with the reply. -/
def State.serveLoad (s : State) (r : Req) : State :=
  let s := r.items.foldl (fun s it => s.noteRead (if r.k then kAt r.part (r.byteAddr + it.off) else .g (r.byteAddr + it.off)) it.size) (s.consumeAll r)
  let d := lineData (s.sliceBytes r.part r.k r.byteAddr 128)
  let s := s.modReq r.id (fun r => { r with stage := .replied, data := d })
  if r.k then s else if r.lu then (s.askFor r.slice r.line r.cls).dropLine r.slice r.line else s.touchTag r.slice r.line r.prio r.cls

/-- SLICE_LOAD_SERVE (R211): loads and prefetches. A prefetch into the memory-side cache changes nothing at the slice. -/
def execSliceLoadServe (req : Nat) (s : State) : Host.Outcome State Fault Refusal :=
  event (fun s => match s.req? req with
    | some r =>
      if s.atSlice r then (match r.kind with
        | .load => s.serveLoad r
        | .fetch 0 => s.serveLoad r
        | .fetch 1 => (s.touchTag r.slice r.line r.prio r.cls).dropReq req
        | .fetch _ => (s.askFor r.slice r.line r.cls).dropReq req
        | _ => s)
      else s
    | none => s) s

/-- R197, R206: the bytes of a store, in rising lane rank, as one update of the line. -/
def State.storeItems (s : State) (r : Req) : State :=
  let s := r.items.foldl (fun s it =>
    if r.k then s.kWrite r.part (r.byteAddr + it.off) it.data else s.memWrite (r.byteAddr + it.off) it.data) s
  let s := if r.k then s else s.unpoison r.line (r.items.map (fun it => (it.off, it.data.length)))
  (s.takeTagFor r).reevaluate r.part r.slice r.k r.line

/-- SLICE_UPDATE_APPLY (R206): a store, a bag's record write, or a RED; its acknowledgement goes back. -/
def execSliceUpdateApply (req : Nat) (s : State) : Host.Outcome State Fault Refusal :=
  event (fun s => match s.req? req with
    | some r =>
      if s.atSlice r then (match r.kind with
        | .store | .record => s.gated r (fun s =>
          let s := s.storeItems r
          (if r.k then s else s.touchWrite r.slice r.line r.prio r.cls).replied r.id r.items none)
        | .atomic op w cas false => s.applyAtomic r op w cas
        | _ => s)
      else s
    | none => s) s

/-- WRITEBACK_MERGE (R176): the dirty bytes of a write-back of a core's line, under one tag. The slice line takes the priority that
the line had in the L1: R180 speaks of accesses, so the spec leaves it open (log entry 102). -/
def execWritebackMerge (core line : Nat) (s : State) : Host.Outcome State Fault Refusal :=
  event (fun s => match s.net.find? (fun r => r.core == core && r.line == line && r.kind == .writeback && s.atSlice r) with
    | some r => s.gated r (fun s =>
      let s := (((s.memMerge line r.mask (lineBytes r.data)).takeTagFor r).reevaluate r.part r.slice false line).touchWrite r.slice line r.prio r.cls
      if r.op = 0 then s.dropReq r.id else s.replied r.id r.items none)
    | none => s) s

/-- WAIT_QUEUE_RESEND (R212). -/
def execWaitQueueResend (req : Nat) (s : State) : Host.Outcome State Fault Refusal :=
  event (fun s => match s.req? req with
    | some r => if r.stage = .refused ∧ s.fabric.busy = false then s.inject req else s
    | none => s) s

/-! ### Replies (R196, R199) -/

/-- R196: write an item's registers. -/
def State.writeItem (s : State) (r : Req) (it : Item) : State :=
  (it.regs.zip (extendLoad it.ext (replyBytes r it))).foldl (fun s x => s.lateReg it.thread r.op x.1 x.2) s

/-- R177, R178: the line that a load or prefetch allocated takes the reply's bytes; bytes the L1 has since taken stay. A line
that the L1 has dropped meanwhile is not brought back. -/
def State.fillLine (s : State) (r : Req) : State :=
  if !r.brings || r.k || r.noAlloc || r.prio == 3 then s
  else match s.l1Find r.core r.line with
    | some l =>
      let keep := lineBytes l.data
      let new := (lineBytes r.data).mapIdx (fun i b => if l.valid.getLsbD i then keep.getD i 0 else b)
      s.l1Set r.core { l with data := lineData new, valid := BitVec.allOnes 128 }
    | none => s

/-- A reply's operation: complete it for the threads that wait for nothing more, or go on to its acquire. -/
def State.replyDone (s : State) (r : Req) : State :=
  match s.op? r.op with
  | none => s
  | some o =>
    let left := s.net.filter (fun x => x.op == o.id)
    if o.acq ≠ .none then (if left.isEmpty then s.modOp o.id (fun o => { o with phase := .acqWait }) else s)
    else if o.uniform then (if left.isEmpty then (s.complete o.id).unparkOp o.id o.threads else s)
    else
      let ts := o.threads.filter (fun t => r.items.any (fun it => it.thread == t) && !left.any (fun x => x.items.any (fun it => it.thread == t)))
      (s.completeFor o.id ts).unparkOp o.id ts

/-- A STAMPF verdict (R230): the threads trap and the instruction is over for them. -/
def State.replyFault (s : State) (r : Req) (tr : Trap) : State :=
  let ts := r.items.map (·.thread)
  match s.op? r.op with
  | none => s
  | some o => (s.completeFor o.id ts).raiseOp o ts tr

/-- A request whose reply MEMORY_REPLY brings. -/
def Req.plainReply (r : Req) : Bool :=
  r.stage == .replied && (match r.kind with | .monitor .. | .nred .. => false | _ => true)

/-- MEMORY_REPLY (R199). -/
def execMemoryReply (req : Nat) (s : State) : Host.Outcome State Fault Refusal :=
  event (fun s => match s.req? req with
    | some r =>
      -- a record write counts for its thread once the put's verdict has reached it (R356)
      if r.plainReply && !s.bagOps.any (fun b => b.op == r.op) then
        let s := s.dropReq req
        match r.fault with
        | some tr => s.replyFault r tr
        | none => ((r.items.foldl (fun s it => s.writeItem r it) s).fillLine r).replyDone r
      else s
    | none => s) s

/-- NRED_RESULT (R234): the result reaches its party. -/
def execNredResult (op : Nat) (s : State) : Host.Outcome State Fault Refusal :=
  event (fun s => match s.net.find? (fun r => r.op == op && r.stage == .replied && (match r.kind with | .nred .. => true | _ => false)) with
    | some r =>
      let s := r.items.foldl (fun s it => (it.regs.zip (bytesWords it.res)).foldl (fun s x => s.lateReply it.thread op x.1 x.2) s) s
      (s.dropReq r.id).complete op
    | none => s) s

/-! ### Page walks (R183 to R187) -/

/-- The place of a thread: the word of its gathering's clause, or where it stands. -/
def State.placeOf (s : State) (t : ThreadId) : Addr × Nat :=
  let th := s.thread t
  if th.stat = .gathered then
    match s.gaths.find? (fun g => g.members.contains t) with
    | some g => (g.hdr, g.pos)
    | none => (th.hdr, th.pos)
  else (th.hdr, th.pos)

/-- A thread raises a trap where it is. -/
def State.raiseHere (s : State) (t : ThreadId) (tr : Trap) : State := let p := s.placeOf t; s.raiseAt t p.1 p.2 tr

/-- A thread still waits to issue: a walk that fails raises its fault in it (R83, R195). -/
def Thread.waitsWalk (th : Thread) : Bool := match th.stat with | .gathered | .ready | .held => true | _ => false

/-- PAGE_WALK_COMPLETE (R187), but in a rehash (R213): the walk reads the entries that it has not read yet (log entry 17); the translation enters the
main TLB and the micro TLBs of those that wait for it, or the waiters trap XLATE, or PROT for an entry in another partition's
memory, which is counted (R24). -/
def execPageWalkComplete (core id : Nat) (s : State) : Host.Outcome State Fault Refusal :=
  event (fun s => if s.fabric.busy then s else match (s.core core).walks.find? (fun w => w.id == id) with
    | none => s
    | some w =>
      let part := s.partOfCore core
      let s := (s.modCore core (fun k => { k with walks := k.walks.filter (fun x => x.id != id) })).askWalk part w.root w.va
      let fail := fun (s : State) (code : TrapCode) => w.waiters.foldl (fun s x =>
        if (s.thread x.1).waitsWalk then s.raiseHere x.1 { code := code, addr := x.2 } else s) s
      match s.walkSteps part w.va 4 w.come with
      | .leaf e sz =>
        let ent : TlbEntry := { root := w.root, page := w.va / 2 ^ sz, pte := e, size := sz }
        (w.waiters.map (fun x => (s.quire x.1.quire).ip)).eraseDups.foldl (fun s ip => s.microFill core ip ent) (s.tlbInsert core w.root w.va e sz)
      | .prot => fail (s.discardAccess part) .prot
      | _ => fail s .xlate) s

/-! ### A plane dies (R213 to R217) -/

/-- LEAF_NO_PROGRESS (R213): a leaf that holds requests on a plane reports it. -/
def execLeafNoProgress (leaf plane : Nat) (s : State) : Host.Outcome State Fault Refusal :=
  event (fun s =>
    if s.net.any (fun r => leafOf r.core == leaf && r.plane == plane && r.kind != .local_ && r.stage != .held) && decide (plane < 4) then
      { s with fabric := { s.fabric with reported := s.fabric.reported ||| BitVec.twoPow 4 plane } }
    else s) s

/-- R213 steps 1 to 3: a request of the dead plane is replayed; the slice holds the reply of one it has applied. -/
def Req.onDead (r : Req) (plane : Nat) : Req :=
  if r.plane = plane ∧ r.kind ≠ .local_ then
    match r.stage with
    | .sent => { r with stage := .replay false }
    | .replied => { r with stage := .replay true }
    | _ => r
  else r

/-- The planes that are alive, in rising number. -/
def Fabric.living (f : Fabric) : List Nat := (List.range 4).filter (fun p => f.alive.getLsbD p)

/-- SLICE_REPLAY_REQUEST (R214): a replayed request reaches its slice on a surviving plane: the kept reply goes back with its
tags, or it is applied as new. R213 says only that the surviving planes carry it: the model takes the lowest (log entry 94). -/
def execSliceReplayRequest (req : Nat) (s : State) : Host.Outcome State Fault Refusal :=
  event (fun s =>
    if s.fabric.alive = 0 then s
    else s.modReq req (fun r => match r.stage with
      | .replay true => { r with stage := .replied, plane := s.fabric.living.headD 0 }
      | .replay false => { r with stage := .sent, plane := s.fabric.living.headD 0 }
      | _ => r)) s

/-- R213 step 4: the buckets of dead planes, in rising order, pass in turn to the surviving planes, the lowest first. -/
def rehashTable (living : List Nat) (bkt : List (BitVec 2)) : List (BitVec 2) :=
  (bkt.foldl (fun (a : List (BitVec 2) × Nat) b =>
    if living.contains b.toNat then (a.1 ++ [b], a.2)
    else (a.1 ++ [BitVec.ofNat 2 (living.getD (a.2 % living.length) 0)], a.2 + 1)) ([], 0)).1

/-- The planes have delivered every request and reply they hold, and the replay is done (R213 steps 2 and 3). -/
def State.drained (s : State) : Bool :=
  s.net.all (fun r => r.kind == .local_ || (match r.stage with | .sent | .replied | .replay _ => false | _ => true))

/-- REHASH_RESUME (R213 steps 4 and 5, R216). -/
def execRehashResume (s : State) : Host.Outcome State Fault Refusal :=
  event (fun s =>
    if s.fabric.busy && s.fabric.alive != 0 && s.drained then
      let s := { s with fabric := { s.fabric with
          bkt := rehashTable s.fabric.living s.fabric.bkt, busy := false,
          rehash := if s.fabric.rehash = 0xFFFF then 0xFFFF else s.fabric.rehash + 1 } }
      ((s.net.filter (fun r => r.stage == .leaf)).map (·.id)).foldl State.inject s
    else s) s

end Sys2Proof.Machine
end

