-- ==== Sys2Proof/Machine/Matrix.lean ====
section
/-! DEFINITION. The matrix unit: signing at stations, the checks at round issue, the unit's order, and the matrix
instructions (chapter 12). -/

namespace Sys2Proof.Machine

/-! ### Operations and their order (R291) -/

/-- The tile that an operation touches. -/
def MatOp.tile? : MatOp → Option Nat
  | .stream _ _ t .. | .zero t .. | .fill _ t .. | .drain _ _ _ t .. | .drainv _ t .. => some t
  | _ => none
/-- The engine that runs an operation: 0 load, 1 stream, 2 tile. -/
def MatOp.engine : MatOp → Nat
  | .load .. => 0
  | .swap | .stream .. => 1
  | _ => 2
/-- An operation touches a plane. -/
def MatOp.onPlane : MatOp → Bool
  | .load .. | .swap | .stream .. => true
  | _ => false
/-- R291: two operations that may not overlap: one engine, one tile, or an MSWAP and a plane. An MLOAD and an MSTREAM meet
different planes unless an MSWAP stands between them. -/
def MatOp.conflicts (x y : MatOp) : Bool :=
  x.engine == y.engine || (x.tile?.isSome && x.tile? == y.tile?) || (x == .swap && y.onPlane) || (y == .swap && x.onPlane)

/-- The unit of a core. -/
def State.unit (s : State) (c : Nat) : MatUnit := (s.core c).unit
/-- Update a unit. -/
def State.modUnit (s : State) (c : Nat) (f : MatUnit → MatUnit) : State := s.modCore c (fun k => { k with unit := f k.unit })
/-- Update an operation of a unit. -/
def State.modRun (s : State) (c id : Nat) (f : MatRun → MatRun) : State :=
  s.modUnit c (fun u => { u with ops := u.ops.map (fun r => if r.id = id then f r else r) })

/-- A plane by number. -/
def MatUnit.plane (u : MatUnit) (n : Nat) : Plane := u.planes.getD n Plane.reset
/-- A row of a tile; a row not listed is zero. -/
def MatUnit.row (u : MatUnit) (tile t : Nat) : List Word :=
  match (u.tiles.getD tile [])[t]? with | some r => (if r.isEmpty then List.replicate 256 0 else r) | none => List.replicate 256 0
/-- Replace rows of a tile from row `row0`. -/
def MatUnit.setRows (u : MatUnit) (tile row0 : Nat) (rows : List (List Word)) : MatUnit :=
  { u with tiles := u.tiles.modify tile (fun old =>
      let full := old ++ List.replicate (128 - old.length) []
      (List.range 128).map (fun t => if row0 ≤ t ∧ t < row0 + rows.length then rows.getD (t - row0) [] else full.getD t [])) }

/-! ### Places -/

/-- Place `n` bytes further on. -/
def Place.plus : Place → Nat → Place
  | .g a, n => .g (a + n)
  | .scratch t z, n => .scratch t (z + n)
  | .k c, n => .k (c + n)

/-- The bytes at a place, as they stand at their home. -/
def State.placeBytes (s : State) (part : Nat) (p : Place) (n : Nat) : List Byte :=
  match p with
  | .g a => s.memBytes a n
  | .scratch t k => s.scratchBytes t k n
  | .k c => s.sliceBytes part true c n

/-- Store bytes at a place: a tagged update at a home slice (R206), or bytes of core scratch. -/
def State.placeWrite (s : State) (part : Nat) (p : Place) (bs : List Byte) : State :=
  match p with
  | .g a => s.sliceStore part false a bs
  | .scratch t k => s.scratchWrite t k bs
  | .k c => s.sliceStore part true c bs

/-- Bytes of a watched place hold undefined values from now on (R292). -/
def State.placeFree (s : State) (p : Place) (offs : List Nat) : State :=
  offs.foldl (fun s i => match p with
    | .g a => s.setUndef (lineOf (a + i)) (s.undefMask (lineOf (a + i)) ||| BitVec.twoPow 128 ((a + i) % 128))
    | p => { s with undefAt := p.plus i :: s.undefAt }) s

/-! ### Operand values at round issue (R288, R290) -/

/-- A signing instruction without its header: the opcode, D, SUB and IMM10 fields and the register numbers (R288). -/
def opcodeSet (i : Instr) : Instr :=
  let z : Hdr := { seten := false, setd := 0, st := 0 }
  match i with
  | .mload _ n t sl a b => .mload z n t sl a b
  | .mswap _ n => .mswap 0 n
  | .mstream _ n x sl t a b c => .mstream z n x sl t a b c
  | .mzero _ n t c => .mzero z n t c
  | .mfill _ n sp t a b c => .mfill z n sp t a b c
  | .mdrain _ n bf ad sp t a b c => .mdrain z n bf ad sp t a b c
  | .mdrainv _ n r t d a => .mdrainv z n r t d a
  | i => i

/-- Table 12.7: ROW0 and M of a pass word; none where its value breaks the table. -/
def passWord (w : Word) : Option (Nat × Nat) :=
  let row0 := (w.extractLsb' 8 7).toNat
  let m := (w.extractLsb' 0 8).toNat
  if w.extractLsb' 15 17 = 0 ∧ row0 % 16 = 0 ∧ m % 16 = 0 ∧ 16 ≤ m ∧ row0 + m ≤ 128 then some (row0, m) else none

/-- A range of core scratch that an operation reads. -/
structure Region where
  start : Nat
  len   : Nat
  deriving DecidableEq, Repr

/-- Blocks per row of a slot (R281). -/
def slotBlocks (sl : Slot) : Nat := passDepth sl.elem / sl.blockSize

/-- R280, R297: what an MLOAD reads. -/
def loadRegions (sl : Slot) (wb ws : Nat) : List Region :=
  { start := wb, len := 32768 } ::
  ((if sl.bscale = .none then [] else [{ start := ws, len := 32 * 255 + slotBlocks sl }]) ++
   (if sl.band then [{ start := ws + 8192, len := 8 }] else []))
/-- R280, R299: what an MSTREAM reads. -/
def streamRegions (sl : Slot) (ab as_ row0 m : Nat) : List Region :=
  { start := ab, len := 128 * m } ::
  ((if sl.bscale = .none then [] else [{ start := as_, len := 32 * (m - 1) + slotBlocks sl }]) ++
   (if sl.band then [{ start := as_ + 4096 + 2 * (row0 / 64), len := 2 * ((row0 + m - 1) / 64 - row0 / 64 + 1) }] else []))

/-- A slot names block or band scales. -/
def Slot.scaled (sl : Slot) : Bool := sl.bscale != .none || sl.band

/-- Smallest of a list. -/
def leastOf : List Nat → Option Nat
  | [] => none
  | x :: xs => match leastOf xs with | none => some x | some y => some (min x y)

/-- R290 step 3: ALIGN, for the lowest misaligned address. -/
def alignTrap (addrs : List Nat) : Option Trap :=
  (leastOf (addrs.filter (fun a => a % 128 != 0))).map (fun a => { code := .align, addr := a })
/-- R290 step 4: SPACE, for the lowest region that passes the allotment. -/
def spaceTrap (allot : Nat) (rs : List Region) : Option Trap :=
  (leastOf ((rs.filter (fun r => decide (r.start + r.len > allot))).map (·.start))).map (fun a => { code := .space, addr := a })

/-- Bytes of a tile element in memory. -/
def elemBytes (bf16 : Bool) : Nat := if bf16 then 2 else 4

/-- A trap of the first kind found. -/
def firstTrap : List (Option Trap) → Option Trap
  | [] => none
  | some t :: _ => some t
  | none :: rest => firstTrap rest

/-- R301: the rows of an MFILL or MDRAIN: pieces of 128 bytes as translated and checked, or the first fault in R290's order. -/
def State.rowPlaces (s : State) (t : ThreadId) (priv : Bool) (space : Space) (kind : AccKind) (base stride m rowLen : Nat) :
    Except Trap (List (List Place)) :=
  let q := s.quire t.quire
  match alignTrap ([base] ++ (if stride % 128 = 0 then [] else [base - base % 128 + 1])) with
  | some tr => .error { tr with addr := base }
  | none =>
    (List.range m).foldl (fun acc r => match acc with
      | .error tr => .error tr
      | .ok rows =>
        let at_ := base + r * stride
        match space with
        | .g =>
          (match (List.range (rowLen / 128)).foldl (fun (acc : Except Trap (List Place)) i => match acc with
              | .error tr => .error tr
              | .ok ps => (match s.translateNow q.team q.core priv kind ((at_ + 128 * i) % 2 ^ 48) 128 with
                | .error tr => .error tr
                | .ok pa => .ok (ps ++ [.g pa]))) (.ok []) with
            | .error tr => .error tr
            | .ok ps => .ok (rows ++ [ps]))
        | _ =>
          (match s.checkAccess t kind space at_ 1 rowLen with
            | .ok (ch :: _) => .ok (rows ++ [(List.range (rowLen / 128)).map (fun i => ch.place.plus (128 * i))])
            | .trap tr => .error tr
            | _ => .error { code := .space, addr := at_ })) (.ok [])

/-- The values of a round's operand set. -/
def valueAt (vals : List Word) (i : Nat) : Nat := (vals.getD i 0).toNat

/-- The values of the q registers named in A and onwards, those of a station register left out. -/
def operandValues (stn : ObjName) (vals : List Word) : List Word := match stn with | .imm _ => vals | .reg _ => vals.drop 1

/-- A base from a q pair for `.g`, else from one register (R301), with the values after it. -/
def baseValues (space : Space) (vals : List Word) : Nat × List Word :=
  match space with
  | .g => (valueAt vals 1 % 2 ^ 16 * 2 ^ 32 + valueAt vals 0, vals.drop 2)
  | _ => (valueAt vals 0, vals.drop 1)

/-- R290: the checks of a round of team `team` on core `c`, in order: the operation and its rows, or a fault. -/
def State.roundCheck (s : State) (c team : Nat) (t : ThreadId) (priv : Bool) (i : Instr) (vals : List Word) :
    Except Trap (MatOp × List (List Place)) :=
  let u := s.unit c
  let allot := (s.team team).allot * 65536
  let bad3 : Trap := { code := .mismatch, detail := 3 }
  match i with
  | .mload _ n tr sl _ _ =>
    let vs := operandValues n vals
    let f := s.slot t.quire sl.toNat
    let (wb, ws) := (valueAt vs 0, valueAt vs 1)
    (match firstTrap [alignTrap ([wb] ++ if f.scaled then [ws] else []), spaceTrap allot (loadRegions f wb ws)] with
      | some tp => .error tp
      | none => .ok (.load tr f wb ws, []))
  | .mswap .. => .ok (.swap, [])
  | .mstream _ n z sl tile _ _ _ =>
    let vs := operandValues n vals
    let f := s.slot t.quire sl.toNat
    let (ab, as_) := (valueAt vs 0, valueAt vs 1)
    (match passWord (vs.getD 2 0) with
      | none => .error bad3
      | some (row0, m) =>
        let pair := match u.issued.getD u.issuedActive none with
          | none => some { code := .mismatch, detail := 2 }
          | some w0 => if pairOk w0 f then none else some { code := .mismatch, detail := 2 }
        match firstTrap [pair, alignTrap ([ab] ++ if f.scaled then [as_] else []), spaceTrap allot (streamRegions f ab as_ row0 m)] with
        | some tp => .error tp
        | none => .ok (.stream z f tile.toNat ab as_ row0 m, []))
  | .mzero _ n tile _ =>
    (match passWord ((operandValues n vals).getD 0 0) with
      | none => .error bad3
      | some (row0, m) => .ok (.zero tile.toNat row0 m, []))
  | .mfill _ n sp tile _ _ _ =>
    let (base, vs) := baseValues sp (operandValues n vals)
    let stride := valueAt vs 0
    (match passWord (vs.getD 1 0) with
      | none => .error bad3
      | some (row0, m) =>
        if stride < 1024 ∧ ¬(stride = 0 ∧ m = 16) then .error bad3
        else match s.rowPlaces t priv sp .read base stride m 1024 with
          | .error tp => .error tp
          | .ok rows => .ok (.fill sp tile.toNat base stride row0 m, rows))
  | .mdrain _ n bf ad sp tile _ _ _ =>
    let (base, vs) := baseValues sp (operandValues n vals)
    let stride := valueAt vs 0
    let len := 256 * elemBytes bf
    (match passWord (vs.getD 1 0) with
      | none => .error bad3
      | some (row0, m) =>
        if stride < len ∧ ¬(stride = 0 ∧ m = 16) then .error bad3
        else match s.rowPlaces t priv sp (if ad then .rw else .write) base stride m len with
          | .error tp => .error tp
          | .ok rows => .ok (.drain bf ad sp tile.toNat base stride row0 m, rows))
  | .mdrainv _ n r tile d _ =>
    let row := valueAt (operandValues n vals) 0
    let k := 1 <<< r.toNat
    if row > 127 ∨ row + k > 128 then .error bad3 else .ok (.drainv k tile.toNat d.toNat row, [])
  | _ => .error bad3

/-! ### Signing (R287 to R290) -/

/-- A signer traps: its counter falls and it stands at the signing instruction. -/
def State.failSigner (s : State) (tr : Trap) (x : ThreadId × Nat) : State :=
  match s.op? x.2 with
  | some o => (s.completeFor x.2 [x.1]).raiseOp o [x.1] tr
  | none => s

/-- The rows of global memory that an operation moves: base, stride, rows, bytes per row. -/
def MatOp.globalRows : MatOp → Option (Nat × Nat × Nat × Nat)
  | .fill .g _ base stride _ m => some (base, stride, m, 1024)
  | .drain bf _ .g _ base stride _ m => some (base, stride, m, 256 * elemBytes bf)
  | _ => none

/-- R393: the pages of an operation's rows. -/
def State.sealRows (s : State) (core team : Nat) (what : MatOp) : State :=
  match what.globalRows with
  | none => s
  | some (base, stride, m, len) => s.usePages core (s.recordOf team).root
      ((List.range m).flatMap (fun r => (List.range (len / 128)).map (fun i => (base + r * stride + 128 * i) % 2 ^ 48)))

/-- R289, R290: a round issues: its checks, then the operation passes to the unit and the signers go on. -/
def State.roundIssue (s : State) (c sn : Nat) : State :=
  let stn := (s.core c).stations.getD sn Station.reset
  let s := s.modStation c sn (fun x => { x with signers := [], set := none })
  match stn.set, stn.signers with
  | some (i, vals), x :: _ =>
    let team := (s.quire x.1.quire).team
    let priv := stn.signers.all (fun y => (s.thread y.1).hand)
    (match s.roundCheck c team x.1 priv i vals with
      | .error tr => stn.signers.foldl (fun s y => s.failSigner tr y) (s.noteForeign x.1 tr)
      | .ok (what, rows) =>
        let (id, s) := (s.sealRows c team what).fresh
        let run : MatRun := { id := id, team := team, what := what, signers := stn.signers, started := false, rows := rows,
                              result := [], scales := [], bands := [], flags := [], chkr := false,
                              late := stn.signers.flatMap (fun y => (s.thread y.1).unfenced) }
        let s := s.modUnit c (fun u =>
          let u := { u with ops := u.ops ++ [run] }
          match what with
          | .load _ sl _ _ => { u with issued := u.issued.set (1 - u.issuedActive) (some sl.w0) }
          | .swap => { u with issuedActive := 1 - u.issuedActive }
          | _ => u)
        stn.signers.foldl (fun s y => s.unparkOp y.2 [y.1]) s)
  | _, _ => s

/-- R288, R289: one thread signs. -/
def State.signOne (s : State) (c sn op : Nat) (set : Instr × List Word) (t : ThreadId) : State :=
  let stn := (s.core c).stations.getD sn Station.reset
  if stn.set.isSome && stn.set != some set then
    ((stn.signers ++ [(t, op)]).foldl (fun s y => s.failSigner { code := .mismatch, detail := 1 } y) s).modStation c sn
      (fun x => { x with signers := [], set := none })
  else
    let s := s.modStation c sn (fun x => { x with signers := x.signers ++ [(t, op)], set := some set })
    if stn.signers.length + 1 = stn.n then s.roundIssue c sn else s

/-- R287 to R290: a signing instruction. `marks` are the registers that its completion writes. -/
def signAt (i : Instr) (stn : ObjName) (marks : List Nat) (s : State) : Host.Outcome State Fault Refusal :=
  issue i (fun c s =>
    let sn := s.objNum c stn % 16
    let st := (s.core c.g.core).stations.getD sn Station.reset
    let team := (s.quire c.q).team
    if st.owner ≠ some team ∨ (s.unit c.g.core).holder ≠ some team then .done (s.trapAt c.g c.takers { code := .station })
    else
      let set := (opcodeSet i, i.uses.rq.map (fun r => s.readQ c.now c.hand c.q r))
      let (id, s) := s.fresh
      let s := s.addOp { c.newOp id .matrix c.takers with dests := marks.map RegId.v }
      let s := c.takers.foldl (fun s t => s.markV c.now t marks id) s
      let s := s.parkAt c.g c.takers c.next (.station sn id)
      .done (c.takers.foldl (fun s t => s.signOne c.g.core sn id set t) s)) s

/-- MLOAD (R297). -/
def execMload (h : Hdr) (stn : ObjName) (transpose : Bool) (slot : BitVec 3) (a b : Reg8) (s : State) : Host.Outcome State Fault Refusal :=
  signAt (.mload h stn transpose slot a b) stn [] s
/-- MSWAP (R298). -/
def execMswap (st : BitVec 3) (stn : ObjName) (s : State) : Host.Outcome State Fault Refusal := signAt (.mswap st stn) stn [] s
/-- MSTREAM (R299). -/
def execMstream (h : Hdr) (stn : ObjName) (zero : Bool) (slot : BitVec 3) (tile : BitVec 2) (a b c : Reg8) (s : State) :
    Host.Outcome State Fault Refusal := signAt (.mstream h stn zero slot tile a b c) stn [] s
/-- MZERO (R300). -/
def execMzero (h : Hdr) (stn : ObjName) (tile : BitVec 2) (c : Reg8) (s : State) : Host.Outcome State Fault Refusal :=
  signAt (.mzero h stn tile c) stn [] s
/-- MFILL (R301). -/
def execMfill (h : Hdr) (stn : ObjName) (space : Space) (tile : BitVec 2) (a b c : Reg8) (s : State) : Host.Outcome State Fault Refusal :=
  signAt (.mfill h stn space tile a b c) stn [] s
/-- MDRAIN (R301). -/
def execMdrain (h : Hdr) (stn : ObjName) (bf16 add : Bool) (space : Space) (tile : BitVec 2) (a b c : Reg8) (s : State) :
    Host.Outcome State Fault Refusal := signAt (.mdrain h stn bf16 add space tile a b c) stn [] s
/-- MDRAINV (R302). -/
def execMdrainv (h : Hdr) (stn : ObjName) (rows tile : BitVec 2) (d a : Reg8) (s : State) : Host.Outcome State Fault Refusal :=
  signAt (.mdrainv h stn rows tile d a) stn (span d.toNat (8 * (1 <<< rows.toNat))) s

/-! ### The unit at work (R280 to R286, R291, R292, R301) -/

/-- Bytes of core scratch of the team on the unit's core. -/
def State.unitBytes (s : State) (c team off n : Nat) : List Byte :=
  s.scratchBytes team (scratchKey ((s.team team).cores.idxOf c) off) n
/-- The place of an offset of core scratch. -/
def State.unitPlace (s : State) (c team off : Nat) : Place := .scratch team (scratchKey ((s.team team).cores.idxOf c) off)

/-- R280: the rows of a weight tile as they lie: 256 of 128 bytes, or K of 32b bytes under `.t`. -/
def State.weightRows (s : State) (c team : Nat) (tr : Bool) (sl : Slot) (wb : Nat) : List (List Word) :=
  let len := if tr then 32 * sl.elem.bits else 128
  (List.range (32768 / len)).map (fun r => bytesWords (s.unitBytes c team (wb + r * len) len))

/-- BF16 codes from bytes. -/
def halves (bs : List Byte) : List (BitVec 16) := (List.range (bs.length / 2)).map (fun i => BitVec.ofNat 16 (leNat ((bs.drop (2 * i)).take 2)))

/-- What a pass needs, from the active plane and scratch (R281 to R285). -/
def State.passInput (s : State) (c team : Nat) (f : Slot) (as_ row0 m : Nat) : PassIn :=
  let p := (s.unit c).plane (s.unit c).active
  { wt := { w0 := p.fmt.getD 0, seed := 0 }, act := f, team := BitVec.ofNat 32 (s.team team).index, wrows := p.rows,
    wscale := p.scales, wband := p.bands,
    aband := if f.band then (List.range 2).map (fun h =>
        if row0 / 64 ≤ h ∧ h ≤ (row0 + m - 1) / 64 then (halves (s.unitBytes c team (as_ + 4096 + 2 * h) 2)).headD 0 else 0) else [] }

/-- R299: the rows of a pass, each with its flags. -/
def State.passRows (s : State) (c team : Nat) (zero : Bool) (f : Slot) (tile ab as_ row0 m : Nat) : List (List Word × Flags) :=
  let p := s.passInput c team f as_ row0 m
  let wv := p.wrows.map (rowVals p.act.accInt p.wt.elem)
  (List.range m).map (fun r =>
    passRow p wv (bytesWords (s.unitBytes c team (ab + 128 * r) 128)) (s.unitBytes c team (as_ + 32 * r) 32) (row0 + r)
      (if zero then List.replicate 256 0 else (s.unit c).row tile (row0 + r)))

/-- R301: the bytes of a drained row. -/
def drainBytes (bf16 : Bool) (row : List Word) : List Byte :=
  if bf16 then row.flatMap (fun x => leBytes 2 (drainBf16 x).toNat) else row.flatMap (fun x => leBytes 4 x.toNat)
/-- R301 `.add`: bytes of a destination with a drained row added. -/
def addBytes (bf16 : Bool) (old new : List Byte) : List Byte :=
  if bf16 then ((halves old).zip (halves new)).flatMap (fun x => leBytes 2 (baddHalf x.1 x.2).toNat)
  else ((bytesWords old).zip (bytesWords new)).flatMap (fun x => leBytes 4 ((f32Add x.1 x.2).1).toNat)

/-- An operation reads or writes bytes while it runs (R292). -/
def State.watchAt (s : State) (owner row : Nat) (p : Place) (len : Nat) (write : Bool) : State :=
  { s with watch := s.watch ++ [{ owner := owner, row := row, place := p, len := len, write := write, hits := [] }] }

/-- R292: bytes that a signer of an operation stored without an MOPF. -/
def State.watchHit (s : State) (owner : Nat) (p : Place) (n : Nat) : State :=
  { s with watch := s.watch.map (fun w => if w.owner = owner then { w with hits := w.hits ++ w.covered p n } else w) }

/-- A watch of each of a list of pieces. -/
def State.watchAll (s : State) (owner : Nat) (ws : List (Nat × Place × Nat × Bool)) : State :=
  ws.foldl (fun s w => s.watchAt owner w.1 w.2.1 w.2.2.1 w.2.2.2) s

/-- Pieces of rows with their numbers. -/
def rowPieces (rows : List (List Place)) : List (Nat × Place) := (rows.mapIdx (fun r ps => ps.map (fun p => (r, p)))).flatten

/-- What is watched in core scratch: rows, block scales (1000 + row) and band scales (2000). -/
def State.scratchWatches (s : State) (c team : Nat) (w : MatOp) : List (Nat × Place × Nat × Bool) :=
  let at_ := fun off => s.unitPlace c team off
  match w with
  | .load tr sl wb ws =>
    let len := if tr then 32 * sl.elem.bits else 128
    (List.range (32768 / len)).map (fun r => (r, at_ (wb + r * len), len, false)) ++
    (if sl.bscale = .none then [] else (List.range 256).map (fun r => (1000 + r, at_ (ws + 32 * r), slotBlocks sl, false))) ++
    (if sl.band then [(2000, at_ (ws + 8192), 8, false)] else [])
  | .stream _ sl _ ab as_ row0 m =>
    (List.range m).flatMap (fun r =>
      [(r, at_ (ab + 128 * r), 128, false)] ++
      (if sl.bscale = .none then [] else [(r, at_ (as_ + 32 * r), slotBlocks sl, false)]) ++
      (if sl.band then [(r, at_ (as_ + 4096 + 2 * ((row0 + r) / 64)), 2, false)] else []))
  | _ => []

/-- R301: a drain whose bytes are formed when it starts: one within core scratch, or without `.add`. A line that `.add` updates
at its home slice is one RMW there (R267), formed when it is performed. -/
def MatOp.early : MatOp → Bool
  | .drain _ add sp .. => !add || sp == .s || sp == .c
  | _ => false

/-- The bytes that an operation reads and writes: place, length, and whether it writes them. -/
def State.runPieces (s : State) (c : Nat) (r : MatRun) : List (Place × Nat × Bool) :=
  (s.scratchWatches c r.team r.what).map (fun w => (w.2.1, w.2.2.1, false)) ++
  (rowPieces r.rows).map (fun x => (x.2, 128, match r.what with | .drain .. => true | _ => false))

/-- Two pieces share a byte. -/
def Place.meets (p : Place) (n : Nat) (q : Place) (m : Nat) : Bool :=
  match p, q with
  | .g a, .g b | .k a, .k b => overlaps a n b m
  | .scratch t a, .scratch u b => t == u && overlaps a n b m
  | _, _ => false

/-- R291: two operations one of which writes a byte that the other touches: their results must be those of unit order. -/
def State.memClash (s : State) (c : Nat) (x y : MatRun) : Bool :=
  let ps := s.runPieces c x
  let qs := s.runPieces c y
  (ps.any (·.2.2) || qs.any (·.2.2)) && ps.any (fun p => qs.any (fun q => (p.2.2 || q.2.2) && p.1.meets p.2.1 q.1 q.2.1))

/-- The rows that a drain within core scratch, or without `.add`, writes: overlapping rows (stride 0) add up in rising order. -/
def State.drainRows (s : State) (part : Nat) (bf ad : Bool) (rows : List (List Byte)) (places : List (List Place)) : List (List Word) :=
  ((rows.zip places).foldl (fun (a : State × List (List Word)) x =>
    let new := if ad then addBytes bf (x.2.flatMap (fun p => a.1.placeBytes part p 128)) x.1 else x.1
    (if ad then (x.2.zipIdx).foldl (fun s p => s.placeWrite part p.1 ((new.drop (128 * p.2)).take 128)) a.1 else a.1,
      a.2 ++ [bytesWords new])) (s, [])).2

/-- The start of an operation: it reads its sources and computes its results. -/
def State.startRun (s : State) (c : Nat) (r : MatRun) : State :=
  let part := s.partOfCore c
  let gang := (s.team r.team).gang
  let s := (s.runPieces c r).foldl (fun s p => if p.2.2 then s else s.noteRead (p.1.inPart part) p.2.1) s
  let set := fun (s : State) (f : MatRun → MatRun) => s.modRun c r.id (fun x => { f x with started := true })
  -- R292: what a signer stored and no MOPF followed is undefined in what the operation forms
  (fun s => r.late.foldl (fun s p => s.watchHit r.id p.1 p.2) s) <| match r.what with
  | .load tr sl wb ws =>
    let rows := s.weightRows c r.team tr sl wb
    let scales := if sl.bscale = .none then [] else s.unitBytes c r.team ws 8192
    let bands := if sl.band then halves (s.unitBytes c r.team (ws + 8192) 8) else []
    (set s (fun x => { x with result := rows, scales := scales, bands := bands })).watchAll r.id (s.scratchWatches c r.team r.what)
  | .stream z sl tile ab as_ row0 m =>
    let out := s.passRows c r.team z sl tile ab as_ row0 m
    let s := (set s (fun x => { x with result := out.map (·.1), flags := out.map (·.2) })).watchAll r.id (s.scratchWatches c r.team r.what)
    (match s.upsetNow with
      | none => s
      | some true => s.modRun c r.id (fun x => { x with chkr := true })
      | some false => ((s.modRun c r.id (fun x => { x with result := [], flags := [] })).addKill gang TrapCode.check.num).modCore c
          (fun k => { k with quar := true }))
  | .fill .. =>
    let s := r.rows.foldl (fun s ps => ps.foldl (fun s p => match p with
      | .g a => (s.consume gang (lineOf a)).touchTag (homeSlice (s.part part) a) (lineOf a) 0 0
      | _ => s) s) s
    let rows := r.rows.map (fun ps => bytesWords (ps.flatMap (fun p => s.placeBytes part p 128)))
    (set s (fun x => { x with result := rows })).watchAll r.id ((rowPieces r.rows).map (fun x => (x.1, x.2.inPart part, 128, false)))
  | .drain bf ad _ tile _ _ row0 m =>
    let rows := (List.range m).map (fun k => drainBytes bf ((s.unit c).row tile (row0 + k)))
    let out := if r.what.early then s.drainRows part bf ad rows r.rows else rows.map bytesWords
    (set s (fun x => { x with result := out })).watchAll r.id ((rowPieces r.rows).map (fun x => (x.1, x.2.inPart part, 128, true)))
  | _ => set s (fun x => x)

/-- R210, R213: the leaf of a unit's core may send the requests of an operation's rows now. -/
def State.runReady (s : State) (c : Nat) (r : MatRun) : Bool :=
  (rowPieces r.rows).all (fun p => match p.2 with
    | .g a => s.leafClear c false (lineOf a)
    | .k a => s.leafClear c true (lineOf a)
    | .scratch .. => true)

/-- MATRIX_OP_START (R291): an operation starts once every earlier one that conflicts with it, or whose bytes it would meet,
has completed. -/
def execMatrixOpStart (core id : Nat) (s : State) : Host.Outcome State Fault Refusal :=
  event (fun s =>
    let ops := (s.unit core).ops
    match ops.find? (fun r => r.id == id) with
    | none => s
    | some r =>
      if r.started || (ops.takeWhile (fun x => x.id != id)).any (fun x => x.what.conflicts r.what || s.memClash core x r) || !s.runReady core r then s
      else s.startRun core r) s

/-- R292: rows that another agent's access touched. -/
def hitRow (ws : List Watch) (row : Nat) : Bool := ws.any (fun w => w.row == row && !w.hits.isEmpty)

/-- Rows of results, free words where an access of another agent reached their sources (R292). -/
def State.freeRows (s : State) (ws : List Watch) (rows : List (List Word)) : List (List Word) :=
  rows.mapIdx (fun r row => if hitRow ws r then row.mapIdx (fun n _ => Config.freeWord s.tick (r * 1024 + n)) else row)

/-- The bits of a tile's status word that MSTREAM sets (Table 12.9). -/
def tileFlags (f : Flags) : BitVec 8 := (f &&& (fNV ||| fOF ||| fUF ||| fNX)).setWidth 8

/-- Write a completed MLOAD into the shadow plane (R286, R297). -/
def MatUnit.loadPlane (u : MatUnit) (tr : Bool) (sl : Slot) (rows : List (List Word)) (scales : List Byte) (bands : List (BitVec 16)) : MatUnit :=
  let rows := if tr then transposeTile sl.elem rows else rows
  let p : Plane := { fmt := some sl.w0, rows := rows, scales := scales, bands := bands,
                     check := (List.range (passDepth sl.elem)).map (checkEntry sl.elem rows) }
  { u with planes := u.planes.set (1 - u.active) p }

/-- R188: a drain's write of a line of memory at its home slice, as a request of a class. -/
def State.touchPlace (s : State) (part : Nat) (p : Place) (cls : Nat) : State :=
  match p with | .g a => s.touchWrite (homeSlice (s.part part) a) (lineOf a) 0 cls | _ => s

/-- R391: a drain's update of a line, in the log of its signers' grid. -/
def State.notePiece (s : State) (c : Nat) (r : MatRun) (p : Place) : State :=
  let q := r.signers.head?.map (fun x => x.1.quire)
  let tag := fun (k : Bool) (a : Nat) => (s.ordOf (s.sliceFor (s.partOfCore c) k a)).toNat
  match p with
  | .g a => s.noteUpdate q false (lineOf a) (leafOf c) (tag false a)
  | .k a => s.noteUpdate q true (lineOf a) (leafOf c) (tag true a)
  | .scratch .. => s

/-- R301: the pieces of a row of a drain that `which` names are performed: their bytes are stored, or added to the line at each
home slice as one RMW (R267). -/
def State.drainRow (s : State) (c gang : Nat) (r : MatRun) (bf : Bool) (row : List Word) (places : List Place) (which : Nat → Bool) :
    State :=
  let part := s.partOfCore c
  let bs := row.flatMap (fun w => leBytes 4 w.toNat)
  (places.zipIdx.filter (fun p => which p.2)).foldl (fun s p =>
    let new := (bs.drop (128 * p.2)).take 128
    let s := s.notePiece c r p.1
    (if r.what.early then s.placeWrite part p.1 new
    else
      let s := match p.1 with | .g a => s.consume gang (lineOf a) | _ => s
      s.placeWrite part p.1 (addBytes bf (s.placeBytes part p.1 128) new)).touchPlace part p.1 3) s

/-- R293: the writes of a started drain that have been performed when it is discarded: which is open (log entry 99). -/
def State.drainSome (s : State) (c : Nat) (r : MatRun) : State :=
  match r.what with
  | .drain bf .. => ((r.result.zip r.rows).zipIdx).foldl (fun s x =>
      s.drainRow c (s.team r.team).gang r bf x.1.1 x.1.2 (fun i => Config.freeBool s.tick (2 ^ 27 + (c * 128 + x.2) * 8 + i))) s
  | _ => s

/-- R292: the flags of a pass: those of the rows that nothing touched, and undefined ones of the others, NV alone in an INT32 pass
(R284). -/
def State.runFlags (s : State) (ws : List Watch) (int : Bool) (fs : List Flags) : Flags :=
  (fs.mapIdx (fun i f =>
    if hitRow ws i then BitVec.setWidth _ (Config.freeWord s.tick (500000 + i)) &&& (if int then fNV else BitVec.allOnes _) else f)).foldl (· ||| ·) 0

/-- A completed operation writes its results. -/
def State.finishRun (s : State) (c : Nat) (r : MatRun) (ws : List Watch) : State :=
  let part := s.partOfCore c
  let rows := s.freeRows ws r.result
  match r.what with
  | .load tr sl _ _ =>
    let scales := r.scales.mapIdx (fun i b => if hitRow ws (1000 + i / 32) then Config.freeByte s.tick (300000 + i) else b)
    let bands := r.bands.mapIdx (fun i b => if hitRow ws 2000 then (Config.freeWord s.tick (400000 + i)).setWidth 16 else b)
    s.modUnit c (fun u => u.loadPlane tr sl rows scales bands)
  | .swap => s.modUnit c (fun u => { u with active := 1 - u.active })
  | .stream _ sl tile _ _ row0 _ =>
    if r.result.isEmpty then s
    else
      let fl := tileFlags (s.runFlags ws sl.accInt r.flags)
      s.modUnit c (fun u => { u.setRows tile row0 rows with
        status := u.status.modify tile (fun x => x ||| fl ||| (if r.chkr then 0x80 else 0)) })
  | .zero tile row0 m => s.modUnit c (fun u => u.setRows tile row0 (List.replicate m []))
  | .fill _ tile _ _ row0 _ => s.modUnit c (fun u => u.setRows tile row0 rows)
  | .drain bf .. => (r.result.zip r.rows).foldl (fun s x => s.drainRow c (s.team r.team).gang r bf x.1 x.2 (fun _ => true)) s
  | .drainv k tile d row =>
    r.signers.foldl (fun s x => (List.range (8 * k)).foldl (fun s i =>
      s.lateReg x.1 x.2 (.v (d + i)) (((s.unit c).row tile (row + i / 8)).getD (8 * x.1.lane + i % 8) 0)) s) s

/-! ### MOPF, MWAIT and MSTAT (R303 to R305) -/

/-- R304: MWAITs whose thread's earlier operations have all completed complete. -/
def State.settleMwait (s : State) : State :=
  (s.ops.filter (fun o => o.kind == .mwait)).foldl (fun s o =>
    s.completeFor o.id (o.threads.filter (fun t => !(s.opsBefore o).any (fun x => x.kind == .matrix && x.threads.contains t)))) s

/-- An engine of a unit holds an operation. -/
def MatUnit.busyEngine (u : MatUnit) (e : Nat) : Bool := u.ops.any (fun r => r.what.engine == e)
/-- ELEM of a format record, 0xF EMPTY. -/
def fmtCode (f : Option Word) : Word := match f with | some w => w &&& 0xF | none => 0xF
/-- Table 12.8. -/
def MatUnit.word (u : MatUnit) : Word :=
  (if u.active = 1 then 0x1000 else 0) ||| (fmtCode (u.plane (1 - u.active)).fmt <<< 8) ||| (fmtCode (u.plane u.active).fmt <<< 4) |||
  (if u.busyEngine 2 then 4 else 0) ||| (if u.busyEngine 1 then 2 else 0) ||| (if u.busyEngine 0 then 1 else 0)

/-- R305: an MSTAT reads its word; a team that does not hold the unit reads one at reset (log entry 27). -/
def State.mstatReply (s : State) (o : Op) (sel : Nat) (clr : Bool) (d : Nat) : State :=
  let team := (s.quire o.quire).team
  let u := s.unit o.core
  let mine := u.holder == some team
  let w : Word := if sel = 0 then (if mine then u.word else MatUnit.reset.word)
    else if mine then (u.status.getD (sel - 1) 0).setWidth 32 else 0
  let s := if clr && mine && sel != 0 then s.modUnit o.core (fun u => { u with status := u.status.modify (sel - 1) (fun x => x &&& 0x62) }) else s
  (s.modOp o.id (fun o => { o with kind := .mem })).postLocal { Req.blank o.core 0 with op := o.id, items := (o.threads.take 1).map (fun t =>
    { thread := t, off := 0, size := 4, data := [], regs := [.q d], ext := .w32, own := (leBytes 4 w.toNat).mapIdx (fun i b => (i, b)), res := [] }) }

/-- MSTATs of a core whose operations have all completed read their words, in order of issue. -/
def State.settleMstat (s : State) (c : Nat) : State :=
  s.ops.foldl (fun s o => match o.kind with
    | .mstat sel clr d runs =>
      if o.core == c && !(s.unit c).ops.any (fun r => runs.contains r.id) then s.mstatReply o sel clr d else s
    | _ => s) s

/-- R391: the lines that a completed drain updates, at their ordering points: whether it may go on, is held, or kills its
grid. -/
def State.drainGate (s : State) (c : Nat) (r : MatRun) : Option Bool :=
  match r.what, r.signers with
  | .drain .., x :: _ =>
    (rowPieces r.rows).foldl (fun acc p => match acc, p.2 with
      | some true, .g a => s.replayCheck x.1.quire (linePoint false (lineOf a)) (leafOf c)
      | some true, .k a => s.replayCheck x.1.quire (linePoint true (lineOf a)) (leafOf c)
      | acc, _ => acc) (some true)
  | _, _ => some true
/-- A completed operation: its results, the bytes that other agents touched meanwhile (R292), its signers' counters. -/
def State.completeRun (s : State) (core : Nat) (r : MatRun) : State :=
  let ws := s.watch.filter (fun w => w.owner == r.id)
  let s := { s with watch := s.watch.filter (fun w => w.owner != r.id) }
  let s := s.finishRun core r ws
  let s := ws.foldl (fun s w => s.placeFree w.place w.hits) s
  let s := s.modUnit core (fun u => { u with ops := u.ops.filter (fun x => x.id != r.id) })
  let s := r.signers.foldl (fun s x => s.completeFor x.2 [x.1]) s
  s.settleMwait.settleMstat core

/-- MATRIX_OP_COMPLETE (R291, R292): the results are written; bytes that other agents touched meanwhile hold undefined
values; the signers' counters fall. -/
def execMatrixOpComplete (core id : Nat) (s : State) : Host.Outcome State Fault Refusal :=
  event (fun s => match (s.unit core).ops.find? (fun r => r.id == id && r.started) with
    | some r => if !s.runReady core r then s else (match s.drainGate core r with
      | none => s
      | some false => s.killReplay ((r.signers.map (·.1.quire)).headD 0)
      | some true => s.completeRun core r)
    | none => s) s

/-- R303: an earlier store, RMW or load of the thread has not reached its completion. -/
def State.operandsLate (s : State) (t : ThreadId) : Bool :=
  s.ops.any (fun o => o.threads.contains t && (match o.kind with | .mem | .stamp | .waitc | .nred => true | _ => false))

/-- MOPF (R303). -/
def execMopf (st : BitVec 3) (s : State) : Host.Outcome State Fault Refusal :=
  issue (.mopf st) (fun c s =>
    if c.takers.any s.operandsLate then .stay s else .done (s.modThreads c.takers (fun _ th => { th with unfenced := [] }))) s
/-- MWAIT (R304). -/
def execMwait (h : Hdr) (s : State) : Host.Outcome State Fault Refusal :=
  issue (.mwait h) (fun c s =>
    let (id, s) := s.fresh
    .done (s.addOp (c.newOp id .mwait c.takers)).settleMwait) s
/-- MSTAT (R305). -/
def execMstat (h : Hdr) (clr : Bool) (sel : BitVec 3) (d : Reg8) (s : State) : Host.Outcome State Fault Refusal :=
  issue (.mstat h clr sel d) (fun c s =>
    let dq := qName c.hand d.toNat
    let u := s.unit c.g.core
    let runs := if sel.toNat = 0 then [] else (u.ops.filter (fun r => r.what.tile? == some (sel.toNat - 1))).map (·.id)
    let (id, s) := s.fresh
    let s := s.addOp { c.newOp id (.mstat sel.toNat clr dq runs) c.takers with dests := [.q dq], uniform := true }
    .done ((s.markQ c.now c.q c.hand [d.toNat] id).settleMstat c.g.core)) s

end Sys2Proof.Machine
end

