-- ==== Sys2Proof/Machine/Copy.lean ====
section
/-! DEFINITION. Tensor descriptors, copy commands and work creation: the class 3 instructions and the copy streamer's steps
(chapter 13). -/

namespace Sys2Proof.Machine

/-! ### Tensor descriptors (R315 to R317) -/

/-- A descriptor's fields (Tables 13.4 and 13.5). -/
structure Desc where
  base   : Nat
  dims   : Nat
  esz    : Nat
  circ   : Nat
  pri    : Nat
  extent : List Nat
  stride : List Int
  box    : List Nat
  deriving DecidableEq, Repr

/-- A field of n bytes at an offset. -/
def fieldAt (bs : List Byte) (off n : Nat) : Nat := leNat ((bs.drop off).take n)

/-- The fields of a descriptor's 128 bytes. -/
def Desc.parse (bs : List Byte) : Desc :=
  let fmt := fieldAt bs 8 4
  { base := fieldAt bs 0 8 % 2 ^ 48, dims := fmt % 8, esz := fmt / 16 % 8, circ := fmt / 256 % 32, pri := fmt / 65536 % 4,
    extent := (List.range 5).map (fun i => fieldAt bs (0x10 + 4 * i) 4),
    stride := (List.range 5).map (fun i => (BitVec.ofNat 64 (fieldAt bs (0x28 + 8 * i) 8)).toInt),
    box := (List.range 5).map (fun i => fieldAt bs (0x50 + 4 * i) 4) }

/-- Element size E in bytes. -/
def Desc.e (d : Desc) : Nat := 2 ^ d.esz
/-- Box of dimension i: 1 at or above DIMS (R315). -/
def Desc.b (d : Desc) (i : Nat) : Nat := if i < d.dims then d.box.getD i 1 else 1

/-- R316: the descriptor is well formed. -/
def Desc.ok (d : Desc) : Bool :=
  decide (1 ≤ d.dims) && decide (d.dims ≤ 5) && decide (d.esz ≤ 4) && d.base % d.e == 0 &&
  (List.range d.dims).all (fun i =>
    decide (1 ≤ d.extent.getD i 0) && decide (d.extent.getD i 0 ≤ 2 ^ 31 - 1) &&
    decide (1 ≤ d.box.getD i 0) && decide (d.box.getD i 0 ≤ 65536) && d.stride.getD i 0 % (d.e : Int) == 0)

/-- R317: elements of the box. -/
def Desc.count (d : Desc) : Nat := d.b 0 * d.b 1 * d.b 2 * d.b 3 * d.b 4
/-- R317: T. -/
def Desc.bytes (d : Desc) : Nat := d.e * d.count

/-- R317: the coordinate of dimension i after wrapping. -/
def Desc.wrap (d : Desc) (i : Nat) (k : Int) : Int := if d.circ.testBit i then k % (d.extent.getD i 1 : Int) else k

/-- R317: the virtual address of the element at coordinates k, none when it is not inside. -/
def Desc.addr (d : Desc) (k : Nat → Int) : Option Nat :=
  let w := fun i => d.wrap i (k i)
  if (List.range d.dims).all (fun i => decide (0 ≤ w i) && decide (w i < (d.extent.getD i 1 : Int))) then
    some ((((d.base : Int) + (List.range d.dims).foldl (fun a i => a + w i * d.stride.getD i 0) 0) % (2 ^ 48 : Int)).toNat)
  else none

/-- R317: the index within the box, of dimension i, of the l-th element in buffer order. -/
def Desc.index (d : Desc) (l i : Nat) : Nat :=
  match i with
  | 0 => l % d.b 0
  | 1 => l / d.b 0 % d.b 1
  | 2 => l / (d.b 0 * d.b 1) % d.b 2
  | 3 => l / (d.b 0 * d.b 1 * d.b 2) % d.b 3
  | _ => l / (d.b 0 * d.b 1 * d.b 2 * d.b 3) % d.b 4

/-- R317: addresses of the box's elements in buffer order, from start coordinates c. -/
def Desc.boxAddrs (d : Desc) (c : Nat → Int) : List (Option Nat) :=
  (List.range d.count).map (fun l => d.addr (fun i => c i + (d.index l i : Int)))

/-- R327: addresses of the elements that a gather moves, row after row. -/
def Desc.gatherAddrs (d : Desc) (idx : List Int) : List (Option Nat) :=
  idx.flatMap (fun k1 => (List.range (d.b 0)).map (fun (k0 : Nat) => d.addr (fun i => if i = 0 then ((k0 : Nat) : Int) else if i = 1 then k1 else 0)))

/-! ### Checks at issue (R321, R322, R335) -/

/-- Addresses in rising order, each once. -/
def risingAddrs (vs : List Nat) : List Nat := (sortBy (fun a b => decide (a ≤ b)) vs).eraseDups

/-- R321: translate and check every element of n bytes, in rising address order: the first fault, or none. -/
def State.elemFault (s : State) (team c : Nat) (kind : AccKind) (n : Nat) (vs : List Nat) : Option Trap :=
  firstTrap ((risingAddrs vs).map (fun va => match s.translateNow team c false kind va n with | .error tr => some tr | .ok _ => none))

/-- The physical address of a checked element. -/
def State.elemPa (s : State) (team c : Nat) (kind : AccKind) (n va : Nat) : Nat :=
  match s.translateNow team c false kind va n with | .ok pa => pa | .error _ => 0

/-- R322: a handle named by a copy of T bytes at OFF. -/
def Handle.copyFault (h : Handle) (off t : Nat) : Option Trap :=
  if h.state = .free ∨ off % 16 ≠ 0 ∨ off + t > h.size then some { code := .handle } else none

/-- The descriptor of a slot (WORK with detail 2 when never loaded, R326). -/
def State.descOf (s : State) (team slot : Nat) : Option Desc := ((s.team team).desc.getD slot none).map Desc.parse

/-- WORK with a detail (Table 13.8). -/
def work (d : Nat) : Trap := { code := .work, detail := d }

/-- The bytes of elements in order: for each byte its physical address. -/
def State.elemBytes (s : State) (team c : Nat) (kind : AccKind) (n : Nat) (vs : List (Option Nat)) : List (Option Nat) :=
  vs.flatMap (fun v => match v with
    | none => List.replicate n none
    | some va => (List.range n).map (fun i => some (s.elemPa team c kind n va + i)))

/-- R319: cut the buffer bytes of a copy into pieces at the lines of scratch. `lo` is the first byte's offset from BASE. -/
def cutPieces (lo : Nat) (src : List (Option Nat)) (data : List Byte) : List Piece :=
  let n := max src.length data.length
  let first := lo / 128
  (List.range ((lo + n + 127) / 128 - first)).map (fun i =>
    let a := max lo ((first + i) * 128)
    let b := min (lo + n) ((first + i + 1) * 128)
    { off := a, src := (src.drop (a - lo)).take (b - a), from_ := [], data := (data.drop (a - lo)).take (b - a), done := false })

/-- R329: the bytes of a store grouped by line of memory, in element order within a line. -/
def linePieces (bytes : List (Nat × Nat)) : List Piece :=
  (risingAddrs (bytes.map (fun b => lineOf b.1))).map (fun l =>
    let mine := bytes.filter (fun b => lineOf b.1 == l)
    { off := 0, src := mine.map (fun b => some b.1), from_ := mine.map (·.2), data := [], done := false })

/-- What a copy command asks of its streamer once its checks have passed. -/
structure CopyReq where
  kind   : CopyKind
  dests  : List (Nat × Nat × Nat) := []
  pieces : List Piece := []
  prio   : Nat := 0
  /-- Virtual addresses of its elements. -/
  vas    : List Nat := []
  /-- Physical address of the descriptor that a CPDESC has read (R325). -/
  read   : Option Nat := none
  /-- The teams and the destination of a GROWG. -/
  grow   : Option (Nat × Nat) := none
  deriving DecidableEq, Repr

/-- Commands of the streamer in flight on a core (R318). -/
def State.inFlight (s : State) (c : Nat) : Nat := (s.core c).copies.length

/-- R323: an earlier CPDESC into a slot has not completed. -/
def State.descBusy (s : State) (c team slot : Nat) : Bool :=
  (s.core c).copies.any (fun x => x.team == team && x.kind == .desc slot)

/-- R325: a CPDESC has read its descriptor. -/
def State.noteDesc (s : State) (c gang : Nat) (read : Option Nat) : State :=
  match read with
  | none => s
  | some pa => ((s.consume gang (lineOf pa)).noteRead (.g pa) 128).touchTag (homeSlice (s.part (s.partOfCore c)) pa) (lineOf pa) 0 2

/-- The operation of a copy command; a GROWG is a release at `.dv` that writes its destination (R331). -/
def CopyReq.op (r : CopyReq) (c : Ctx) (id : Nat) : Op :=
  match r.grow with
  | none => c.newOp id .copy c.takers
  | some (n, d) =>
    let dq := qName c.hand d
    { c.newOp id (.growg n dq) c.takers with rel := .dv, phase := .relWait, dests := [.q dq], uniform := true }

/-- R309, R318, R321, R323: a copy command: it waits for a place in flight and for its slot, standing at its own word, is checked, and
goes to the streamer. -/
def copyIssue (i : Instr) (slot : Option Nat) (check : Ctx → State → Except Trap CopyReq) (s : State) :
    Host.Outcome State Fault Refusal :=
  issueWith i true 0 (fun c s =>
    let team := (s.quire c.q).team
    let busy := match slot with | some n => s.descBusy c.g.core team n | none => false
    if decide (s.inFlight c.g.core ≥ 16) || busy then .stay (s.parkAt c.g c.takers c.g.pos .copySlot)
    else match c.upset, check c s with
    | some false, _ => .done (s.noMajority c)
    | _, .error tr => .done ((s.noteForeign c.lead tr).trapAt c.g c.takers tr)
    | u, .ok r =>
      let (id, s) := s.fresh
      let s := s.addOp (r.op c id)
      let s := match r.grow with | some (_, d) => s.markQ c.now c.q c.hand [d] id | none => s
      let x : Copy := { id := id, team := team, core := c.g.core, kind := r.kind, dests := r.dests, pieces := r.pieces,
                        prio := r.prio, got := [], started := false, op := id }
      let s := (s.modCore c.g.core (fun k => { k with copies := k.copies ++ [x] })).usePages c.g.core (s.recordOf team).root r.vas
      let s := s.noteDesc c.g.core (s.team team).gang r.read
      .done (if u.isSome then s.noteMajority c 0 else s)) s

/-- The team of the spine that issues. -/
def Ctx.team (c : Ctx) (s : State) : Nat := (s.quire c.q).team
/-- Start coordinates sint(q[A + i]). -/
def State.coords (s : State) (c : Ctx) (a : Reg8) (i : Nat) : Int := (s.readQ c.now c.hand c.q (a.toNat + i)).toInt
/-- The handle a word names (bits [4:0]). -/
def State.handleNo (s : State) (c : Ctx) (w : HWord) : Nat := s.handleWord c w % 32

/-- CPDESC (R325). -/
def execCpdesc (h : Hdr) (slot : BitVec 4) (a : Reg8) (s : State) : Host.Outcome State Fault Refusal :=
  copyIssue (.cpdesc h slot a) none (fun c s =>
    let va := ((s.baseOf c .g a) % (2 ^ 48 : Int)).toNat
    if va % 128 ≠ 0 then .error { code := .align, addr := va }
    else match s.translateNow (c.team s) c.g.core false .read va 128 with
    | .error tr => .error tr
    | .ok pa =>
      let bs := s.memBytes pa 128
      if (Desc.parse bs).ok then .ok { kind := .desc slot.toNat, pieces := [{ off := 0, src := [], from_ := [], data := bs, done := true }], vas := [va], read := some pa }
      else .error (work 1)) s

/-- A load of a box or of gathered rows to handles: the address checks, then the pieces. -/
def State.loadReq (s : State) (c : Ctx) (kind : CopyKind) (d : Desc) (dests : List (Nat × Nat × Nat)) (off : Nat)
    (vs : List (Option Nat)) : Except Trap CopyReq :=
  match s.elemFault (c.team s) c.g.core .read d.e (vs.filterMap id) with
  | some tr => .error tr
  | none =>
    .ok { kind := kind, dests := dests, pieces := cutPieces off (s.elemBytes (c.team s) c.g.core .read d.e vs) [], prio := d.pri,
          vas := vs.filterMap id }

/-- CPLOAD (R326). -/
def execCpload (h : Hdr) (slot : BitVec 4) (hw : HWord) (d a : Reg8) (s : State) : Host.Outcome State Fault Refusal :=
  copyIssue (.cpload h slot hw d a) (some slot.toNat) (fun c s =>
    let team := c.team s
    let off := s.qNat c d
    let hn := s.handleNo c hw
    let hd := s.handle team hn
    match s.descOf team slot.toNat with
    | none => .error (work 2)
    | some ds => (match hd.copyFault off ds.bytes with
      | some tr => .error tr
      | none => s.loadReq c .load ds [(team, hn, hd.base)] off (ds.boxAddrs (s.coords c a)))) s

/-- CPSTORE (R329). -/
def execCpstore (h : Hdr) (slot : BitVec 4) (d a : Reg8) (s : State) : Host.Outcome State Fault Refusal :=
  copyIssue (.cpstore h slot d a) (some slot.toNat) (fun c s =>
    let team := c.team s
    let src := s.qNat c d
    match s.descOf team slot.toNat with
    | none => .error (work 2)
    | some ds =>
      let vs := ds.boxAddrs (s.coords c a)
      (match firstTrap [if src % 16 = 0 then none else some { code := .align, addr := src },
          if src + ds.bytes > (s.team team).allot * 65536 then some { code := .space, addr := src } else none,
          s.elemFault team c.g.core .write ds.e (vs.filterMap id)] with
        | some tr => .error tr
        | none =>
          let bytes := (s.elemBytes team c.g.core .write ds.e vs).zipIdx.filterMap (fun x => x.1.map (fun pa => (pa, src + x.2)))
          .ok { kind := .store, pieces := linePieces bytes, prio := ds.pri, vas := vs.filterMap id })) s

/-- CPGATHER (R327). Of a slot that was never loaded it reports detail 2, before the count (log entry 102). -/
def execCpgather (h : Hdr) (slot : BitVec 4) (hw : HWord) (d a b : Reg8) (s : State) : Host.Outcome State Fault Refusal :=
  copyIssue (.cpgather h slot hw d a b) (some slot.toNat) (fun c s =>
    let team := c.team s
    let off := s.qNat c d
    let lst := s.qNat c a
    let n := s.qNat c b
    let hn := s.handleNo c hw
    let hd := s.handle team hn
    match s.descOf team slot.toNat with
    | none => .error (work 2)
    | some ds =>
      (match firstTrap [if n = 0 ∨ n > 256 ∨ ds.dims < 2 then some (work 3) else none, hd.copyFault off (n * ds.e * ds.b 0),
          if lst % 4 = 0 then none else some { code := .align, addr := lst },
          if lst + 4 * n > (s.team team).allot * 65536 then some { code := .space, addr := lst } else none] with
        | some tr => .error tr
        | none =>
          let idx := (List.range n).map (fun l => (BitVec.ofNat 32 (leNat (s.scratchBytes team (scratchKey 0 (lst + 4 * l)) 4))).toInt)
          s.loadReq c .gather ds [(team, hn, hd.base)] off (ds.gatherAddrs idx))) s

/-- CPMCAST (R326). Of a slot that was never loaded it reports detail 2, before the mask (log entry 102). -/
def execCpmcast (h : Hdr) (slot : BitVec 4) (hw : HWord) (d a b : Reg8) (s : State) : Host.Outcome State Fault Refusal :=
  copyIssue (.cpmcast h slot hw d a b) (some slot.toNat) (fun c s =>
    let team := c.team s
    let teams := (s.gang (s.team team).gang).teams
    let off := s.qNat c d
    let mask := s.qNat c b % 256
    let hn := s.handleNo c hw
    match s.descOf team slot.toNat with
    | none => .error (work 2)
    | some ds =>
      if mask = 0 ∨ mask / 2 ^ teams.length ≠ 0 then .error (work 5)
      else
        let aims := (teams.zipIdx.filter (fun x => mask.testBit x.2)).map (·.1)
        (match firstTrap (aims.map (fun t => (s.handle t hn).copyFault off ds.bytes)) with
          | some tr => .error tr
          | none => s.loadReq c .mcast ds (aims.map (fun t => (t, hn, (s.handle t hn).base))) off (ds.boxAddrs (s.coords c a)))) s

/-- CPFILL (R328). -/
def execCpfill (h : Hdr) (hw : HWord) (d a b : Reg8) (s : State) : Host.Outcome State Fault Refusal :=
  copyIssue (.cpfill h hw d a b) none (fun c s =>
    let team := c.team s
    let off := s.qNat c d
    let n := s.qNat c b
    let hn := s.handleNo c hw
    let hd := s.handle team hn
    if n % 4 ≠ 0 ∨ n < 4 then .error (work 6)
    else if hd.state = .free then .error { code := .handle }
    else if n > hd.size then .error (work 6)
    else match hd.copyFault off n with
    | some tr => .error tr
    | none =>
      let word := leBytes 4 (s.qNat c a)
      .ok { kind := .fill, dests := [(team, hn, hd.base)], pieces := cutPieces off [] ((List.range (n / 4)).flatMap (fun _ => word)) }) s

/-- FETCHW (R330): the 16 bytes are filled in when the distributor answers. -/
def execFetchw (h : Hdr) (hw : HWord) (d : Reg8) (s : State) : Host.Outcome State Fault Refusal :=
  copyIssue (.fetchw h hw d) none (fun c s =>
    let team := c.team s
    let off := s.qNat c d
    let hn := s.handleNo c hw
    let hd := s.handle team hn
    match hd.copyFault off 16 with
    | some tr => .error tr
    | none => .ok { kind := .fetchw, dests := [(team, hn, hd.base)], pieces := cutPieces off [] (List.replicate 16 0) }) s

/-- GROWG (R331): a release at `.dv`, then one step of the distributor. -/
def execGrowg (h : Hdr) (d a : Reg8) (s : State) : Host.Outcome State Fault Refusal :=
  copyIssue (.growg h d a) none (fun c s =>
    let r := s.recordQ c.q
    let n := s.qNat c a
    if r.cor || n % r.gangN != 0 then .error (work 4) else .ok { kind := .growg, grow := some (n, d.toNat) }) s

/-- R391: the ordering point of a partition's distributor. -/
def distPoint : Nat := 2

/-- R332: a SPEND whose spine's copy commands have completed: the status, the withdrawal, and the end of the spine. A gang saved by a
pre-emption is not withdrawn (log entry 102). -/
def State.spendEnd (s : State) (o : Op) (grid : Bool) (status : Word) : State :=
  let gi := s.gridOf o.quire
  let s := s.modGrid gi (fun g => { g with status := g.status ||| status })
  let s := if grid then s.modGrid gi (fun g =>
      let n := g.ended + g.pending.length * g.record.gangN
      { g with ended := n, pending := [], max := g.count }) else s
  let ts := o.threads
  let s := s.complete o.id
  ts.foldl (fun s t => (s.leaveGath t).modThread t (fun th => { th with stat := .exiting })) s

/-- SPENDs whose teams have no copy command left end their spines; the withdrawal of a SPEND `.grid` takes its place in the
distributor's order (R333). -/
def State.settleSpend (s : State) : State :=
  s.ops.foldl (fun s o => match o.kind with
    | .spend grid status =>
      let team := (s.quire o.quire).team
      if (s.core o.core).copies.any (fun x => x.team == team) then s
      else if grid then s.gatedAt o.quire distPoint (2 ^ 27 + (s.team team).index) 0 (fun s => s.spendEnd o grid status)
      else s.spendEnd o grid status
    | _ => s) s

/-- SPEND (R332). -/
def execSpend (h : Hdr) (grid : Bool) (a : Reg8) (s : State) : Host.Outcome State Fault Refusal :=
  issue (.spend h grid a) (fun c s =>
    let (id, s) := s.fresh
    let s := s.addOp (c.newOp id (.spend grid (s.readQ c.now c.hand c.q a.toNat)) c.takers)
    .done ((s.parkAt c.g c.takers c.next (.op id)).settleSpend)) s

/-! ### The streamer at work (R317 to R320, R330, R331) -/

/-- A copy by identity. -/
def State.copy? (s : State) (id : Nat) : Option Copy := (s.cores.flatMap (·.copies)).find? (fun x => x.id == id)
/-- Update a copy. -/
def State.modCopy (s : State) (x : Copy) (f : Copy → Copy) : State :=
  s.modCore x.core (fun k => { k with copies := k.copies.map (fun y => if y.id = x.id then f y else y) })

/-- R330: the answer to a FETCHW: the first team of a gang withdrawn, or none. -/
def workBytes (r : LaunchRec) (team0 : Nat) (gang : Option Nat) : List Byte :=
  match gang with
  | none => List.replicate 16 0xFF
  | some k =>
    let i := team0 + k * r.gangN
    leBytes 4 (i % r.gx) ++ leBytes 4 (i / r.gx) ++ leBytes 4 i ++ leBytes 4 r.gangN

/-- R330: the distributor answers a FETCHW: only now does the grid count as one that creates work (R334; log entry 102). A gang saved by
a pre-emption is not taken (log entry 102). -/
def State.fetchWork (s : State) (x : Copy) : State :=
  let gi := (s.gang (s.team x.team).gang).grid
  let g := s.grid gi
  let s := s.modCopy x (fun y => { y with started := true, pieces := y.pieces.map (fun p => { p with data := workBytes g.record g.team0 g.pending.head? }) })
  s.modGrid gi (fun g =>
    let n := if g.pending.isEmpty then 0 else g.record.gangN
    { g with creates := true, pending := g.pending.tail, ended := g.ended + n })

/-- R331: the distributor answers a GROWG: only now does the grid count as one that creates work (R334; log entry 102). -/
def State.growGrid (s : State) (x : Copy) (n : Nat) : State :=
  let gi := (s.gang (s.team x.team).gang).grid
  let g := s.grid gi
  let ok := decide (g.count + n ≤ g.max)
  let p : Piece := { off := 0, src := [], from_ := [], data := if ok then leBytes 4 g.count else List.replicate 4 0xFF, done := true }
  let s := s.modCopy x (fun y => { y with started := true, pieces := [p] })
  let new := if ok then (List.range (n / g.record.gangN)).map (g.count / g.record.gangN + ·) else []
  s.modGrid gi (fun g => { g with creates := true, count := g.count + (if ok then n else 0), pending := g.pending ++ new })

/-- The spine that issued a copy. -/
def State.spineOf (s : State) (x : Copy) : Nat := (s.team x.team).spine

/-- COPY_START (R318): commands start in issue order; a FETCHW or GROWG takes its place in the distributor's order (R333). -/
def execCopyStart (id : Nat) (s : State) : Host.Outcome State Fault Refusal :=
  event (fun s => match s.copy? id with
    | none => s
    | some x =>
      let before := (s.core x.core).copies.takeWhile (fun y => y.id != id)
      if x.started || before.any (fun y => !y.started) then s
      else match x.kind with
        | .growg => (match s.op? x.op with
          | some o => (match o.kind, o.phase with
            | .growg n _, .active => s.gatedAt (s.spineOf x) distPoint (2 ^ 26 + (s.team x.team).index) 0 (fun s => (s.growGrid x n).settleSpend)
            | _, _ => s)
          | none => s)
        | .fetchw => s.gatedAt (s.spineOf x) distPoint (2 ^ 25 + (s.team x.team).index) 0 (fun s => (s.fetchWork x).settleSpend)
        | _ => s.modCopy x (fun y => { y with started := true })) s

/-- The bytes that a piece of a copy writes: scratch bytes by team and key, or bytes of memory. -/
def Copy.writes (x : Copy) (p : Piece) : List Place :=
  match x.kind with
  | .store => p.src.filterMap (fun a => a.map Place.g)
  | _ =>
    let n := max p.src.length p.data.length
    x.dests.flatMap (fun d => (List.range n).map (fun i => Place.scratch d.1 (scratchKey 0 (d.2.2 + p.off + i))))

/-- R319: an earlier command of the same spine has still to write a byte that the piece writes. -/
def State.pieceLate (s : State) (x : Copy) (p : Piece) : Bool :=
  ((s.core x.core).copies.takeWhile (fun y => y.id != x.id)).any (fun y =>
    y.team == x.team && y.pieces.any (fun q => !q.done && (y.writes q).any (x.writes p).contains))

/-- Lines of memory that a piece reads and that its command has not read before. -/
def Copy.newLines (x : Copy) (p : Piece) : List Nat :=
  (risingAddrs (p.src.filterMap (fun a => a.map lineOf))).filter (fun l => !x.got.any (fun g => g.1 == l))

/-- R326: a CPMCAST keeps the bytes of the lines that it reads for its later pieces. -/
def State.keepLines (s : State) (x : Copy) (p : Piece) : Copy :=
  if x.kind = .mcast then { x with got := x.got ++ (x.newLines p).map (fun l => (l, s.memBytes (l * 128) 128)) } else x

/-- The bytes of a load's piece, read at their home slices; an element outside reads as zero (R317). -/
def State.pieceBytes (s : State) (x : Copy) (p : Piece) : List Byte :=
  if p.data.isEmpty then p.src.map (fun a => match a with
    | some pa => (match x.got.find? (fun g => g.1 == lineOf pa) with
      | some g => g.2.getD (pa % 128) 0
      | none => s.memByte pa)
    | none => 0)
  else p.data

/-- A piece of a load is delivered to its handles (R249, R319). -/
def State.deliverPiece (s : State) (x : Copy) (p : Piece) : State :=
  let part := s.partOfCore x.core
  let lines := x.newLines p
  let reads := if x.kind = .mcast then (x.pieces.flatMap (·.src)).filter (fun a => a.any (fun pa => lines.contains (lineOf pa))) else p.src
  let s := lines.foldl (fun s l => (s.consume (s.team x.team).gang l).touchTag (homeSlice (s.part part) (l * 128)) l x.prio 2) s
  let s := reads.foldl (fun s a => match a with | some pa => s.noteRead (.g pa) 1 | none => s) s
  let x := s.keepLines x p
  let s := s.modCopy x (fun y => { y with got := x.got })
  let bs := s.pieceBytes x p
  x.dests.foldl (fun s d => (s.scratchWrite d.1 (scratchKey 0 (d.2.2 + p.off)) bs).deliver d.1 d.2.1 bs.length) s

/-- R206, R329: the bytes of one line of a CPSTORE, as one tagged update. -/
def State.storePiece (s : State) (x : Copy) (p : Piece) : State :=
  let part := s.partOfCore x.core
  match p.src.filterMap (·) with
  | [] => s
  | pa :: _ =>
    let sl := homeSlice (s.part part) pa
    let rank := (s.team x.team).cores.idxOf x.core
    let s := p.from_.foldl (fun s off => s.noteRead (.scratch x.team (scratchKey rank off)) 1) s
    let s := (p.src.zip p.from_).foldl (fun s b => match b.1 with
      | some a => s.memWrite a [s.scratchByte x.team (scratchKey rank b.2)]
      | none => s) s
    let s := s.unpoison (lineOf pa) ((p.src.filterMap (·)).map (fun a => (a % 128, 1)))
    ((s.takeTag sl).reevaluate part sl false (lineOf pa)).touchWrite sl (lineOf pa) x.prio 3

/-- R210, R213: the leaf of the copy's core may send the requests of a piece now. -/
def State.pieceClear (s : State) (x : Copy) (p : Piece) : Bool :=
  (match x.kind with | .store => (p.src.filterMap (·)).map lineOf | _ => x.newLines p).all (fun l => s.leafClear x.core false l)

/-- COPY_PIECE_DELIVERY (R319): the pieces of one command in rising order. -/
def execCopyPieceDelivery (id piece : Nat) (s : State) : Host.Outcome State Fault Refusal :=
  event (fun s => match s.copy? id with
    | none => s
    | some x => (match x.pieces[piece]? with
      | none => s
      | some p =>
        if !x.started || p.done || (x.pieces.take piece).any (fun q => !q.done) || s.pieceLate x p || !s.pieceClear x p then s
        else
          let s' := s.modCopy x (fun y => { y with pieces := y.pieces.modify piece (fun q => { q with done := true }) })
          (match x.kind, p.src.filterMap (·) with
            | .store, pa :: _ => s.gatedAt (s.spineOf x) (linePoint false (lineOf pa)) (leafOf x.core)
                (s.ordOf (homeSlice (s.part (s.partOfCore x.core)) pa)).toNat (fun t =>
                  ({ s' with parts := t.parts, kills := t.kills }).storePiece x p)
            | .store, [] => s'
            | _, _ => s'.deliverPiece x p))) s

/-- Spines that wait for a place in flight, or for a descriptor slot, try again (R318, R323). -/
def State.wakeSpines (s : State) (c : Nat) : State :=
  (List.range s.quires.length).foldl (fun s q =>
    if (s.quire q).core = c ∧ (s.thread ⟨q, 0⟩).stat = .parked .copySlot then s.unpark ⟨q, 0⟩ else s) s

/-- R319: an earlier CPDESC of the same spine into the same slot has not written it. -/
def State.descLate (s : State) (x : Copy) : Bool :=
  match x.kind with
  | .desc slot => ((s.core x.core).copies.takeWhile (fun y => y.id != x.id)).any (fun y => y.team == x.team && y.kind == .desc slot)
  | _ => false

/-- COPY_COMPLETE (R320). -/
def execCopyComplete (id : Nat) (s : State) : Host.Outcome State Fault Refusal :=
  event (fun s => match s.copy? id with
    | none => s
    | some x =>
      if !x.started || x.pieces.any (fun p => !p.done) || s.descLate x then s
      else
        let bytes := (x.pieces.head?.map (·.data)).getD []
        let s := match x.kind, s.op? x.op with
          | .desc slot, _ => s.modTeam x.team (fun t => { t with desc := t.desc.set slot (some bytes) })
          | .growg, some o => (match o.kind with
            | .growg _ d => s.lateReg ⟨o.quire, 0⟩ o.id (.q d) (BitVec.ofNat 32 (leNat bytes))
            | _ => s)
          | _, _ => s
        let s := s.modCore x.core (fun k => { k with copies := k.copies.filter (fun y => y.id != id) })
        ((s.complete x.op).wakeSpines x.core).settleSpend) s

end Sys2Proof.Machine
end

