-- ==== Sys2Proof/Machine/Bag.lean ====
section
/-! DEFINITION. Bags: shapes, the placer's procedure, cuts, drains, share windows, and the bag instructions (chapter 14). -/

namespace Sys2Proof.Machine

/-! ### Placement and homes (R339) -/

/-- R339: the stack, channel and bank of a frame of a partition under scheme 7. -/
def frameHome (p : Part) (pa : Nat) : Nat × Nat × Nat :=
  let n := 32 * p.units.hbm.length
  let ch := pa / 65536 % n
  (p.stacks.getD (ch / 32) 0, ch % 32, pa / (65536 * n) % 32)

/-! ### The placer's procedure (R343) -/

/-- The share with least R, ties to the lowest. -/
def leastShare (rs : List Nat) : Nat :=
  (rs.zipIdx.foldl (fun (m : Nat × Nat) x => if x.1 < m.1 then x else m) (rs.headD 0, 0)).2

/-- Free slots of an open group. -/
def Bag.room (b : Bag) (g : Group) : Nat := shapeG b.shape - g.fill

/-- Index of the open group with most free slots, ties to the one opened earliest. -/
def Bag.roomiest (b : Bag) : Option Nat :=
  match b.groups with
  | [] => none
  | g :: _ => some ((b.groups.zipIdx.foldl (fun (m : Nat × Nat) x => if b.room x.1 > m.1 then (b.room x.1, x.2) else m) (b.room g, 0)).2)

/-- R343 rules 1 to 3: the bag with a group for key κ, and that group's index; none when the record fails. -/
def Bag.groupFor (b : Bag) (key : Byte) : Option (Bag × Nat) :=
  let i := b.groups.findIdx (fun g => g.tag == key)
  if i < b.groups.length then some (b, i)
  else
    let s := leastShare b.r
    if b.groups.length < shapeO b.shape ∧ b.fp.getD s 0 < b.cap then
      let g : Group := { share := s, frame := b.fp.getD s 0, tag := key, fill := 0 }
      some ({ b with groups := b.groups ++ [g], fp := b.fp.modify s (· + 1), r := b.r.modify s (· + shapeG b.shape) }, b.groups.length)
    else b.roomiest.map (fun i => (b, i))

/-- R343: place one record: the bag after, its share and its slot; none when it fails. -/
def Bag.place (b : Bag) (key : Byte) : Option (Bag × Nat × Nat) :=
  match b.groupFor key with
  | none => none
  | some (b, i) =>
    match b.groups[i]? with
    | none => none
    | some g =>
      let slot := shapeG b.shape * g.frame + g.fill
      let groups := if g.fill + 1 = shapeG b.shape then b.groups.eraseIdx i else b.groups.set i { g with fill := g.fill + 1 }
      some ({ b with groups := groups, n := b.n + 1 }, g.share, slot)

/-! ### Cuts and drains (R347, R350) -/

/-- Slots of a share that hold records beyond the latest cut, in rising order. -/
def Bag.beyond (b : Bag) (s : Nat) : List Nat :=
  let g := shapeG b.shape
  let d := ceilDiv (b.cut.getD s 0) g
  (List.range (b.fp.getD s 0 - d)).flatMap (fun k =>
    let f := d + k
    let n := match b.groups.find? (fun x => x.share == s && x.frame == f) with | some x => x.fill | none => g
    (List.range n).map (fun i => f * g + i))

/-- R347: CUT of a share after a cut. -/
def Bag.cutTo (b : Bag) (s : Nat) : Nat := b.cut.getD s 0 + (b.beyond s).length
/-- R347: the moves of a cut in a share, from the highest occupied slot to the lowest empty one. -/
def Bag.cutMoves (b : Bag) (s : Nat) : List (Nat × Nat) :=
  let occ := b.beyond s
  let c0 := b.cut.getD s 0
  let empty := ((List.range occ.length).map (c0 + ·)).filter (fun i => !occ.contains i)
  (occ.filter (fun i => decide (b.cutTo s ≤ i))).reverse.zip empty

/-- R347: the bag after a cut. -/
def Bag.afterCut (b : Bag) : Bag :=
  let cuts := (List.range (shapeB b.shape)).map b.cutTo
  { b with cut := cuts, fp := cuts.map (fun c => ceilDiv c (shapeG b.shape)), groups := [], k := b.k + 1 }

/-- R350 step 2: the moves of a drain in a share. -/
def Bag.drainMoves (b : Bag) (s : Nat) : List (Nat × Nat) :=
  let d := ceilDiv (b.cut.getD s 0) (shapeG b.shape) * shapeG b.shape
  if d = 0 then [] else (b.beyond s).map (fun i => (i, i - d))

/-- R350: the bag after a drain. -/
def Bag.afterDrain (b : Bag) : Bag :=
  let d := fun s => ceilDiv (b.cut.getD s 0) (shapeG b.shape)
  let fp := b.fp.mapIdx (fun s f => f - d s)
  let b := { b with fp := fp, cut := b.cut.map (fun _ => 0), groups := b.groups.map (fun g => { g with frame := g.frame - d g.share }) }
  if fp.all (· == 0) then { b with r := b.r.map (fun _ => 0), n := 0, k := 0 } else b

/-! ### Bags of the machine -/

/-- R337, Table 14.1: the bag word of a live bag. -/
def Bag.word (b : Bag) : Word := BitVec.ofNat 32 (b.gen * 65536 + b.stack * 4096 + b.num)
/-- R337: the live bag of a partition that a word names. -/
def State.bag? (s : State) (part : Nat) (w : Word) : Option Bag := s.bags.find? (fun b => b.part == part && b.word == w)
/-- Replace a bag. -/
def State.setBag (s : State) (b : Bag) : State :=
  { s with bags := s.bags.map (fun x => if x.part = b.part ∧ x.num = b.num then b else x) }
/-- R350 step 1: every window of a bag on every core is closed. -/
def State.closeWindows (s : State) (part : Nat) (w : Word) : State :=
  { s with teams := s.teams.map (fun t =>
      if s.partOfCore (t.cores.headD 0) = part then { t with windows := t.windows.filter (fun x => x.bag != w) } else t) }

/-- Table 14.4: the cores that hold a share window of a bag; a team that a pre-emption has saved holds none. -/
def State.windowCores (s : State) (b : Bag) : List Nat :=
  ((s.teams.filter (fun t => !t.ended && t.phase != .saved)).flatMap (fun t => (t.windows.filter (fun w => w.bag == b.word && s.partOfCore w.core == b.part)).map (·.core))).eraseDups

/-- R343: the placer of a stack counts as a core of its own, the only one of a leaf. -/
def placerCore (stack : Nat) : Nat := 256 + 8 * stack

/-- A placer's move of one record, as one tagged update (R347) that the replay log records (R391), in an operation of a quire's
gang, which consumes what is moved (R385); what it reads and writes are requests of class 4 (R343). -/
def State.moveRecord (s : State) (q : Nat) (b : Bag) (share : Nat) (m : Nat × Nat) : State :=
  let from_ := b.slotPa share m.1
  let dest := b.slotPa share m.2
  let home := fun (pa : Nat) => homeSlice (s.part b.part) pa
  let s := ((s.consume (s.gangOf q) (lineOf from_)).noteRead (.g from_) (shapeRS b.shape)).touchTag (home from_) (lineOf from_) 3 4
  let s := s.noteUpdate (some q) false (lineOf dest) (leafOf (placerCore b.stack)) (s.ordOf (home dest)).toNat
  (s.sliceStore b.part false dest (s.memBytes from_ (shapeRS b.shape))).touchWrite (home dest) (lineOf dest) 3 4
/-- The moves of every share, in rising share order. -/
def State.moveAll (s : State) (q : Nat) (b : Bag) (moves : Nat → List (Nat × Nat)) : State :=
  (List.range (shapeB b.shape)).foldl (fun s sh => (moves sh).foldl (fun s m => s.moveRecord q b sh m) s) s
/-- R391: the replay log lets every move of a cut or drain be made now. -/
def State.movesMay (s : State) (q : Nat) (b : Bag) (moves : Nat → List (Nat × Nat)) : Bool :=
  (List.range (shapeB b.shape)).all (fun sh => (moves sh).all (fun m =>
    s.mayUpdate (some q) false (lineOf (b.slotPa sh m.2)) (leafOf (placerCore b.stack))))

/-! ### The instructions (R353 to R359) -/

/-- A leaf at hand in the TLBs of a core, or in the tables (R355). -/
def State.leafNow (s : State) (team c ip va : Nat) : WalkAt := s.leafFor c ip (s.recordOf team).root va

/-- R355: the first translation fault of a bag's pages, in rising share. -/
def State.bagPageFault (s : State) (team c ip : Nat) (priv : Bool) (vb n : Nat) : Option Trap :=
  firstTrap ((List.range n).map (fun k =>
    let va := (vb + 65536 * k) % 2 ^ 48
    match s.leafNow team c ip va with
    | .prot => some { code := .prot, addr := va }
    | .leaf e sz => s.pteCheck team c priv .rw va 65536 (e &&& ~~~ BitVec.twoPow 64 6) sz
    | _ => some { code := .xlate, addr := va }))

/-- R339: the frames and keys of the pages, where every page is as R339 asks. -/
def State.bagFrames (s : State) (team c ip vb n : Nat) : Option (Nat × List Nat × List Nat) :=
  let p := s.part (s.partOfCore c)
  let leaves := (List.range n).map (fun k => match s.leafNow team c ip ((vb + 65536 * k) % 2 ^ 48) with | .leaf e sz => (e, sz) | _ => (0, 0))
  let frames := leaves.map (fun l => pteAddr l.1 / 65536 * 65536)
  let homes := frames.map (frameHome p)
  let stack := (homes.headD (0, 0, 0)).1
  let fine := leaves.all (fun l => l.2 == 16 && l.1.getLsbD 6 && pteIl l.1 == 7) && homes.all (fun h => h.1 == stack) &&
    homes.eraseDups.length == n
  if fine then some (stack, frames, leaves.map (fun l => pteKey l.1)) else none

/-- BAGBAD with a detail (Table 14.9). -/
def bagbad (d : Nat) : Trap := { code := .bagbad, detail := d }

/-- R355: the checks of BAGNEW in order: the new bag, or a fault. -/
def State.newBag (s : State) (c : Ctx) (vb : Nat) (w cw : Word) : Except Trap Bag :=
  let part := s.partOfCore c.g.core
  let team := c.team s
  if !shapeOk w || !capOk w cw then .error (bagbad 2)
  else if vb % 65536 ≠ 0 then .error (bagbad 3)
  else match s.bagPageFault team c.g.core c.g.ip c.hand vb (shapeB w) with
  | some tr => .error tr
  | none =>
    match s.bagFrames team c.g.core c.g.ip vb (shapeB w) with
    | none => .error (bagbad 3)
    | some (stack, frames, keys) =>
      let used := (s.bags.filter (fun b => b.part == part)).map (·.num)
      match (List.range 4096).find? (fun n => !used.contains n) with
      | none => .error (bagbad 4)
      | some num =>
        let gen := (((((s.part part).gens.find? (fun g => g.1 == num)).map (·.2)).getD 0) + 1) % 256
        let zeros := List.replicate (shapeB w) 0
        .ok { num := num, gen := gen, part := part, stack := stack, shape := w, cap := cw.toNat, vb := vb, frames := frames,
              keys := keys, groups := [], r := zeros, fp := zeros, cut := zeros, n := 0, k := 0 }

/-- A uniform register's late write by a reply that is on its way within the core. -/
def State.replyQ (s : State) (c : Ctx) (id : Nat) (dq : Nat) (w : Word) : State :=
  let it : Item := { thread := c.lead, off := 0, size := 4, data := [], regs := [.q dq], ext := .w32,
                     own := (leBytes 4 w.toNat).mapIdx (fun i b => (i, b)), res := [] }
  s.postLocal { Req.blank c.g.core 0 with op := id, items := [it] }

/-- BAGNEW (R355). -/
def execBagnew (h : Hdr) (d a b cc : Reg8) (s : State) : Host.Outcome State Fault Refusal :=
  issue (.bagnew h d a b cc) (fun c s =>
    let vb := ((s.baseOf c .g a) % (2 ^ 48 : Int)).toNat
    match s.newBag c vb (s.readQ c.now c.hand c.q b.toNat) (s.readQ c.now c.hand c.q cc.toNat) with
    | .error tr => .done ((s.noteForeign c.lead tr).trapAt c.g c.takers tr)
    | .ok bag =>
      let (id, s) := s.fresh
      let dq := qName c.hand d.toNat
      let s := (s.addOp { c.newOp id .mem c.takers with dests := [.q dq], uniform := true }).markQ c.now c.q c.hand [d.toNat] id
      let s := { s.usePages c.g.core (s.recordQ c.q).root ((List.range bag.frames.length).map (fun k => (vb + 65536 * k) % 2 ^ 48)) with bags := s.bags ++ [bag] }
      let s := s.modPart bag.part (fun p => { p with gens := (bag.num, bag.gen) :: p.gens.filter (fun g => g.1 != bag.num) })
      .done (s.replyQ c id dq bag.word)) s

/-- Send one operation to the placer of the bag word's stack; its threads are held until the verdict (R362). -/
def State.sendBag (s : State) (c : Ctx) (w : Word) (what : BagWhat) (ts : List ThreadId) (dests : List RegId) (reads : Bool) : State :=
  let (id, s) := s.fresh
  let (bid, s) := s.fresh
  let s := s.addOp { c.newOp id (.bag bid) ts with dests := dests, reads := reads }
  let vs := dests.filterMap (fun r => match r with | .v n => some n | _ => none)
  let s := ts.foldl (fun s t => s.markV c.now t vs id) s
  let s := match what with | .put _ p => ts.foldl (fun s t => s.markP c.now t p id) s | _ => s
  let b : BagOp := { id := bid, op := id, bag := w, part := s.partOfCore c.g.core, stack := (w.toNat / 4096 % 16) % 12, core := c.g.core,
                     team := c.team s, quire := c.q, threads := ts, what := what, stage := .sent, placed := [], values := [], fault := none }
  { s with bagOps := s.bagOps ++ [b] }.parkAt c.g ts c.next (.op id)

/-- A uniform bag instruction: one operation for the gathering. -/
def bagIssue (i : Instr) (a : Reg8) (what : Ctx → State → BagWhat) (s : State) : Host.Outcome State Fault Refusal :=
  issue i (fun c s => .done (s.sendBag c (s.readQ c.now c.hand c.q a.toNat) (what c s) c.takers [] false)) s

/-- BAGPUT (R356): the records of a gathering are one operation. -/
def execBagput (h : Hdr) (rsz : BitVec 2) (d a b : Reg8) (p : BitVec 3) (s : State) : Host.Outcome State Fault Refusal :=
  issue (.bagput h rsz d a b p) (fun c s =>
    let recs := c.takers.map (fun t => (t, (s.readV c.now t b.toNat).setWidth 8, s.blockV c.now t d.toNat (recordRegs rsz)))
    .done (s.sendBag c (s.readQ c.now c.hand c.q a.toNat) (.put recs p.toNat) c.takers [] false)) s
/-- BAGCUT (R357). -/
def execBagcut (h : Hdr) (a : Reg8) (s : State) : Host.Outcome State Fault Refusal := bagIssue (.bagcut h a) a (fun _ _ => .cut) s
/-- BAGCNT (R357): one operation for each thread. -/
def execBagcnt (h : Hdr) (all : Bool) (d a b : Reg8) (s : State) : Host.Outcome State Fault Refusal :=
  issue (.bagcnt h all d a b) (fun c s =>
    let w := s.readQ c.now c.hand c.q a.toNat
    .done (c.takers.foldl (fun s' t => s'.sendBag c w (.cnt (if all then none else some (s.readV c.now t b.toNat).toNat) d.toNat) [t]
      [.v d.toNat] true) s)) s
/-- BAGMAP (R358): one operation for each thread. -/
def execBagmap (h : Hdr) (d a b : Reg8) (s : State) : Host.Outcome State Fault Refusal :=
  issue (.bagmap h d a b) (fun c s =>
    let w := s.readQ c.now c.hand c.q a.toNat
    .done (c.takers.foldl (fun s' t => s'.sendBag c w (.map (s.readV c.now t b.toNat).toNat d.toNat) [t]
      ((span d.toNat 3).map RegId.v) true) s)) s
/-- BAGDRN (R359). -/
def execBagdrn (h : Hdr) (a : Reg8) (s : State) : Host.Outcome State Fault Refusal := bagIssue (.bagdrn h a) a (fun _ _ => .drn) s
/-- BAGGROW (R359). -/
def execBaggrow (h : Hdr) (a b : Reg8) (s : State) : Host.Outcome State Fault Refusal :=
  bagIssue (.baggrow h a b) a (fun c s => .grow (s.readQ c.now c.hand c.q b.toNat)) s
/-- BAGFREE (R359). -/
def execBagfree (h : Hdr) (a : Reg8) (s : State) : Host.Outcome State Fault Refusal := bagIssue (.bagfree h a) a (fun _ _ => .free) s

/-! ### The placer at work (R342 to R351) -/

/-- Update a bag operation. -/
def State.modBagOp (s : State) (id : Nat) (f : BagOp → BagOp) : State :=
  { s with bagOps := s.bagOps.map (fun b => if b.id = id then f b else b) }

/-- An operation's verdict. -/
def State.bagVerdict (s : State) (o : BagOp) (values : List Word) (fault : Option Trap) : State :=
  s.modBagOp o.id (fun b => { b with stage := .applied, values := values, fault := fault })

/-- R343: a record's write goes to the home slice of its line, with requester class 4. -/
def State.recordWrite (s : State) (o : BagOp) (b : Bag) (t : ThreadId) (share slot : Nat) (ws : List Word) : State :=
  let pa := b.slotPa share slot
  let it : Item := { thread := t, off := pa % 128, size := shapeRS b.shape, data := ws.flatMap (fun w => leBytes 4 w.toNat), regs := [],
                     ext := .w32, own := [], res := [] }
  s.post { Req.blank (placerCore b.stack) b.part with op := o.op, kind := .record, line := pa / 128, prio := 3, cls := 4, tag := some b.word, items := [it] }

/-- R343, R351, R356: the records of a put, in rising lane rank. -/
def State.applyPut (s : State) (o : BagOp) (b : Bag) (recs : List (ThreadId × Byte × List Word)) : State :=
  let out := recs.foldl (fun (a : State × Bag × List (ThreadId × Bool)) x =>
    match a.2.1.place x.2.1 with
    | some (b, share, slot) => (a.1.recordWrite o b x.1 share slot x.2.2, b, a.2.2 ++ [(x.1, true)])
    | none => (a.1, a.2.1, a.2.2 ++ [(x.1, false)])) (s, b, [])
  let full : Word := if shapeTrap b.shape then 1 else 0
  (out.1.setBag out.2.1).modBagOp o.id (fun x => { x with stage := .applied, placed := out.2.2, values := [full] })

/-- R356 item 3: a page of the bag is sealed with a key that is not loaded. -/
def State.bagSealed (s : State) (b : Bag) : Option Trap :=
  let i := b.keys.findIdx (fun k => k != 0 && !(s.part b.part).keyst.getLsbD k)
  if i < b.keys.length then some { code := .sealed, detail := b.keys.getD i 0, addr := b.vb + 65536 * i } else none

/-- R348: the window of a share: first byte and length. -/
def Bag.window (b : Bag) (share : Nat) : Nat × Nat :=
  let c := b.cut.getD share 0
  (b.vb + 65536 * share, if c = 0 then 0 else b.slotOff (c - 1) + shapeRS b.shape)

/-- R349: write back and drop the core's lines that overlap a window. -/
def State.dropWindow (s : State) (core : Nat) (b : Bag) (share : Nat) : State :=
  let lo := b.frames.getD share 0
  (List.range ((b.window share).2 / 128 + 1)).foldl (fun s i =>
    if 128 * i < (b.window share).2 then
      let line := lo / 128 + i
      let s := s.noAlloc core line
      match s.l1Find core line with
      | some l => (s.writeBack core 0 l).l1Drop core line
      | none => s
    else s) s

/-- R358: a BAGMAP of one thread. -/
def State.applyMap (s : State) (o : BagOp) (b : Bag) (share : Nat) : State :=
  if share ≥ shapeB b.shape then s.bagVerdict o [] (some (bagbad 6))
  else
    let t := s.team o.team
    let old := t.windows.filter (fun w => w.core == o.core && !(w.bag == b.word && w.share == share))
    if old.length ≥ 64 then s.bagVerdict o [] (some (bagbad 7))
    else
      let (va, len) := b.window share
      let w : Window := { core := o.core, bag := b.word, share := share, va := va, len := len }
      let others := t.windows.filter (fun x => !(x.core == o.core && x.bag == b.word && x.share == share))
      let s := s.modTeam o.team (fun t => { t with windows := others ++ [w] })
      let s := s.dropWindow o.core b share
      s.bagVerdict o [BitVec.ofNat 32 va, BitVec.ofNat 32 (va / 2 ^ 32), BitVec.ofNat 32 (b.cut.getD share 0)] none

/-- R342: one operation in bag order. -/
def State.applyBag (s : State) (o : BagOp) : State :=
  match s.bag? o.part o.bag with
  | none => s.bagVerdict o [] (some (bagbad 1))
  | some b =>
    match o.what with
    | .put recs _ =>
      -- RSZ of the instruction against the bag's (R356 item 2)
      if (recs.map (fun x => 4 * x.2.2.length)).headD (shapeRS b.shape) ≠ shapeRS b.shape then s.bagVerdict o [] (some (bagbad 5))
      else (match s.bagSealed b with
        | some tr => s.bagVerdict o [] (some tr)
        | none => s.applyPut o b recs)
    | .cut => ((s.moveAll o.quire b b.cutMoves).setBag b.afterCut).bagVerdict o [] none
    | .cnt none _ => s.bagVerdict o [BitVec.ofNat 32 (b.cut.foldl (· + ·) 0)] none
    | .cnt (some sh) _ =>
      if sh ≥ shapeB b.shape then s.bagVerdict o [] (some (bagbad 6)) else s.bagVerdict o [BitVec.ofNat 32 (b.cut.getD sh 0)] none
    | .map sh _ => s.applyMap o b sh
    | .drn => (((s.closeWindows o.part o.bag).moveAll o.quire b b.drainMoves).setBag b.afterDrain).bagVerdict o [] none
    | .grow cw =>
      let cap := cw.toNat % 2 ^ 17
      if cap < b.cap ∨ cap > 65536 / shapeF b.shape then s.bagVerdict o [] (some (bagbad 8))
      else (s.setBag { b with cap := cap }).bagVerdict o [] none
    | .free =>
      let s := s.closeWindows o.part o.bag
      ({ s with bags := s.bags.filter (fun x => !(x.part == b.part && x.num == b.num)) }).bagVerdict o [] none

/-- R342: a record write of the bag has not been acknowledged. -/
def State.bagWriting (s : State) (part : Nat) (w : Word) : Bool :=
  s.net.any (fun r => r.part == part && r.tag == some w && r.kind == .record && r.stage != .replied)

/-- R391: the ordering point of a bag. -/
def bagPoint (w : Word) : Nat := 8 * (w.toNat % 4096) + 3

/-- R391: the source of a bag operation: its core. -/
def BagOp.src (b : BagOp) : Nat := b.core

/-- R391: an operation is held for an earlier one in the order that its replay log gives its bag, or the lines that it moves. -/
def State.bagHeld (s : State) (b : BagOp) : Bool :=
  s.replayCheck b.quire (bagPoint b.bag) b.src == none ||
  (match b.what, s.bag? b.part b.bag with
    | .cut, some x => !s.movesMay b.quire x x.cutMoves
    | .drn, some x => !s.movesMay b.quire x x.drainMoves
    | _, _ => false)

/-- R342: what a placer may do next: operations that may arrive, the first sent of each core, and queued ones that are the
first of their bag but for those held (R391), with no write outstanding. -/
def State.placerChoices (s : State) (stack : Nat) : List BagOp :=
  let mine := s.bagOps.filter (fun b => b.stack == stack)
  let early := fun (b : BagOp) => mine.takeWhile (fun x => x.id != b.id)
  let q := (s.ctrls.getD stack Ctrl.reset).bagq
  let sent := mine.filter (fun b => b.stage == .sent && !(early b).any (fun x => x.core == b.core && (x.stage == .sent || x.stage == .refused)))
  let queued := q.filterMap (fun id => mine.find? (fun b => b.id == id))
  let ready := queued.filter (fun b => ((queued.takeWhile (fun x => x.id != b.id)).all (fun x => !(x.part == b.part && x.bag == b.bag) || s.bagHeld x)) && !s.bagHeld b &&
    !s.bagWriting b.part b.bag)
  sent ++ ready

/-- R342: an operation arrives at its placer: it joins the queue, or is refused. -/
def State.bagArrive (s : State) (o : BagOp) : State :=
  if (s.ctrls.getD o.stack Ctrl.reset).bagq.length < 256 then
    (s.modBagOp o.id (fun b => { b with stage := .queued })).modCtrl o.stack (fun k => { k with bagq := k.bagq ++ [o.id] })
  else s.modBagOp o.id (fun b => { b with stage := .refused })

/-- BAG_OP_APPLY (R342): the placer takes an operation that has reached it, or applies the next one of a bag. Operations of
different cores have no order in transit: which comes first is a free choice. In a rehash nothing is injected (R213). -/
def execBagOpApply (stack : Nat) (s : State) : Host.Outcome State Fault Refusal :=
  event (fun s =>
    let cs := s.placerChoices stack
    if s.fabric.busy then s else match cs[Config.freeNat s.tick stack % cs.length]? with
    | none => s
    | some o =>
      if o.stage = .sent then s.bagArrive o
      else s.gatedAt o.quire (bagPoint o.bag) o.src 0 (fun s =>
        (s.modCtrl stack (fun k => { k with bagq := k.bagq.filter (· != o.id) })).applyBag o)) s

/-- BAG_OP_RESEND (R342). -/
def execBagOpResend (id : Nat) (s : State) : Host.Outcome State Fault Refusal :=
  event (fun s => s.modBagOp id (fun b => if b.stage = .refused then { b with stage := .sent } else b)) s

/-- R351, R356: a put's verdict at its threads: the placed ones wait for the acknowledgement only, the others are done. -/
def State.putVerdict (s : State) (o : BagOp) (op : Op) (p : Nat) : State :=
  let full := o.values.headD 0 == 1
  o.placed.foldl (fun s x =>
    if x.2 then (s.lateReg x.1 op.id (.p p) 1).unparkOp op.id [x.1]
    else if full then (s.completeFor op.id [x.1]).raiseOp op [x.1] { code := .bagfull }
    else ((s.lateReg x.1 op.id (.p p) 0).unparkOp op.id [x.1]).completeFor op.id [x.1]) s

/-- BAG_VERDICT (R362): the verdict reaches the core. -/
def execBagVerdict (id : Nat) (s : State) : Host.Outcome State Fault Refusal :=
  event (fun s => match s.bagOps.find? (fun b => b.id == id && b.stage == .applied) with
    | none => s
    | some o =>
      let s := { s with bagOps := s.bagOps.filter (fun b => b.id != id) }
      (match s.op? o.op with
        | none => s
        | some op => (match o.fault, o.what with
          | some tr, _ => (s.complete op.id).raiseOp op op.threads tr
          | none, .put _ p => s.putVerdict o op p
          | none, w =>
            let s := op.threads.foldl (fun s t => o.values.zipIdx.foldl (fun s x => s.lateReg t op.id (.v (w.dest + x.2)) x.1) s) s
            (s.unparkOp op.id op.threads).complete op.id))) s

end Sys2Proof.Machine
end

