-- ==== Sys2Proof/Machine/System.lean ====
section
/-! DEFINITION. System registers, the system instructions, the context engine, and pre-emption of a thread (chapter 15). -/

namespace Sys2Proof.Machine

/-! ### System registers (R364 to R366, R375) -/

/-- R377, R402: the virtual base of a team's save area; 0 when it holds none. -/
def State.ctxBase (s : State) (team : Nat) : Nat :=
  match (s.team team).area with
  | some k => ((s.part (s.grid (s.gang (s.team team).gang).grid).part).ctxpool + k * 2 ^ 24) % 2 ^ 48
  | none => 0

/-- R366: `%mode`, at clock `now`. -/
def State.modeWord (s : State) (now : Nat) (t : ThreadId) : Word :=
  let th := (s.thread t).seenT s.tick now t
  bitWord th.hand ||| (bitWord th.hand <<< 1) ||| (bitWord (s.grid (s.gridOf t.quire)).chk <<< 2) |||
  (bitWord (s.recordQ t.quire).strict <<< 3) ||| (bitWord th.dbg <<< 4)

/-- Table 15.1: what a thread reads from system register `n`, at clock `now` of its core. -/
def State.sysRead (s : State) (now : Nat) (t : ThreadId) (n : Nat) : DWord :=
  let th := (s.thread t).seenT s.tick now t
  let q := s.quire t.quire
  let tm := s.team q.team
  let spine := q.role == .spine
  let part := s.partOfCore q.core
  let p := s.part part
  let w := fun (x : Word) => x.setWidth 64
  let priv := fun (x : DWord) => if th.hand then x else 0
  match n with
  | 0 => w (if spine then 0xFFFFFFFF else s.tidOf t)
  | 1 => w (BitVec.ofNat 32 t.lane)
  | 2 => w (if spine then 0xFFFFFFFF else BitVec.ofNat 32 q.qid)
  | 3 => w (BitVec.ofNat 32 tm.index)
  | 4 => w (BitVec.ofNat 32 (s.gang tm.gang).number)
  | 5 => w (BitVec.ofNat 32 (if th.hand then q.core else q.core % 8))
  | 6 => w (BitVec.ofNat 32 (if th.hand then q.core / 8 else (p.units.clusters.filter (fun c => decide (c < q.core / 8))).length))
  | 7 => BitVec.ofNat 64 now
  | 8 => w (q.flagsAt now)
  | 9 => w (BitVec.ofNat 32 (s.gang tm.gang).relaunch)
  | 10 => w (BitVec.ofNat 32 part)
  | 11 => w (s.dev.featAcc.getD 0 0)
  | 12 => w (s.dev.featAcc.getD 1 0)
  | 13 => w (s.dev.featAcc.getD 2 0)
  | 14 => w (s.dev.featAcc.getD 3 0)
  | 16 => w (s.modeWord now t)
  | 17 => priv (w th.tcause)
  | 18 => priv th.tpc
  | 19 => priv th.thdr
  | 20 => priv th.taddr
  | 25 => priv (BitVec.ofNat 64 (s.ctxBase q.team))
  | 26 => priv p.tvec
  | 27 => priv p.svec
  | 28 => priv p.rvec
  | k => if 21 ≤ k ∧ k ≤ 24 then priv (w (th.tsc.getD (k - 21) 0))
         else if 32 ≤ k ∧ k ≤ 39 then priv (w (s.readQ now false t.quire (120 + k)))
         else 0

/-- MOVS (R375). -/
def execMovs (st : BitVec 3) (wide uni : Bool) (d : Reg8) (num : BitVec 8) (s : State) : Host.Outcome State Fault Refusal :=
  let i : Instr := .movs st wide uni d num
  let out := fun (x : DWord) => if wide then pairWrites d.toNat x else [(d.toNat, x.setWidth 32)]
  issue i (fun c s => .done (if uni then
      uniWrite i 4 (fun c s => { writes := out (s.sysRead c.now c.lead num.toNat) }) c s
    else vecWrite 4 (fun c s t => { writes := out (s.sysRead c.now t num.toNat) }) c s)) s

/-- R105, R106, R375, W1C: clear bits of `%flags` from clock `at_` on. -/
def Quire.clearAt (now at_ : Nat) (w : Word) (q : Quire) : Quire := q.addFlagEv now { at_ := at_, hold := at_, set := 0, clr := w }

/-- MOVSW (R375): its write takes effect at t + 4. -/
def execMovsw (st : BitVec 3) (wide uni : Bool) (a : Reg8) (num : BitVec 8) (s : State) : Host.Outcome State Fault Refusal :=
  issue (.movsw st wide uni a num) (fun c s =>
    let n := num.toNat
    .done (
      if uni then
        let x := s.readQ c.now c.hand c.q a.toNat
        if n = 8 then s.modQuire c.q (Quire.clearAt c.now (c.now + 4) x)
        else if 32 ≤ n ∧ n ≤ 39 then s.modQuire c.q (Quire.writeQ c.now (c.timing 4) false (120 + n) x)
        else s
      else
        s.modThreads c.takers (fun t th =>
          let x := pairOf (s.readV c.now t a.toNat) (if wide then s.readV c.now t (a.toNat + 1) else 0)
          let th := th.settleT c.now
          { th with tset := th.tset ++ [{ at_ := c.now + 4, reg := n, wide := wide, val := x }] }))) s

/-! ### TRAP, SVC, BRK (R373, R390) -/

/-- R367 step 3: TRAP, SVC and BRK resume at the word after the instruction. -/
def State.trapAfter (s : State) (c : Ctx) (tr : Trap) : State := c.takers.foldl (fun s t => s.raiseAt t c.g.hdr c.next tr) s

/-- TRAP (R373). -/
def execTrap (h : Hdr) (n : BitVec 8) (s : State) : Host.Outcome State Fault Refusal :=
  issue (.trap h n) (fun c s => .done (s.trapAfter c { code := .trap, detail := n.toNat })) s
/-- SVC (R373). -/
def execSvc (h : Hdr) (n : BitVec 8) (s : State) : Host.Outcome State Fault Refusal :=
  issue (.svc h n) (fun c s => .done (s.trapAfter c { code := .trap, detail := 0x100 + n.toNat })) s

/-- R390: a gang halts, and the host gets event 6. -/
def State.haltGang (s : State) (g : Nat) : State :=
  if (s.gang g).halted || (s.gang g).dead then s
  else
    let gr := s.grid (s.gang g).grid
    (s.modGang g (fun x => { x with halted := true })).putEvent gr.part 6 gr.number (s.gang g).number

/-- BRK (R373, R390): with debug enabled for the partition, the gangs of the taking threads halt. -/
def execBrk (st : BitVec 3) (n : BitVec 8) (s : State) : Host.Outcome State Fault Refusal :=
  issue (.brk st n) (fun c s =>
    .done (if (s.part (s.partOfCore c.g.core)).dbg.getLsbD 0 then (c.takers.map (fun t => s.gangOf t.quire)).eraseDups.foldl State.haltGang s
      else s.trapAfter c { code := .brk, detail := n.toNat })) s

/-! ### Pre-emption of a thread and TRET (R370, R374, R380, R381) -/

/-- R381: a thread that waited for a handle stands at its instruction again, which has had no effect. -/
def State.unwait (s : State) (t : ThreadId) (op : Nat) : State :=
  match s.op? op with
  | none => s
  | some o =>
    let team := (s.quire o.quire).team
    let s := s.modTeam team (fun m => { m with hwait := (m.hwait.map (fun w =>
      if w.op = op then { w with threads := w.threads.filter (· != t) } else w)).filter (fun w => !w.threads.isEmpty) })
    (s.completeFor op [t]).standAt t o.hdr o.pos

/-- A member of a gathering stands at its next instruction, or past the clause when it executes none of it (R28). -/
def State.standHere (s : State) (t : ThreadId) : State :=
  let th := s.thread t
  if th.stat = .gathered then
    match s.gaths.find? (fun g => g.members.contains t) with
    | some g => if th.gov then s.standAt t g.hdr g.pos else s.standAt t g.nextHdr 0
    | none => s
  else s

/-- R370, R380, R381: PREEMPT with detail 0 reaches a thread. One in handler mode, or held until a verdict, takes it
later. One that its EXIT still holds is live (R94) and takes it there (log entry 106); one whose NRED is not counted yet (R234)
takes it as one that awaits its reply. -/
def State.preemptThread (s : State) (t : ThreadId) : State :=
  let th := s.thread t
  let tr : Trap := { code := .preempt, detail := 0 }
  let later := s.modThread t (fun x => { x with preempt := true })
  let now := fun (s : State) => ((s.leaveGath t).modThread t (fun x => { x with preempt := false })).raise0 t tr
  match th.stat with
  | .retired | .dead | .saved => s
  | .exiting => if th.hand then later else now s
  | .parked (.op op) => if (s.op? op).any (fun o => o.kind == .nred) && !th.hand then now (s.modThread t (fun x => { x with waitK := some (.op op) })) else later
  | .trapping _ | .parked .copySlot | .parked .restore => later
  | .held | .ready | .gathered => if th.hand then later else now (s.standHere t)
  | .parked (.handle op) => if th.hand then later else now (s.unwait t op)
  | .parked .port => if th.hand then later else now s
  | .parked w => if th.hand then later else now (s.modThread t (fun x => { x with waitK := some w }))

/-- R381, R374: a pending wait is reinstated, if what it waits for has not come. -/
def State.reinstate (s : State) (t : ThreadId) : State :=
  let th := s.thread t
  let s := s.modThread t (fun x => { x with waitK := none })
  match th.waitK with
  | none => s
  | some w =>
    let park := s.modThread t (fun x => { x with stat := .parked w })
    match w with
    | .barrier kind n _ _ op => if (s.op? op).isSome then park.releaseWaiters kind (s.ownerOf kind t) n else s
    | .station n op =>
      if ((s.core (s.quire t.quire).core).stations.getD n Station.reset).signers.contains (t, op) then park else s
    | .monitor op => if (s.op? op).isSome then park else s
    | .op op => if s.net.any (fun r => r.op == op && s.nredUncounted r) then park else s
    | _ => s

/-- One code word, for a thread outside handler mode; none where it cannot be fetched. -/
def State.codeWord? (s : State) (t : ThreadId) (va : Nat) : Option Word :=
  let q := s.quire t.quire
  match s.translateNow q.team q.core false .fetch va 4 with
  | .ok pa => some (BitVec.ofNat 32 (leNat (s.memBytes pa 4)))
  | .error _ => none

/-- R374: a thread resumes. -/
def State.resumeThread (s : State) (t : ThreadId) : State :=
  let th := s.thread t
  let h := th.thdr.toNat % 2 ^ 48
  let n := match s.codeWord? t h with | some w => h + 4 * (1 + w.toNat % 16) | none => 0
  let s := ((s.leaveGath t).leaveHandler t n).reinstate t
  if (s.thread t).preempt then s.preemptThread t else s

/-- R374: CODE and DETAIL of `%tcause` (Table 15.3) are those of PREEMPT with a detail. -/
def Thread.causeIs (th : Thread) (detail : Nat) : Bool := th.tcause.extractLsb' 0 24 == BitVec.ofNat 24 (detail * 256 + 0x18)

/-- R374: TRET of one thread. One that waits for its team's CTXLD.team leaves its gathering, executes no later instruction of
the clause (R372), and resumes when that CTXLD completes. Writes of its T registers that have issued show or do not (R41). -/
def State.tretOne (s : State) (c : Ctx) (t : ThreadId) : State :=
  let s := s.modThread t (fun x => x.seenT s.tick c.now t)
  let th := s.thread t
  if th.causeIs 0 then (s.leaveGath t).modThread t (fun x => { x with stat := .saved })
  else if th.causeIs 1 && (s.team (s.quire t.quire).team).phase == .restoring then
    (s.leaveGath t).parkAt c.g [t] c.g.pos .restore
  else s.resumeThread t

/-- TRET (R374). -/
def execTret (h : Hdr) (s : State) : Host.Outcome State Fault Refusal :=
  issue (.tret h) (fun c s => .done (c.takers.foldl (fun s t => s.tretOne c t) s)) s

/-! ### The context engine (R376 to R378, R381, R384) -/

/-- CTXSV and CTXLD issue: a full fence at `.sy`, then the record; `.thread` per thread, the others once. -/
def ctxIssue (i : Instr) (save : Bool) (unit : BitVec 2) (s : State) : Host.Outcome State Fault Refusal :=
  issue i (fun c s =>
    let groups := if unit = 0 then c.takers.map (fun t => [t]) else [c.takers]
    .done (groups.foldl (fun s ts =>
      let (id, s) := s.fresh
      (s.addOp { c.newOp id (.context save unit.toNat) ts with rel := .sy, acq := .sy, phase := .relWait }).parkAt c.g ts c.next (.op id)) s)) s

/-- CTXSV (R376). -/
def execCtxsv (h : Hdr) (unit : BitVec 2) (s : State) : Host.Outcome State Fault Refusal := ctxIssue (.ctxsv h unit) true unit s
/-- CTXLD (R376). -/
def execCtxld (h : Hdr) (unit : BitVec 2) (s : State) : Host.Outcome State Fault Refusal := ctxIssue (.ctxld h unit) false unit s

/-- R376, R384: the fence of a context instruction: every earlier memory operation of its threads but those whose reply may
come during the save. -/
def State.ctxFence (s : State) (o : Op) : Bool :=
  (s.opsBefore o).all (fun x => !(s.opIsMem x && x.kind != .waitc && x.kind != .nred && x.shares o o.threads) && !(x.wrThru && x.core == o.core)) &&
  !s.plainStores o

/-- R376, R381: no counter of a thread is held but by a pending reply or wait. -/
def State.countersDone (s : State) (o : Op) (t : ThreadId) : Bool :=
  s.ops.all (fun x => !(x.threads.contains t && x.ctr.isSome && x.id != o.id && x.kind != .waitc && x.kind != .nred &&
    (s.thread t).waitK.bind Wait.op? != some x.id))

/-- R376: a team's live threads are in the save handler or have ended their save, its spine has stopped, and no CARVE that has
been granted holds a barrier (R182). -/
def State.teamStill (s : State) (team : Nat) : Bool :=
  (s.teamLive team).all (fun t => (s.thread t).stat == .saved || ((s.thread t).hand && (s.thread t).causeIs 0)) &&
  (s.team team).phase == .saving && (s.team team).carving.isEmpty &&
  !s.cores.any (fun k => k.copies.any (fun x => x.team == team || x.dests.any (fun d => d.1 == team))) &&
  !s.ops.any (fun x => x.quire == (s.team team).spine)

/-- R376: the conditions of a context instruction hold. -/
def State.ctxReady (s : State) (o : Op) (save : Bool) (unit : Nat) : Bool :=
  match save, unit with
  | true, 0 => o.threads.all (s.countersDone o)
  | true, 2 => s.teamStill (s.quire o.quire).team
  | _, 3 => (s.unit o.core).ops.isEmpty
  | _, _ => true

/-- Table 15.6: offset and length of a record; `rank` is the core's rank within the team. -/
def recordSpan (unit tid qid rank : Nat) : Nat × Nat :=
  match unit with
  | 0 => (0x100000 + 1024 * tid + 0x200, 0x80)
  | 1 => (0x4000 + 1024 * qid, 1024)
  | 2 => (0, 16384)
  | _ => (0x400000 + 0x100000 * rank, 131072)

/-- The physical pieces of a record, at most 64 KiB each, with their translation checked as a privileged access. -/
def State.recordPieces (s : State) (t : ThreadId) (kind : AccKind) (va len : Nat) : Except Trap (List (Nat × Nat)) :=
  let q := s.quire t.quire
  (List.range ((len + 65535) / 65536)).foldl (fun acc i => match acc with
    | .error tr => .error tr
    | .ok ps => (match s.translateNow q.team q.core true kind ((va + 65536 * i) % 2 ^ 48) (min 65536 (len - 65536 * i)) with
      | .error tr => .error tr
      | .ok pa => .ok (ps ++ [(pa, min 65536 (len - 65536 * i))]))) (.ok [])

/-- A record laid out by the device is written: its bytes hold values that the spec leaves to the device. -/
def State.putRecord (s : State) (part : Nat) (ps : List (Nat × Nat)) (what : SavedRec) : State :=
  ps.foldl (fun s p =>
    let s := { s with saves := s.saves.filter (fun r => !(r.addr < p.1 + p.2 && p.1 < r.addr + r.len)) }
    let s := (List.range (p.2 / 128)).foldl (fun s i =>
      let line := p.1 / 128 + i
      let sl := s.sliceFor part false (line * 128)
      ((((s.setUndef line (BitVec.allOnes 128)).noteWrite (.g (line * 128)) 128).unpoison line [(0, 128)]).takeTag sl).reevaluate part sl false line) s
    { s with saves := s.saves ++ [{ addr := p.1, len := p.2, what := what, altered := false }] }) s

/-- The record at a place; none when it fails its check (R376). -/
def State.getRecord (s : State) (ps : List (Nat × Nat)) : Option SavedRec :=
  let found := ps.filterMap (fun p => s.saves.find? (fun r => r.addr == p.1 && r.len == p.2 && !r.altered))
  match found with
  | [] => none
  | r :: _ => if found.length = ps.length ∧ found.all (fun x => x.what == r.what) then some r.what else none

/-- A pending wait as a thread record shows it: kind, PWA, PWE, PWS (R381, Table 15.7). -/
def State.pendingWait (s : State) (t : ThreadId) : Nat × Nat × Word × Nat :=
  match (s.thread t).waitK with
  | some (.barrier kind n e sc _) => (1, n, e, sc.code.toNat + (match kind with | .team => 0 | .gang => 8 | .grid => 16))
  | some (.station n _) => (2, n, 0, 0)
  | _ =>
    match s.ops.find? (fun o => o.threads.contains t && (o.kind == .waitc || o.kind == .nred)) with
    | some o => (3, (match o.dests with | .q m :: _ => m | _ => 0), 0, 0)
    | none => (0, 0, 0, 0)

/-- Table 15.7: the first 0x78 bytes of a thread record. -/
def State.threadRecord (s : State) (t : ThreadId) : List Byte :=
  let th := s.thread t
  let (kind, a, e, ws) := s.pendingWait t
  leBytes 8 th.tpc.toNat ++ leBytes 8 th.thdr.toNat ++ leBytes 8 th.taddr.toNat ++ leBytes 4 th.tcause.toNat ++
  leBytes 4 (kind * 256 + th.p.toNat) ++
  (List.range 8).flatMap (fun i => leBytes 8 (th.rstack.getD i 0).toNat) ++
  leBytes 4 (th.spilled * 65536 + th.rstack.length) ++ th.d.map (fun d => d.setWidth 8) ++
  leBytes 4 a ++ leBytes 4 e.toNat ++ leBytes 4 ws

/-- R381: the pending wait that a thread record names. -/
def State.waitOf (s : State) (t : ThreadId) (kind a : Nat) (e : Word) (ws : Nat) : Option Wait :=
  let op := fun (f : OpKind → Bool) => (s.ops.find? (fun o => o.threads.contains t && f o.kind)).map (·.id)
  match kind with
  | 1 =>
    let bk : BarKind := if ws / 16 % 2 = 1 then .grid else if ws / 8 % 2 = 1 then .gang else .team
    (op (fun k => match k with | .barrier z n _ _ => z == bk && n == a | .carve n _ => bk == .team && n == a | _ => false)).map
      (fun id => .barrier bk a e ((Scope.ofCode (BitVec.ofNat 3 ws)).getD .none) id)
  | 2 => (op (· == .matrix)).map (fun id => .station a id)
  | 3 => (match op (· == .waitc) with
    | some id => some (.monitor id)
    | none => (op (· == .nred)).map (fun id => .op id))
  | _ => none

/-- R376, R378: CTXLD.thread of a record whose check holds. -/
def State.loadThread (s : State) (t : ThreadId) (bs : List Byte) : State :=
  let f := fieldAt bs
  let n := min 8 (f 0x60 4 % 16)
  let w := s.waitOf t (f 0x1C 4 / 256 % 256) (f 0x6C 4) (BitVec.ofNat 32 (f 0x70 4)) (f 0x74 4)
  s.modThread t (fun th => { th with
    tpc := BitVec.ofNat 64 (f 0 8), thdr := BitVec.ofNat 64 (f 8 8), taddr := BitVec.ofNat 64 (f 0x10 8),
    p := BitVec.ofNat 7 (f 0x1C 4), rstack := (List.range n).map (fun i => BitVec.ofNat 48 (f (0x20 + 8 * i) 8)),
    spilled := f 0x60 4 / 65536, d := (List.range 8).map (fun k => BitVec.ofNat 6 (f (0x64 + k) 1)), waitK := w, out := false })

/-- R376: the team record holds the stations of the team's cores, by rank of the core. -/
def State.teamStations (s : State) (team : Nat) : List (Nat × Nat × Station) :=
  (s.team team).cores.zipIdx.flatMap (fun c => ((s.core c.1).stations.zipIdx.filter (fun x => x.1.owner == some team)).map (fun x => (c.2, x.2, x.1)))

/-- The stations that a team owns become free (R246, R376). -/
def State.freeStations (s : State) (team : Nat) : State :=
  (s.team team).cores.foldl (fun s c => s.modCore c (fun k => { k with
    stations := k.stations.map (fun x => if x.owner = some team then Station.reset else x) })) s

/-- R376, R382: CTXLD.team: barriers, stations, handles, queues, descriptor slots, windows and the spine come back. -/
def State.loadTeam (s : State) (team : Nat) (t0 : Team) (spine : Quire) (stn : List (Nat × Nat × Station)) : State :=
  let now := s.team team
  let core := fun (old : Nat) => now.cores.getD (t0.cores.idxOf old) 0
  let s := s.modTeam team (fun t => { t with
    barriers := t0.barriers, handles := t0.handles, queues := t0.queues.map (fun q => q.map (fun w => { w with clock := 0 })), desc := t0.desc,
    windows := t0.windows.map (fun w => { w with core := core w.core }), movedIn := true, phase := .none })
  let s := s.modQuire now.spine (fun q => { spine with
    core := q.core, ip := q.ip, team := team, flags := spine.flagsAll, fset := [], pend := [],
    threads := spine.threads.map (fun th => { th with tNext := 0, pend := [], since := none }) })
  let s := stn.foldl (fun s x => s.modStation (now.cores.getD x.1 0) x.2.1 (fun _ => x.2.2)) s
  let s := t0.windows.foldl (fun s w => match s.bag? (s.partOfCore (core w.core)) w.bag with
    | some b => s.dropWindow (core w.core) b w.share
    | none => s) s
  (s.teamLive team).foldl (fun s t => if (s.thread t).stat = .parked .restore then s.resumeThread t else s) s

/-- Some byte of a record's lines holds an uncorrectable error (R385). -/
def State.recordPoison (s : State) (ps : List (Nat × Nat)) : Bool :=
  s.poison.any (fun l => ps.any (fun p => decide (p.1 / 128 ≤ l) && decide (l < (p.1 + p.2 + 127) / 128)))

/-- R376: CTXSV moves its record, unless that has been done in this save. -/
def State.ctxSave (s : State) (o : Op) (t : ThreadId) (unit : Nat) (part : Nat) (ps : List (Nat × Nat)) : State :=
  let team := (s.quire o.quire).team
  match unit with
  | 0 =>
    let s := s.modThread t Thread.applyT
    let bs := (match o.ctr with | some k => s.modThread t (Thread.dec k) | none => s).threadRecord t
    let at_ := (ps.headD (0, 0)).1
    let s := s.sliceStore part false at_ (bs ++ leBytes 8 (Config.ctxCheck bs).toNat)
    let rest := s.saves.filter (fun r => r.what != .thread t)
    { s.modThread t (fun th => { th with out := true }) with saves := rest ++ [{ addr := at_, len := 0x80, what := .thread t, altered := false }] }
  | 1 =>
    if (s.quire o.quire).movedOut then s
    else (s.putRecord part ps (.quire (s.quire o.quire))).modQuire o.quire (fun q => { q with movedOut := true, out := true })
  | 2 =>
    if (s.team team).movedOut then s
    else ((s.putRecord part ps (.team (s.team team) (s.quire (s.team team).spine) (s.teamStations team))).freeStations team).modTeam team
      (fun x => { x with movedOut := true })
  | _ =>
    if (s.team team).unitOut.contains o.core then s
    else (s.putRecord part ps (.unit (s.unit o.core))).modTeam team (fun x => { x with unitOut := x.unitOut ++ [o.core] })

/-- R376: a record that fails its check kills the gang with cause CTXBAD. -/
def State.ctxBad (s : State) (o : Op) : State := s.addKill (s.gangOf o.quire) 0x84

/-- R376: CTXLD moves its record, unless that has been done in this restore. -/
def State.ctxLoad (s : State) (o : Op) (t : ThreadId) (unit : Nat) (ps : List (Nat × Nat)) : State :=
  let team := (s.quire o.quire).team
  let s := if s.recordPoison ps then s.addKill (s.gangOf o.quire) 0x80 else s
  match unit with
  | 0 =>
    let bs := s.memBytes (ps.headD (0, 0)).1 0x80
    if fieldAt bs 0x78 8 = (Config.ctxCheck (bs.take 0x78)).toNat then
      (match o.ctr with | some k => (s.loadThread t bs).modThread t (Thread.inc k) | none => s.loadThread t bs)
    else s.ctxBad o
  | 1 =>
    if (s.quire o.quire).movedIn then s
    else (match s.getRecord ps with
      | some (.quire z) => s.modQuire o.quire (fun q => { q with
          q := z.q, qp := z.qp, flags := z.flagsAll, fset := [],
          pend := q.pend.filter (fun p => match p.reg with | .q m => decide (408 ≤ m) | _ => false), busy := z.busy.filter (fun b => (s.op? b.op).isSome), movedIn := true, out := false })
      | _ => s.ctxBad o)
  | 2 =>
    if (s.team team).movedIn then s
    else (match s.getRecord ps with
      | some (.team t0 spine stn) => s.loadTeam team t0 spine stn
      | _ => s.ctxBad o)
  | _ =>
    if (s.team team).unitIn.contains o.core then s
    else (match s.getRecord ps with
      | some (.unit u) => (s.modUnit o.core (fun x => { x with
          planes := u.planes, active := u.active, issued := u.issued, issuedActive := u.issuedActive })).modTeam team
            (fun x => { x with unitIn := x.unitIn ++ [o.core] })
      | _ => s.ctxBad o)

/-- A context instruction whose fence and conditions are over moves its record and completes. -/
def State.ctxEnd (s : State) (o : Op) (save : Bool) (unit : Nat) : State :=
  match o.threads with
  | [] => s
  | t :: _ =>
    let q := s.quire t.quire
    let sp := recordSpan unit (32 * q.qid + t.lane) q.qid ((s.team q.team).cores.idxOf o.core)
    match s.recordPieces t (if save then .write else .read) (s.ctxBase q.team + sp.1) sp.2 with
    | .error tr => (s.complete o.id).raiseOp o o.threads tr
    | .ok ps =>
      let s := s.usePages o.core (s.recordOf q.team).root ((List.range ps.length).map (fun i => (s.ctxBase q.team + sp.1 + 65536 * i) % 2 ^ 48))
      let s := if save then s.ctxSave o t unit (s.partOfCore o.core) ps else s.ctxLoad o t unit ps
      (s.complete o.id).unparkOp o.id o.threads

/-- A context instruction goes on: its fence (R255, R376), then its record. -/
def State.ctxStep (s : State) (o : Op) (save : Bool) (unit : Nat) : State :=
  match o.phase with
  | .relWait => if s.ctxFence o then (s.acquireDo o.core .sy).modOp o.id (fun x => { x with phase := .active }) else s
  | _ => if s.ctxReady o save unit then s.ctxEnd o save unit else s

/-! ### Fences complete (R179, R255) -/

/-- FENCE_COMPLETE (R255, R179): a waiting fence, release, acquire or context instruction goes on once its conditions hold. -/
def execFenceComplete (op : Nat) (s : State) : Host.Outcome State Fault Refusal :=
  event (fun s => match s.op? op with
    | none => s
    | some o =>
      match o.kind, o.phase with
      | .fence kind, _ =>
        let rel := kind = .acq ∨ s.releaseHolds o o.rel o.threads
        let acq := kind = .rel ∨ s.acquireHolds o o.threads
        if rel ∧ acq then (if kind = .rel then s else s.acquireDo o.core o.acq).complete op else s
      | .context save unit, _ => s.ctxStep o save unit
      | _, .relWait => s.releaseEnd o
      | _, .acqWait => s.acquireEnd o
      | _, .active => s) s

end Sys2Proof.Machine
end

