-- ==== Sys2Proof/Machine/Threads.lean ====
section
/-! DEFINITION. Steps of threads and schedulers: clauses start, quires enter and leave the active set, reconvergence
clauses issue, threads retire and enter their handlers (chapters 02, 04, 15). -/

namespace Sys2Proof

/-- R85: a quire-wide instruction. -/
def Instr.quireWide : Instr → Bool
  | .qsync .. | .vote .. | .ballot .. | .lxch .. | .qred .. | .qscan .. | .match_ .. => true
  | _ => false

/-- R288: a matrix instruction that signs a station. -/
def Instr.signs : Instr → Bool
  | .mload .. | .mswap .. | .mstream .. | .mzero .. | .mfill .. | .mdrain .. | .mdrainv .. => true
  | _ => false

/-- R81: an instruction that keeps its clause to gatherings of one quire: it names a uniform register, a uniform predicate
or a port, is quire-wide, signs a station (R288), or acts once for the gathering on an object of its quire. -/
def Instr.oneQuire (i : Instr) : Bool :=
  let u := i.uses
  !u.rq.isEmpty || !u.wq.isEmpty || !u.rqp.isEmpty || !u.wqp.isEmpty || i.quireWide || i.signs ||
  (match i with | .hacq .. | .hexp .. | .htake .. | .hfree .. | .ctxsv .. | .ctxld .. => true | _ => false)

end Sys2Proof

namespace Sys2Proof.Machine

/-! ### The clause header (Table 2.1) -/

/-- COUNT. -/
def hdrCount (w : Word) : Nat := (w.extractLsb' 0 4).toNat
/-- CLASS. -/
def hdrClass (w : Word) : Nat := (w.extractLsb' 4 3).toNat
/-- WAIT. -/
def hdrWait (w : Word) : BitVec 8 := w.extractLsb' 7 8
/-- PRED. -/
def hdrPred (w : Word) : Nat := (w.extractLsb' 15 3).toNat
/-- NEG. -/
def hdrNeg (w : Word) : Bool := w.getLsbD 18
/-- YIELD. -/
def hdrYield (w : Word) : Bool := w.getLsbD 19

/-- R29: the conditions on the header word alone. -/
def headerBad (w : Word) : Bool := w.extractLsb' 20 12 != 0 || hdrCount w == 0 || hdrClass w == 7

/-- An opcode of format F2 (R32). -/
def isF2 (w : Word) : Bool := w.getLsbD 7
/-- R29: an opcode of 0x90 to 0x95. -/
def isTransfer (w : Word) : Bool := let op := (w.extractLsb' 0 8).toNat; decide (0x90 ≤ op) && decide (op ≤ 0x95)

/-- R29: the conditions on the words of a clause from an instruction boundary on. -/
def wordsBad : List Word → Bool
  | [] => false
  | [w] => isF2 w
  | w :: v :: ws =>
    if isF2 w then (isTransfer w && !ws.isEmpty) || wordsBad ws else wordsBad (v :: ws)

/-- The instructions of the words of a clause, those that decode. -/
def clauseInstrs : List Word → List Instr
  | [] => []
  | [w] => match decode [w] with | .ok (i, _) => [i] | .error _ => []
  | w :: v :: ws =>
    let here := match decode [w, v] with | .ok (i, _) => [i] | .error _ => []
    here ++ (if isF2 w then clauseInstrs ws else clauseInstrs (v :: ws))

/-- R40: a thread's counters that the mask names read zero. -/
def Thread.waitOk (m : BitVec 8) (th : Thread) : Bool := (List.range 8).all (fun k => !m.getLsbD k || th.ctr k == 0)

/-! ### Fetch and start (R28 to R30, R40, R80 to R83) -/

/-- R83, R185: the check of fetching words k to k + n − 1 of the clause at an address, on behalf of a thread. -/
def State.fetchCheck (s : State) (t : ThreadId) (hdr : Addr) (k n : Nat) : Check :=
  (List.range n).foldl (fun c i => c.and (s.checkG t .fetch (hdr + BitVec.ofNat 48 (4 * (k + i))).toNat 4)) (.ok [])

/-- The word at a physical address as a fetch of core `c` finds it: as its home slice holds it, or with the bytes that the
core's L1 holds: which is open (log entry 9). -/
def State.fetchWord (s : State) (c pa : Nat) : Word :=
  let home := s.memBytes pa 4
  match s.l1Find c (lineOf pa) with
  | some l =>
    if Config.freeBool s.tick (2 ^ 25 + lineOf pa) then
      BitVec.ofNat 32 (leNat (home.mapIdx (fun i b =>
        if l.valid.getLsbD (pa % 128 + i) then (l.data >>> (8 * (pa % 128 + i))).setWidth 8 else b)))
    else BitVec.ofNat 32 (leNat home)
  | none => BitVec.ofNat 32 (leNat home)

/-- The words at checked chunks, as a core fetches them. -/
def State.fetchWords (s : State) (c : Nat) (ps : List Chunk) : List Word :=
  ps.map (fun p => match p.place with | .g pa => s.fetchWord c pa | _ => 0)

/-- R385, R188: the gangs that fetch a clause consume the lines of its words, which are asked for as requester class 0. -/
def State.fetchConsume (s : State) (c : Nat) (ms : List ThreadId) (ps : List Chunk) : State :=
  let lines := (ps.filterMap (fun p => match p.place with | .g pa => some (lineOf pa) | _ => none)).eraseDups
  let s := lines.foldl (fun s l => s.askFor (homeSlice (s.part (s.partOfCore c)) (l * 128)) l 0) s
  ms.foldl (fun s t => ps.foldl (fun s p => match p.place with | .g pa => s.consume (s.gangOf t.quire) (lineOf pa) | _ => s) s) s

/-- R28: the governing value of a thread at clock `now`; in spine code the predicates are the context's. -/
def State.governs (s : State) (now : Nat) (h : Word) (t : ThreadId) : Bool :=
  (if (s.quire t.quire).role == .spine then s.readQp now t.quire (hdrPred h) else s.readP now t (hdrPred h)) != hdrNeg h

/-- The clock at which a gathering of these threads could issue (R37, R80). -/
def State.startClock (s : State) (c ip : Nat) (ms : List ThreadId) : Nat :=
  ms.foldl (fun n t => max n (s.thread t).tNext) (max (s.core c).clock ((s.core c).slots.getD ip 0))

/-- R107: the clock at which a clause reads its governing predicate: a checked result that R37 admits is awaited. -/
def State.governClock (s : State) (c ip : Nat) (h : Word) (ms : List ThreadId) : Nat :=
  ms.foldl (fun n t =>
    if (s.quire t.quire).role == .spine then clearHold (s.quire t.quire).pend (.qp (hdrPred h)) n
    else clearHold (s.thread t).pend (.p (hdrPred h)) n) (s.startClock c ip ms)

/-- A gathering starts: governing values, the clause's words, and its threads. A thread that goes on inside a clause keeps
its governing value (R374). -/
def State.gather (s : State) (hdr : Addr) (pos : Nat) (h : Word) (ws : List Word) (ms : List ThreadId) : State :=
  match ms with
  | [] => s
  | t0 :: _ =>
    let q := s.quire t0.quire
    let now := s.governClock q.core q.ip h ms
    -- R107: the clause issues no earlier than its governing predicate is written
    let late := decide (pos = 0 ∧ s.startClock q.core q.ip ms < now)
    let g : Gath := { core := q.core, ip := q.ip, hdr := hdr, header := h, words := ws, pos := max 1 pos, members := ms }
    let s' := s.modThreads ms (fun t th =>
      { th with stat := .gathered, gov := if pos = 0 then s.governs now h t else th.gov, tNext := if late then max th.tNext now else th.tNext })
    let s' := (quiresOf ms).foldl (fun s q => s.modQuire q (fun x => { x with yielded := hdrYield h })) s'
    { s' with gaths := s'.gaths ++ [g] }

/-- R81: the clause's instructions from word `pos` on allow gatherings of several quires. -/
def manyQuires (is : List Instr) : Bool := is.all (fun i => !i.oneQuire)

/-- What the words of a fetched clause lead to: ILLCLAUSE, held threads, a wait on counters, or a gathering. `hold` says that
threads that reach the header of a reconvergence clause are held (R85). Threads that TRET resumes within such a clause (R374)
have passed its header: they are not held, and the participants of a quire-wide instruction there are those that gather (log
entry 90). -/
def State.clauseFetched (s : State) (hold : Bool) (hdr : Addr) (pos : Nat) (h : Word) (ws : List Word) (ms : List ThreadId) : State :=
  let tail := ws.drop (pos - 1)
  let is := clauseInstrs tail
  if wordsBad tail then ms.foldl (fun s t => s.raiseAt t hdr 0 { code := .illclause }) s
  else if hold && pos == 0 && is.any Instr.quireWide then s.modThreads ms (fun _ th => { th with stat := .held })
  else if pos == 0 && ms.any (fun t => !(s.thread t).waitOk (hdrWait h)) then s
  else if (quiresOf ms).length > 1 && !manyQuires is then s
  else s.gather hdr pos h ws ms

/-- R29, R83: fetch the clause at an address for threads that stand at word `pos` of it. -/
def State.fetchClause (s : State) (hold : Bool) (hdr : Addr) (pos : Nat) (ms : List ThreadId) : State :=
  match ms with
  | [] => s
  | t0 :: _ =>
    let c := (s.quire t0.quire).core
    let trapsOf := fun (k : Checked) => k.traps.foldl (fun s x => (s.noteForeign x.1 x.2).raiseAt x.1 hdr pos x.2) s
    let k0 := checkAll ms (fun t => s.fetchCheck t hdr 0 1)
    match k0.traps, k0.misses, k0.go with
    | [], [], g0 :: _ =>
      let h := (s.fetchWords c g0.chunks).headD 0
      if headerBad h then ms.foldl (fun s t => s.raiseAt t hdr 0 { code := .illclause }) s
      else
        let k1 := checkAll ms (fun t => s.fetchCheck t hdr 1 (hdrCount h))
        (match k1.traps, k1.misses, k1.go with
          | [], [], g1 :: _ =>
            let ips := (s.quire t0.quire).ip
            let vas := (List.range (hdrCount h + 1)).map (fun i => (hdr + BitVec.ofNat 48 (4 * i)).toNat)
            let s := s.fillMicro c ips (s.quire t0.quire).team vas
            (s.fetchConsume c ms (g0.chunks ++ g1.chunks)).clauseFetched hold hdr pos h (s.fetchWords c g1.chunks) ms
          | [], m :: ms', _ => s.startWalks c (m :: ms')
          | [], [], [] => s
          | _ :: _, _, _ => trapsOf k1)
    | [], m :: ms', _ => s.startWalks c (m :: ms')
    | [], [], [] => s
    | _ :: _, _, _ => trapsOf k0

/-- A thread may run if its quire is active: its gang is not halted, it has no PREEMPT to take first, and a spine has not
stopped for a save or a restore (R380, R382, R390). -/
def State.mayRun (s : State) (t : ThreadId) : Bool :=
  let th := s.thread t
  let q := s.quire t.quire
  !(s.gang (s.gangOf t.quire)).halted && !(th.preempt && !th.hand) && (q.role != .spine || (s.team q.team).phase == .none)

/-- The header word at an address that a thread fetches, when its translation is at hand. -/
def State.headerFor? (s : State) (t : ThreadId) (hdr : Addr) : Option Word :=
  match s.fetchCheck t hdr 0 1 with
  | .ok ps => (s.fetchWords (s.quire t.quire).core ps).head?
  | _ => none

/-- The header word a thread stands at, when its translation is at hand. -/
def State.headerAt? (s : State) (t : ThreadId) : Option Word := s.headerFor? t (s.thread t).hdr

/-- A thread stands at a clause header whose WAIT mask its counters do not satisfy. -/
def State.waitsCounter (s : State) (t : ThreadId) : Bool :=
  let th := s.thread t
  th.stat == .ready && th.pos == 0 && (match s.headerAt? t with | some h => !th.waitOk (hdrWait h) | none => false)

/-- R187: a thread whose access awaits a page walk. -/
def State.onWalk (s : State) (t : ThreadId) : Bool :=
  (s.core (s.quire t.quire).core).walks.any (fun w => w.waiters.any (fun x => x.1 == t))

/-- R79, R187: a thread that would be ready if its quire were active and its STALL had elapsed. -/
def State.wouldRun (s : State) (t : ThreadId) : Bool :=
  (s.thread t).stat == .ready && s.mayRun t && !s.waitsCounter t && !s.onWalk t

/-- R79: the STALL of a thread's previous instruction has elapsed on its core: at its clock, or because nothing on the core stands
ready to issue before. -/
def State.stallOver (s : State) (t : ThreadId) : Bool :=
  let c := (s.quire t.quire).core
  decide ((s.thread t).tNext ≤ (s.core c).clock) ||
  !(s.gaths.any (fun g => g.core == c && g.members.any (fun u => (s.thread u).stat == .gathered && !s.onWalk u && s.mayRun u)) ||
    s.quires.zipIdx.any (fun q => q.1.core == c && q.1.active && (s.liveOf q.2).any s.wouldRun))

/-- R79: a thread is ready, but for the STALL of its previous instruction. -/
def State.isReady (s : State) (t : ThreadId) : Bool := (s.quire t.quire).active && s.wouldRun t

/-! ### Gatherings (R79 to R82) -/

/-- R80: the clock from which a thread has been ready without a break, its STALL elapsed (R37). -/
def State.readyAt (s : State) (t : ThreadId) : Nat :=
  let th := s.thread t
  th.since.getD (max (s.core (s.quire t.quire).core).clock th.tNext)

/-- The quires of an issue partition of a core, in slot order, with a live thread. The slot order is that of placement and restore: which
free slot a quire takes is open (log entry 102). -/
def State.quiresAt (s : State) (c ip : Nat) : List Nat :=
  (List.range s.quires.length).filter (fun r => (s.quire r).core == c && (s.quire r).ip == ip && !(s.liveOf r).isEmpty)

/-- R80: the thread that has been ready longest; of equals the first, by slot and lane. -/
def State.longestReady (s : State) : List ThreadId → Option ThreadId
  | [] => none
  | t :: ts => match s.longestReady ts with
    | some u => if s.readyAt u < s.readyAt t then some u else some t
    | none => some t

/-- At most one thread per lane rank, the first of each. -/
def oneperLane (ts : List ThreadId) : List ThreadId :=
  ts.foldl (fun acc t => if acc.any (fun u => u.lane == t.lane) then acc else acc ++ [t]) []

/-- R81: the clause that a thread stands at, from its word on, is at hand and allows gatherings of several quires. -/
def State.sharedClause (s : State) (t : ThreadId) : Bool :=
  let th := s.thread t
  match s.headerAt? t with
  | none => false
  | some h => (match s.fetchCheck t th.hdr 1 (hdrCount h) with
    | .ok ps => manyQuires (clauseInstrs ((s.fetchWords (s.quire t.quire).core ps).drop (th.pos - 1)))
    | _ => false)

/-- R80, R81, R369: the gathering that the picker of an issue partition forms: the thread that has been ready longest, and the
other ready threads of its grid at its place in its mode, of its quire first and then in slot order, in lane order. -/
def State.picked (s : State) (c ip : Nat) : List ThreadId :=
  let ready := ((s.quiresAt c ip).flatMap s.liveOf).filter s.isReady
  match s.longestReady ready with
  | none => []
  | some t0 =>
    let th0 := s.thread t0
    let now := s.startClock c ip [t0]
    let joins := fun (t : ThreadId) =>
      let th := s.thread t
      th.hdr == th0.hdr && th.pos == th0.pos && th.hand == th0.hand && s.gridOf t.quire == s.gridOf t0.quire &&
      decide (s.readyAt t ≤ now)
    let same := ready.filter (fun t => t.quire == t0.quire && joins t)
    let rest := if s.sharedClause t0 then ready.filter (fun t => t.quire != t0.quire && joins t) else []
    sortBy (fun a b => decide (a.lane ≤ b.lane)) (oneperLane (t0 :: same ++ rest))

/-- R80, R309: the threads are those of the gathering that may form now; a spine context forms its own. -/
def State.mayGather (s : State) (ms : List ThreadId) : Bool :=
  match ms with
  | [] => false
  | t0 :: rest =>
    let q := s.quire t0.quire
    if q.role == .spine then rest.isEmpty && s.isReady t0 else ms == s.picked q.core q.ip

/-- R85: a thread stands at the header of a reconvergence clause whose WAIT its counters do not satisfy: it is held there all the
same. A walk that its words need comes first. -/
def State.mayHold (s : State) (t : ThreadId) : Bool :=
  s.waitsCounter t && s.mayRun t && !s.onWalk t && (s.quire t.quire).role != .spine &&
  (match s.headerAt? t with
    | none => false
    | some h => (match s.fetchCheck t (s.thread t).hdr 1 (hdrCount h) with
      | .ok ps => (clauseInstrs (s.fetchWords (s.quire t.quire).core ps)).any Instr.quireWide
      | .miss .. => true
      | .trap _ => false))

/-- CLAUSE_START (R28 to R30, R80 to R83): a gathering forms, or a thread is held at a reconvergence clause that its WAIT keeps from
issuing (R85). -/
def execClauseStart (members : List ThreadId) (s : State) : Host.Outcome State Fault Refusal :=
  event (fun s => if s.mayGather members || (match members with | [t] => s.mayHold t | _ => false) then
      let th := s.thread (members.headD ⟨0, 0⟩)
      s.fetchClause true th.hdr th.pos members
    else s) s

/-! ### Reconvergence (R85 to R87, R369) -/

/-- R85: a parked thread is parked for a reconvergence clause: at a barrier from issue to its acquire, at a station, on a
monitor, a handle, a port or a copy slot; a thread that awaits a verdict or a record is still running. -/
def State.parkedFor (s : State) (w : Wait) : Bool :=
  match w with
  | .op id => (match s.op? id with
    | some o => (match o.kind with | .barrier .. | .carve .. | .waitc => true | _ => false)
    | none => false)
  | _ => true

/-- R86, R369: a live thread does not hold a reconvergence clause back; `hand` is the mode of the clause. -/
def State.outOfWay (s : State) (hand : Bool) (t : ThreadId) : Bool :=
  let th := s.thread t
  th.hand != hand ||
  (match th.stat with
    | .held | .saved | .trapping _ => true
    | .parked w => s.parkedFor w
    | _ => false)

/-- The threads of a quire that are held at an address in a mode. -/
def State.heldAt (s : State) (q : Nat) (x : Addr) (hand : Bool) : List ThreadId :=
  (s.liveOf q).filter (fun t => let th := s.thread t; th.stat == .held && th.hdr == x && th.hand == hand)

/-- R86, R40: the reconvergence clause at X is ready in a mode: no thread holds it back, and the counters of the threads held
at it read zero. -/
def State.reconverges (s : State) (q : Nat) (x : Addr) (hand : Bool) : Bool :=
  let hs := s.heldAt q x hand
  !hs.isEmpty && hs.all (fun t => s.mayRun t && (match s.headerFor? t x with | some h => (s.thread t).waitOk (hdrWait h) | none => true)) &&
  (s.liveOf q).all (s.outOfWay hand)

/-- R87: the reconvergence clauses of a quire that are ready, in the order in which they became so. -/
def State.reconvReady (s : State) (q : Nat) : List (Addr × Bool) :=
  let old := (s.quire q).reconv.filter (fun x => s.reconverges q x.1 x.2)
  let held := (((s.liveOf q).filter (fun t => (s.thread t).stat == .held)).map (fun t => ((s.thread t).hdr, (s.thread t).hand))).eraseDups
  old ++ held.filter (fun x => !old.contains x && s.reconverges q x.1 x.2)

/-- RECONVERGENCE_ISSUE (R86, R87): of the clauses of an active quire that are ready, the one that became ready first issues as
one gathering of the threads held at it. -/
def execReconvergenceIssue (q : Nat) (at_ : Addr) (s : State) : Host.Outcome State Fault Refusal :=
  event (fun s => match s.reconvReady q with
    | x :: _ => if x.1 = at_ ∧ (s.quire q).active = true then s.fetchClause false at_ 0 (s.heldAt q at_ x.2) else s
    | [] => s) s

/-! ### The active set (R79) -/

/-- R79, R187: a member of a gathering in progress that could issue its next instruction. -/
def State.couldIssue (s : State) (t : ThreadId) : Bool := (s.thread t).stat == .gathered && !s.onWalk t

/-- R79: a quire is resolved: one of its threads would be ready, its STALL elapsed, or go on in its clause, or a reconvergence clause of it is
ready (R87). -/
def State.resolvedQuire (s : State) (q : Nat) : Bool :=
  (s.liveOf q).any (fun t => (s.wouldRun t && s.stallOver t) || s.couldIssue t) || !(s.reconvReady q).isEmpty

/-- The quires of one issue partition. -/
def State.sameIp (s : State) (q : Nat) : List Nat := s.quiresAt (s.quire q).core (s.quire q).ip

/-- R79: pending quires of the issue partition that are found resolved take their place in the order. -/
def State.noteResolved (s : State) (q : Nat) : State :=
  (s.sameIp q).foldl (fun s r =>
    if !(s.quire r).active && (s.quire r).resolved == 0 && s.resolvedQuire r then s.modQuire r (fun x => { x with resolved := s.tick + 1 })
    else s) s

/-- R85: a thread that a debugger has halted is parked. -/
def State.haltedT (s : State) (t : ThreadId) : Bool := (s.gang (s.gangOf t.quire)).halted

/-- R79, R187: an active quire may be swapped out now: none of its threads is ready or has a clause in progress that could go
on, and no reconvergence clause of it is ready; or it yields and another quire is resolved. -/
def State.swapsOut (s : State) (q : Nat) : Bool :=
  let live := s.liveOf q
  let calm := live.all (fun t => (s.thread t).stat != .gathered || s.haltedT t)
  let idle := live.all (fun t => s.haltedT t || (match (s.thread t).stat with | .ready => s.waitsCounter t || s.onWalk t | .gathered => s.onWalk t | _ => true))
  let other := (s.sameIp q).any (fun r => !(s.quire r).active && s.resolvedQuire r)
  (idle && (s.reconvReady q).isEmpty) || (calm && (s.quire q).yielded && other)

/-- QUIRE_SWAP_OUT (R79). -/
def execQuireSwapOut (q : Nat) (s : State) : Host.Outcome State Fault Refusal :=
  event (fun s =>
    if (s.quire q).active && (s.quire q).role != .spine && s.swapsOut q then
      (s.modQuire q (fun x => { x with active := false, resolved := 0, yielded := false })).noteResolved q
    else s) s

/-- QUIRE_ACTIVATE (R79): the oldest-resolved pending quire enters, while fewer than eight are active. -/
def execQuireActivate (q : Nat) (s : State) : Host.Outcome State Fault Refusal :=
  event (fun s =>
    let s := s.noteResolved q
    let peers := s.sameIp q
    let me := s.quire q
    if !me.active && me.resolved != 0 && decide ((peers.filter (fun r => (s.quire r).active)).length < 8) &&
        peers.all (fun r => (s.quire r).active || (s.quire r).resolved == 0 || decide (me.resolved ≤ (s.quire r).resolved)) then
      s.modQuire q (fun x => { x with active := true, resolved := 0 })
    else s) s

/-! ### What a step leaves to be seen (R79, R80, R87) -/

/-- After each step: since when each thread has been ready, which pending quires are resolved and since when, and which
reconvergence clauses are ready, in order. -/
def State.noteReady (s : State) : State :=
  { s with quires := s.quires.mapIdx (fun qi q => { q with
      threads := q.threads.mapIdx (fun l th => { th with since := if s.isReady ⟨qi, l⟩ then some (s.readyAt ⟨qi, l⟩) else none }),
      resolved := if q.active || !s.resolvedQuire qi then 0 else if q.resolved = 0 then s.tick + 1 else q.resolved,
      reconv := s.reconvReady qi }) }

/-! ### Retirement and trap entry (R94, R240, R367, R370) -/

/-- The quire of a retired thread: with all its threads retired it leaves the active set (R94). -/
def State.settleQuire (s : State) (q : Nat) : State :=
  if (s.liveOf q).isEmpty && (s.quire q).role != .spine then s.modQuire q (fun x => { x with active := false, resolved := 0 }) else s

/-- R94: an exiting thread whose counters read zero may retire; a FENCE that precedes its EXIT is over by then (log entry 105). -/
def State.retires (s : State) (t : ThreadId) : Bool :=
  let th := s.thread t
  th.stat == .exiting && th.ctrsZero

/-- THREAD_RETIRE (R94, R240). -/
def execThreadRetire (t : ThreadId) (s : State) : Host.Outcome State Fault Refusal :=
  event (fun s =>
    if s.retires t then
      let s := s.modThread t (fun th => { th with stat := .retired })
      ((if (s.quire t.quire).role == .spine then s else s.retireBarriers t).settleQuire t.quire).l1Refit (s.quire t.quire).core
    else s) s

/-- TRAP_ENTRY (R367, R370): a thread that raised a trap enters its handler once its older instructions have written; a
PREEMPT kept for a thread is taken. -/
def execTrapEntry (t : ThreadId) (s : State) : Host.Outcome State Fault Refusal :=
  event (fun s =>
    let th := s.thread t
    match th.stat with
    | .trapping tr => if s.olderWrites t then s else s.enterHandler t tr
    | _ => if th.preempt && !th.hand then s.preemptThread t else s) s

end Sys2Proof.Machine
end

