-- ==== Sys2Proof/Machine/Dist.lean ====
section
/-! DEFINITION. The distributor: launch records, placement, victims, saved gangs, and the end of teams and grids (chapters 04,
13, 15, 16). -/

namespace Sys2Proof.Machine

/-! ### Launch records (R312 to R314, R403) -/

/-- Table 13.1: a record from its 256 bytes; reserved fields are ignored (R3). -/
def LaunchRec.parse (bs : List Byte) : LaunchRec :=
  let f := fieldAt bs
  { attr := BitVec.ofNat 32 (f 0 4), teams := f 4 4, maxTeams := f 8 4, gx := f 12 4,
    entryS := BitVec.ofNat 48 (f 0x10 8), entryM := BitVec.ofNat 48 (f 0x18 8), entryV := BitVec.ofNat 48 (f 0x20 8),
    ptroot := f 0x28 8, privBase := f 0x30 8 % 2 ^ 48, privLim := f 0x38 4, pslots := f 0x3C 4, kbase := f 0x40 4,
    ksize := f 0x44 4, shape := BitVec.ofNat 32 (f 0x48 4), scratch := f 0x4C 4,
    slots := (List.range 8).map (fun n => { w0 := BitVec.ofNat 32 (f (0x80 + 8 * n) 4), seed := BitVec.ofNat 32 (f (0x84 + 8 * n) 4) }) }

/-- R15, R314: one team's registers and scratch fit on an empty core. -/
def LaunchRec.fitsCore (r : LaunchRec) : Bool :=
  (List.range r.coresN).all (fun k => decide (r.regGranules k ≤ 48) && decide (r.regGranules k + r.granules + 4 ≤ 80))

/-- R314: the items in order, true where violated; `chipK` is the size of the partition's chip scratch. -/
def LaunchRec.violations (r : LaunchRec) (chipK : Nat) : List Bool :=
  let g := r.gangN
  let odd := fun (a : Addr) => a.toNat % 4 != 0
  [ r.regs == 0 || decide (r.regs > 128) || r.quires == 0 || decide (r.quires > 96) || decide (r.mquires > r.quires) ||
      decide (g * r.coresN > 8),
    r.teams == 0 || decide (r.teams > r.maxTeams) || decide (r.maxTeams > 2 ^ 24) || r.teams % g != 0 || r.maxTeams % g != 0 || r.gx == 0,
    (r.entryM != 0) != (r.mquires != 0),
    (r.entryV != 0) != decide (r.mquires < r.quires),
    odd r.entryS || odd r.entryM || odd r.entryV,
    r.privLim % 4 != 0 || decide (r.privLim > 65536) || r.privBase % 128 != 0 || (r.pslots == 0 && r.privLim != 0),
    r.kbase % 128 != 0 || r.ksize % 128 != 0 || (r.ksize != 0 && decide (r.kbase + r.ksize > chipK)),
    r.slots.any (fun s => !s.ok),
    !r.fitsCore ]

/-- R314: number of the first violated item, from 1. -/
def LaunchRec.refusal (r : LaunchRec) (chipK : Nat) : Option Nat :=
  let vs := r.violations chipK
  let i := vs.findIdx id
  if i < vs.length then some (i + 1) else none

/-- Chip scratch of a partition in bytes (R208). -/
def Part.chipK (p : Part) : Nat := p.sc * 2 ^ 19

/-- A grid newly accepted (R312, R313): every gang pending in rising order. -/
def Grid.fresh (part : Nat) (number : Word) (r : LaunchRec) (order : Nat) (chk : Bool) : Grid :=
  { Grid.absent with
    part := part, number := number, record := r, order := order, pending := List.range (r.teams / r.gangN), count := r.teams,
    max := r.maxTeams, chk := r.attr.getLsbD 1 || chk, barriers := List.replicate 4 Barrier.reset, dead := false, reported := false }

/-- R24: bytes that the distributor reads for a partition; those of another partition's memory are discarded, and counted. -/
def State.distBytes (s : State) (part a n : Nat) : List Byte × Bool :=
  if s.partOfPa a = part ∧ s.partOfPa (a + n - 1) = part then (s.memBytes a n, false) else (List.replicate n 0, true)

/-- R391: a launch as the replay log records it: the record's bytes, and the digests of the buffers, first byte and length,
that the host declares. -/
def State.launchEntry (s : State) (part : Nat) (record : List Byte) (buffers : List (Nat × Nat)) : List Byte × List (List Byte) :=
  (record, buffers.map (fun b => Crypto.sha256 (s.distBytes part b.1 b.2).1))

/-- R391: a replaying launch in its partition's mode: it is logged, or held to the next logged one; true where it is
refused. -/
def State.gatedLaunch (s : State) (part : Nat) (r : LaunchRec) (e : List Byte × List (List Byte)) : State × Bool :=
  match if r.replay then (s.part part).replay.toNat else 0 with
  | 1 => (s.modPart part (fun p => { p with launches := p.launches ++ [e] }), false)
  | 2 => (s.modPart part (fun p => { p with launches := p.launches.tail }), (s.part part).launches.head? != some e)
  | _ => (s, false)

/-- LAUNCH_ACCEPT (R312, R314, R391, R403): the next entry is read, and its record retained or refused with event 2. The spec
gives no DATA for a refusal by digest (log entry 56). -/
def State.acceptLaunch (s : State) (part : Nat) (buffers : List (Nat × Nat)) : State :=
  let p := s.part part
  let e := s.distBytes part (p.lqBase + 16 * (p.lqHead % p.lqSize)) 16
  let number := BitVec.ofNat 32 (fieldAt e.1 8 4)
  let r := s.distBytes part (fieldAt e.1 0 6) 256
  let s := s.modPart part (fun p => { p with lqHead := ringNext p.lqHead, errors := p.errors + (if e.2 || r.2 then 1 else 0) })
  let lr := LaunchRec.parse r.1
  match lr.refusal p.chipK with
  | some n => s.putEvent part 2 number n
  | none =>
    let (s, refused) := s.gatedLaunch part lr (s.launchEntry part r.1 buffers)
    if refused then s.putEvent part 2 number (Config.freeNat s.tick (2 ^ 19 + part) % 2 ^ 64)
    else { s with grids := s.grids ++ [Grid.fresh part number lr s.grids.length p.compulsory] }

/-- R217, R401: the device runs work: it is enabled and has not been lost. -/
def State.runs (s : State) : Bool := s.dev.enok && !s.dev.fatal

/-- LAUNCH_ACCEPT of the next launch of a partition's queue (R312). -/
def execLaunchAccept (entry : LaunchEntry) (s : State) : Host.Outcome State Fault Refusal :=
  event (fun s =>
    let p := s.part entry.part
    if s.runs && decide (entry.part < 8) && p.lqSize != 0 && p.lqHead != p.lqTail then s.acceptLaunch entry.part entry.buffers else s) s

/-! ### Residency and reports (R404, R407) -/

/-- Teams of a grid that are placed and not ended. -/
def State.residentTeams (s : State) (gi : Nat) : List Nat :=
  (List.range s.teams.length).filter (fun i => let t := s.team i
    !t.ended && t.phase != .saved && (s.gang t.gang).grid == gi && !(s.gang t.gang).dead)

/-- Teams of a grid that are pending or saved. -/
def State.pendingTeams (s : State) (gi : Nat) : Nat := ((s.grid gi).pending.length + (s.grid gi).saved.length) * (s.grid gi).record.gangN

/-- R407: a REPORT for a grid that a packet brought; the grids of the launch queue have none. -/
def State.report (s : State) (gi state : Nat) : State :=
  let g := s.grid gi
  if g.chips = 0 then s else s.emit (.report g.gid (s.residentTeams gi).length (s.pendingTeams gi) state)

/-- R407: the state of a REPORT on a change of residency. -/
def Grid.reportState (g : Grid) : Nat := if g.multi = .reserved then 0 else 2

/-- R311, R404, R407: a grid without a pending team whose teams have all ended is reported once, by event 1, and by a REPORT
where a packet brought it. -/
def State.settleGrid (s : State) (gi : Nat) : State :=
  let g := s.grid gi
  if !g.dead && !g.reported && g.pending.isEmpty && g.saved.isEmpty && decide (g.count ≤ g.ended) then
    let s := s.modGrid gi (fun g => { g with reported := true })
    (s.putEvent g.part 1 g.number g.status.toNat).report gi 3
  else s

/-! ### Placement (R73 to R77, R170, R279) -/

/-- Choose one of a list by a free choice; none of an empty one. -/
def State.choose (s : State) (salt : Nat) (ns : List Nat) : Option Nat := ns[Config.freeNat s.tick salt % ns.length]?

/-- A gang to be placed: by number, or a saved one by its index of the gang table. -/
inductive ToPlace where
  | new (number : Nat) | saved (gang : Nat)
  deriving DecidableEq, Repr

/-- R74, R313: the cores of team rank k of a gang whose first core is f. -/
def LaunchRec.coresOf (r : LaunchRec) (f k : Nat) : List Nat := span (f + k * r.coresN) r.coresN

/-- Register granules that a team rank needs on its j-th core: those of quires that have not retired (R15, R94). -/
def State.needRegs (s : State) (r : LaunchRec) (p : ToPlace) (rank j : Nat) : Nat :=
  match p with
  | .new _ => r.regGranules j
  | .saved g =>
    let t := s.team ((s.gang g).teams.getD rank 0)
    let n := (t.quires.filter (fun q => (s.quire q).qid % r.coresN == j && !(s.liveOf q).isEmpty)).length
    (n * r.regs * 128 + 65535) / 65536

/-- Quires of an issue partition of a core that have not retired. -/
def State.slotsTaken (s : State) (c ip : Nat) : Nat :=
  ((s.teamsOn c).flatMap (fun t => (s.team t).quires.filter (fun q =>
    (s.quire q).core == c && (s.quire q).ip == ip && !(s.liveOf q).isEmpty))).length

/-- Quires that a team brings to issue partition `ip` of its j-th core (R74). -/
def LaunchRec.quiresAt (r : LaunchRec) (j ip : Nat) : Nat :=
  ((List.range r.quires).filter (fun q => q % r.coresN == j && q / r.coresN % 8 == ip)).length

/-- Quire slots that a team rank needs at issue partition `ip` of its j-th core: those of quires that have not retired (R94). -/
def State.needSlots (s : State) (r : LaunchRec) (p : ToPlace) (rank j ip : Nat) : Nat :=
  match p with
  | .new _ => r.quiresAt j ip
  | .saved g =>
    let t := s.team ((s.gang g).teams.getD rank 0)
    (t.quires.filter (fun q => let z := s.quire q
      z.qid % r.coresN == j && z.qid / r.coresN % 8 == ip && !(s.liveOf q).isEmpty)).length

/-- R74, R279, R389: one core has what a team of the grid needs on its j-th core. -/
def State.coreFits (s : State) (gi : Nat) (p : ToPlace) (rank j c : Nat) : Bool :=
  let g := s.grid gi
  let r := g.record
  let need := s.needRegs r p rank j
  let here := s.teamsOn c
  let used := s.regUsed c
  decide (here.length < 8) && decide ((here.filter (fun t => (s.team t).cores.headD 0 == c)).length < 8 ∨ j ≠ 0) &&
  decide (used + need ≤ 48) && decide (used + s.scratchUsed c + need + r.granules + 4 ≤ 80) &&
  (List.range 8).all (fun ip => decide (s.slotsTaken c ip + s.needSlots r p rank j ip ≤ 64)) &&
  (decide (j < r.mquires) → (s.core c).unit.holder.isNone) &&
  (!(s.core c).quar || (g.chk && r.mquires == 0))

/-- R246: the stations that a saved team holds in its record, by rank of its core. -/
def State.savedStations (s : State) (team : Nat) : List (Nat × Nat × Station) :=
  let t := s.team team
  (s.saves.findSome? (fun x => match x.what with
    | .team z _ st => if z.gang = t.gang ∧ z.index = t.index then some st else none
    | _ => none)).getD []

/-- R246: their numbers are free on the cores of the restore. -/
def State.stationsFree (s : State) (team : Nat) (cores : List Nat) : Bool :=
  (s.savedStations team).all (fun x => (((s.core (cores.getD x.1 0)).stations.getD x.2.1 Station.reset).owner).isNone)

/-- Cores that reservations of other grids hold (R408). -/
def State.heldCores (s : State) (gi : Nat) : List Nat :=
  (List.range s.grids.length).flatMap (fun i =>
    let g := s.grid i
    if i = gi ∨ g.dead then [] else g.reserved.flatMap (fun f => span f (g.record.gangN * g.record.coresN)))

/-- The n-th number, from 0, that stands in no list of numbers in rising order. -/
def nthFree (taken : List Nat) (n : Nat) : Nat := taken.foldl (fun n t => if t ≤ n then n + 1 else n) n

/-- A free choice among the numbers below `limit` that are not taken; none where all are. -/
def State.chooseFree (s : State) (salt limit : Nat) (taken : List Nat) : Option Nat :=
  let ts := (sortBy (fun a b => decide (a ≤ b)) (taken.filter (fun t => decide (t < limit)))).eraseDups
  if limit ≤ ts.length then none else some (nthFree ts (Config.freeNat s.tick salt % (limit - ts.length)))

/-- R170: private slots of a grid that resident or saved teams hold. -/
def State.slotsHeld (s : State) (gi : Nat) : List Nat :=
  s.teams.filterMap (fun t => if (s.gang t.gang).grid = gi ∧ t.ended = false then t.ps else none)
/-- R170: private slots of a grid that are free. -/
def State.slotsFree (s : State) (gi : Nat) : Nat := (s.grid gi).record.pslots - (s.slotsHeld gi).length

/-- R74, R380: the placement places team rank k: of a saved gang, a team that has not ended. -/
def State.placesRank (s : State) (p : ToPlace) (k : Nat) : Bool :=
  match p with
  | .new _ => true
  | .saved g => !(s.team ((s.gang g).teams.getD k 0)).ended

/-- R74, R76: the gang fits with first core f. -/
def State.gangFits (s : State) (gi : Nat) (p : ToPlace) (f : Nat) : Bool :=
  let g := s.grid gi
  let r := g.record
  let n := r.gangN * r.coresN
  let held := s.heldCores gi
  decide (f / 8 = (f + n - 1) / 8) && (s.part g.part).units.clusters.contains (f / 8) &&
  ((List.range r.gangN).filter (s.placesRank p)).all (fun k => (List.range r.coresN).all (fun j =>
    let c := f + k * r.coresN + j
    !held.contains c && s.coreFits gi p k j c)) &&
  (match p with
    | .new _ => r.privLim == 0 || decide (r.gangN ≤ s.slotsFree gi)
    | .saved gx => ((List.range r.gangN).filter (s.placesRank p)).all (fun k => s.stationsFree ((s.gang gx).teams.getD k 0) (r.coresOf f k)))

/-- R75: a quire as placed. -/
def Quire.placed (r : LaunchRec) (team : Nat) (cores : List Nat) (j : Nat) : Quire :=
  let matrix := decide (j < r.mquires)
  { Quire.absent with
    team := team, qid := j, core := cores.getD (j % r.coresN) 0, ip := j / r.coresN % 8, role := if matrix then .matrix else .vector,
    threads := List.replicate 32 (Thread.placed (if matrix then r.entryM else r.entryV) r.regs),
    q := List.replicate 160 0, hb := List.replicate 8 0 }

/-- R308, R311: a spine as placed; without a body it has ended. -/
def Quire.spinePlaced (r : LaunchRec) (team core : Nat) : Quire :=
  { Quire.absent with
    team := team, core := core, ip := 8, role := .spine, active := true,
    threads := [{ Thread.placed r.entryS 0 with stat := if r.entryS = 0 then .retired else .ready }],
    q := List.replicate 160 0, hb := List.replicate 8 0 }

/-- R277, R279: a team takes the unit of a core, at reset. What an ended team has still queued or running there goes with its
watches: what becomes of it is open (log entry 103). -/
def State.takeUnit (s : State) (team c : Nat) : State :=
  let gone := (s.core c).unit.ops.map (·.id)
  { s.modCore c (fun k => { k with unit := { MatUnit.reset with holder := some team } }) with
    watch := s.watch.filter (fun w => !gone.contains w.owner) }

/-- R277, R279: a team takes the unit of each core that holds a matrix-role quire of it. -/
def State.takeUnits (s : State) (r : LaunchRec) (team : Nat) (cores : List Nat) : State :=
  cores.zipIdx.foldl (fun s c => if c.2 < r.mquires then s.takeUnit team c.1 else s) s

/-- R14: the L1s of cores that a team takes granules on keep what is left to them. -/
def State.shrinkAll (s : State) (cores : List Nat) : State := cores.foldl (fun s c => s.l1Shrink c (s.l1Granules c)) s

/-- R74, R75, R170, R172, R236: team rank k of a gang is placed; its threads begin as after an acquire at `.dv` (R331). -/
def State.placeTeam (s : State) (gi gang number k f : Nat) : State :=
  let g := s.grid gi
  let r := g.record
  let team := s.teams.length
  let cores := r.coresOf f k
  let q0 := s.quires.length
  let quires := (List.range r.quires).map (fun j => Quire.placed r team cores j)
  let ps := if r.privLim = 0 then none else s.chooseFree (2 ^ 20 + team) r.pslots (s.slotsHeld gi)
  let t : Team :=
    { Team.absent with
      gang := gang, index := number * r.gangN + k + g.team0 % r.gangN, rank := k, cores := cores, quires := span q0 r.quires, spine := q0 + r.quires,
      barriers := List.replicate 16 Barrier.reset, handles := List.replicate 32 Handle.reset, queues := List.replicate 6 [],
      lastPort := List.replicate 6 (0, 0, 0), desc := List.replicate 16 none, allot := r.granules, ps := ps, ended := false }
  let s := { s with teams := s.teams ++ [t], quires := s.quires ++ quires ++ [Quire.spinePlaced r team (cores.headD 0)] }
  let s := s.takeUnits r team cores
  (cores.foldl (fun s c => s.dropShared c) s).shrinkAll cores

/-- R387: `%relaunch` of a gang number. -/
def Grid.relaunchOf (g : Grid) (number : Nat) : Nat := g.relaunch + ((g.relaunches.find? (fun x => x.1 == number)).map (·.2)).getD 0
/-- R73: a pending gang number is there by a relaunch of its gang. -/
def Grid.relaunched (g : Grid) (number : Nat) : Bool := g.relaunches.any (fun x => x.1 == number)
/-- R387: kills so far of a gang number. -/
def Grid.killsOf (g : Grid) (number : Nat) : Nat := ((g.kills.find? (fun x => x.1 == number)).map (·.2)).getD 0

/-- A gang number of a grid is placed with first core f (R76). -/
def State.placeNew (s : State) (gi number f : Nat) : State :=
  let g := s.grid gi
  let gang := s.gangs.length
  let (stamp, s) := s.fresh
  let t0 := s.teams.length
  let x : Gang := { Gang.absent with
    grid := gi, number := number + g.team0 / g.record.gangN, teams := span t0 g.record.gangN, barriers := List.replicate 4 Barrier.reset,
    relaunch := g.relaunchOf number, kills := g.killsOf number, admitted := stamp, resident := true, dead := false }
  let s := { s with gangs := s.gangs ++ [x] }
  let s := (List.range g.record.gangN).foldl (fun s k => s.placeTeam gi gang x.number k f) s
  s.modGrid gi (fun g => { g with pending := g.pending.filter (· != number) })

/-- R75, R382: a thread of a saved team starts its restore; one that was not saved stays as it is. -/
def Thread.restored (rvec : DWord) (regs : Nat) (th : Thread) : Thread :=
  if th.stat = .saved then
    { Thread.placed (rvec.setWidth 48) regs with hand := true, tcause := 0x118, dbg := th.dbg, out := th.out }
  else th

/-- R381, R384: what threads of a quire still wait for follows them to the core of the restore. -/
def State.moveOps (s : State) (quires : List Nat) : State :=
  { s with ops := s.ops.map (fun o => if quires.contains o.quire then { o with core := (s.quire o.quire).core } else o) }

/-- Bytes of a team's core scratch are no more. -/
def State.dropScratch (s : State) (team : Nat) : State :=
  { s.modTeam team (fun t => { t with scratch := [] }) with
    undefAt := s.undefAt.filter (fun p => match p with | .scratch t _ => t != team | _ => true) }

/-- R382: team rank k of a saved gang is placed again. -/
def State.restoreTeam (s : State) (gi gang k f : Nat) : State :=
  let g := s.grid gi
  let r := g.record
  let team := (s.gang gang).teams.getD k 0
  let t := s.team team
  if t.ended then s
  else
    let cores := r.coresOf f k
    let rvec := (s.part g.part).rvec
    let s := t.quires.foldl (fun s q => s.modQuire q (fun x => { x with
      core := cores.getD (x.qid % r.coresN) 0, threads := x.threads.map (Thread.restored rvec r.regs), q := List.replicate 160 0,
      hb := List.replicate 8 0, qp := 0, flags := 0, fset := [], pend := [], active := false, resolved := 0, reconv := [], movedIn := false })) s
    let s := (s.modQuire t.spine (fun x => { x with core := cores.headD 0 })).moveOps (t.spine :: t.quires)
    let s := (s.dropScratch team).modTeam team (fun t => { t with
      cores := cores, barriers := List.replicate 16 Barrier.reset, handles := List.replicate 32 Handle.reset,
      queues := List.replicate 6 [], lastPort := List.replicate 6 (0, 0, 0), desc := List.replicate 16 none, windows := [], allot := r.granules, carving := [],
      phase := .restoring, movedIn := false, unitIn := [] })
    let s := s.takeUnits r team cores
    let s := (s.savedStations team).foldl (fun s x => s.modStation (cores.getD x.1 0) x.2.1 (fun _ =>
      { Station.reset with owner := some team, n := x.2.2.n })) s
    cores.foldl (fun s c => s.cleanDrop c) s

/-- R382: a saved gang is placed again. It keeps the stamp of its first admission: whether a restore counts as an admission for
'most recently admitted' (R78) is not said (DESIGN CHOICE, log entry 97). -/
def State.placeSaved (s : State) (gi gang f : Nat) : State :=
  let s := (List.range (s.grid gi).record.gangN).foldl (fun s k => s.restoreTeam gi gang k f) s
  let s := s.modGang gang (fun x => { x with resident := true })
  s.modGrid gi (fun g => { g with saved := g.saved.filter (· != gang) })

/-- Place a gang that fits. -/
def State.placeGang (s : State) (gi : Nat) (p : ToPlace) (f : Nat) : State :=
  match p with
  | .new n => s.placeNew gi n f
  | .saved g => s.placeSaved gi g f

/-- R76, R77: place gangs at the first cores given, all in one step; none when one does not fit. -/
def State.placeAll (s : State) (gi : Nat) : List ToPlace → List Nat → Option State
  | [], [] => some s
  | p :: ps, f :: fs => if s.gangFits gi p f then (s.placeGang gi p f).placeAll gi ps fs else none
  | _, _ => none

/-- Places for gangs found by first fit, and the state with them placed. -/
def State.fitAll (s : State) (gi : Nat) : List ToPlace → Option (List Nat)
  | [] => some []
  | p :: ps =>
    match (List.range 256).find? (fun f => s.gangFits gi p f) with
    | none => none
    | some f => ((s.placeGang gi p f).fitAll gi ps).map (f :: ·)

/-- R408: a grid brought by RESERVE starts its teams on COMMIT, or at once with EARLY. -/
def Grid.starts (g : Grid) : Bool := g.multi != .reserved || g.record.early

/-- R73: the first pending gang of a grid: a relaunched one, else the lowest index of the pending and the saved. A relaunched gang
that has been saved since stands among these by its index: whether it still goes ahead is not said (DESIGN CHOICE, log
entry 98). -/
def State.firstOf (s : State) (gi : Nat) : Option ToPlace :=
  let g := s.grid gi
  let number := fun (i : Nat) => (s.gang i).number
  let best := g.saved.foldl (fun b i => match b with | none => some i | some j => if number i < number j then some i else b) (none : Option Nat)
  match g.pending.head?, best with
  | none, none => none
  | some n, none => some (.new n)
  | none, some i => some (.saved i)
  | some n, some i => if g.relaunched n ∨ n + g.team0 / g.record.gangN < number i then some (.new n) else some (.saved i)

/-- A gang of a grid is being saved. -/
def State.midSave (s : State) (gi : Nat) : Bool :=
  (s.gangsOf gi).any (fun g => (s.gang g).teams.any (fun t => !(s.team t).ended && (s.team t).phase == .saving))

/-- R73, R77: what the next step of a grid places: one gang, or every gang of a co-resident grid together, once all of them
have left their units. -/
def State.nextOf (s : State) (gi : Nat) : List ToPlace :=
  let g := s.grid gi
  if g.record.cor || g.multi != .none then (if s.midSave gi then [] else g.pending.map .new ++ g.saved.map .saved)
  else match s.firstOf gi with | some p => [p] | none => []

/-- A grid of a partition has something to place. -/
def State.wants (s : State) (part gi : Nat) : Bool :=
  let g := s.grid gi
  g.part == part && !g.dead && (!g.pending.isEmpty || !g.saved.isEmpty) && g.starts

/-- R73, R408: the grid whose turn it is: one with a held reservation, else the first by priority and launch order. -/
def State.firstGrid (s : State) (part : Nat) : Option Nat :=
  let gs := (List.range s.grids.length).filter (s.wants part)
  match gs.find? (fun i => !(s.grid i).reserved.isEmpty) with
  | some i => some i
  | none => gs.foldl (fun b i => match b with
    | none => some i
    | some j =>
      let gi := s.grid i
      let gj := s.grid j
      if gi.record.prio > gj.record.prio || (gi.record.prio == gj.record.prio && decide (gi.order < gj.order)) then some i else b) none

/-! ### Victims (R78, R380, R402) -/

/-- A gang takes part in a save or restore. -/
def State.saving (s : State) (g : Nat) : Bool := (s.gang g).teams.any (fun t => !(s.team t).ended && (s.team t).phase != .none)

/-- Save areas that a gang's teams still need. -/
def State.areasNeeded (s : State) (g : Nat) : Nat := ((s.gang g).teams.filter (fun t => !(s.team t).ended && (s.team t).area.isNone)).length

/-- A gang that may be chosen as a victim: resident, not halted, not killed, not being saved or restored (R78, R390). -/
def State.victimOk (s : State) (g : Nat) : Bool :=
  let x := s.gang g
  x.resident && !x.dead && !x.halted && !s.saving g && !s.kills.any (fun k => k.gang == g)

/-- R78: the gangs that a choice takes: a co-resident grid is drawn in whole. -/
def State.drawn (s : State) (g : Nat) : List Nat :=
  let gi := (s.gang g).grid
  if (s.grid gi).record.cor || (s.grid gi).multi != .none then (s.gangsOf gi).filter (fun x => (s.gang x).resident) else [g]

/-- R78: candidates: lowest priority first, most recently admitted first. -/
def State.candidates (s : State) (part prio : Nat) : List Nat :=
  let gs := (List.range s.gangs.length).filter (fun g => (s.grid (s.gang g).grid).part == part &&
    decide ((s.grid (s.gang g).grid).record.prio < prio) && s.victimOk g)
  sortBy (fun a b =>
    let pa := (s.grid (s.gang a).grid).record.prio
    let pb := (s.grid (s.gang b).grid).record.prio
    decide (pa < pb) || (pa == pb && decide ((s.gang b).admitted ≤ (s.gang a).admitted))) gs

/-- The state as it would be with gangs saved: for judging what fits. -/
def State.without (s : State) (gs : List Nat) : State :=
  let ts := gs.flatMap (fun g => (s.gang g).teams)
  let s := ts.foldl (fun s t => ((s.team t).cores.foldl (fun s c => s.modCore c (fun k =>
    { k with unit := if k.unit.holder = some t then MatUnit.reset else k.unit })) s).freeStations t) s
  ts.foldl (fun s t => s.modTeam t (fun x => { x with phase := .saved })) s

/-- R78: victims taken one after another until the gangs would fit; none when they never would. -/
def State.pickVictims (s : State) (gi part : Nat) (what : List ToPlace) (chosen : List Nat) : List Nat → Option (List Nat)
  | [] => none
  | g :: gs =>
    if chosen.contains g then s.pickVictims gi part what chosen gs
    else
      let more := s.drawn g
      let all := chosen ++ more
      let p := s.part part
      if !more.all (fun x => s.victimOk x || s.saving x) || decide ((all.map s.areasNeeded).foldl (· + ·) 0 + p.areas.length > p.ctxcnt) then
        s.pickVictims gi part what chosen gs
      else if ((s.without (all ++ (List.range s.gangs.length).filter s.saving)).fitAll gi what).isSome then some all
      else s.pickVictims gi part what all gs

/-- R402: a team takes a save area at its first pre-emption. -/
def State.takeArea (s : State) (part team : Nat) : State :=
  if (s.team team).area.isSome then s
  else
    let p := s.part part
    match s.chooseFree (2 ^ 21 + team) p.ctxcnt p.areas with
    | none => s
    | some n => (s.modTeam team (fun t => { t with area := some n })).modPart part (fun p => { p with areas := p.areas ++ [n] })

/-- R380 step 1: a spine stops issuing; one that waits for a handle, a port or a copy slot stands at its instruction. -/
def State.stopSpine (s : State) (q : Nat) : State :=
  let t : ThreadId := ⟨q, 0⟩
  let ready := fun (s : State) => (s.leaveGath t).modThread t (fun th => { th with stat := .ready })
  match (s.thread t).stat with
  | .gathered => ready (s.standHere t)
  | .parked (.handle op) => ready (s.unwait t op)
  | .parked .port | .parked .copySlot | .held => ready s
  | _ => s.leaveGath t

/-- R78, R380: the save of a gang begins. -/
def State.startSave (s : State) (part : Nat) (g : Nat) : State :=
  let ts := (s.gang g).teams.filter (fun t => !(s.team t).ended)
  let s := ts.foldl (fun s t => (s.takeArea part t).modTeam t (fun x => { x with phase := .saving, movedOut := false, unitOut := [] })) s
  let s := ts.foldl (fun s t => (s.team t).quires.foldl (fun s q => s.modQuire q (fun x => { x with movedOut := false })) s) s
  let s := ts.foldl (fun s t => s.stopSpine (s.team t).spine) s
  (s.gangLive g).foldl (fun s t => s.preemptThread t) s

/-- R78: the distributor chooses victims for gangs that it cannot place. -/
def State.selectVictims (s : State) (gi part : Nat) (what : List ToPlace) : State :=
  let busy := (List.range s.gangs.length).filter s.saving
  if (s.fitAll gi what).isSome || ((s.without busy).fitAll gi what).isSome then s
  else match s.pickVictims gi part what [] (s.candidates part (s.grid gi).record.prio) with
    | none => s
    | some vs => vs.eraseDups.foldl (fun s g => if s.saving g then s else s.startSave part g) s

/-! ### Replay of placements (R333, R391) -/

/-- R391: carry out a placement of a grid in the distributor's order, hold it, or kill the grid. -/
def State.gatedGrid (s : State) (gi src : Nat) (k : State → State) : State :=
  let g := s.grid gi
  let p := s.part g.part
  let mine := p.log.filter (fun e => e.1 == distPoint)
  match if g.record.replay then p.replay.toNat else 0, mine with
  | 1, _ => k (s.modPart g.part (fun p => { p with log := p.log ++ [(distPoint, src, 0)] }))
  | 2, [] => (s.gangsOf gi).foldl (fun s g => s.addKill g 0x83) s
  | 2, e :: es =>
    if e.2.1 = src then k (s.modPart g.part (fun p => { p with log := p.log.eraseP (fun e => e.1 == distPoint) }))
    else if es.any (fun e => e.2.1 == src) then s
    else (s.gangsOf gi).foldl (fun s g => s.addKill g 0x83) s
  | _, _ => k s

/-- What the replay log records of a placement: the number of the first gang. -/
def State.placeSrc (s : State) (what : List ToPlace) : Nat :=
  match what with
  | .new n :: _ => n
  | .saved g :: _ => (s.gang g).number
  | [] => 0

/-- The cores that a placement takes at the first cores given. -/
def State.placeCores (s : State) (gi : Nat) (fs : List Nat) : List Nat :=
  let r := (s.grid gi).record
  fs.flatMap (fun f => span f (r.gangN * r.coresN))

/-- PLACEMENT_STEP (R73 to R78): the first pending gang, or the whole of a co-resident grid, is placed at the first cores
given, or at those reserved, once lines may leave the L1s of those cores (R14, R383); with no cores given, victims are
chosen. -/
def State.placement (s : State) (part : Nat) (firstCores : List Nat) : State :=
  match s.firstGrid part with
  | none => s
  | some gi =>
    let g := s.grid gi
    let what := s.nextOf gi
    let fs := if g.reserved.isEmpty then firstCores else g.reserved
    if fs.isEmpty then s.selectVictims gi part what
    else if !(s.placeCores gi fs).all s.cleanReady then s
    else match s.placeAll gi what fs with
      | none => s
      | some _ => s.gatedGrid gi (s.placeSrc what) (fun s => match s.placeAll gi what fs with
        | none => s
        | some s => ((s.modGrid gi (fun g => { g with admitted := true, reserved := [] })).report gi g.reportState).settleSpend)

/-- PLACEMENT_STEP; a checkpoint save stops it (R409). -/
def execPlacementStep (part : Nat) (firstCores : List Nat) (s : State) : Host.Outcome State Fault Refusal :=
  event (fun s => if s.runs && !(s.part part).ckSaving then s.placement part firstCores else s) s

/-! ### The units of a saved gang (R380, R383) -/

/-- A request of a gang is on its way, but for those whose reply may come during the save (R384). -/
def State.gangSends (s : State) (g : Nat) : Bool :=
  s.net.any (fun r => (match r.kind with | .monitor .. | .nred .. => false | _ => true) &&
    r.items.any (fun it => s.gangOf it.thread.quire == g))

/-- R380, R383: every thread of the gang has ended its save, nothing of it is under way (a granted CARVE among them), and lines may leave the L1s of its
cores. -/
def State.gangSaved (s : State) (g : Nat) : Bool :=
  let x := s.gang g
  let ts := x.teams.filter (fun t => !(s.team t).ended)
  !ts.isEmpty && x.resident && !x.dead && ts.all (fun t => (s.team t).phase == .saving && (s.team t).carving.isEmpty) &&
  (s.gangLive g).all (fun t => (s.thread t).stat == .saved) &&
  ts.all (fun t => !(s.thread ⟨(s.team t).spine, 0⟩).live || (s.thread ⟨(s.team t).spine, 0⟩).stat == .ready) &&
  ts.all (fun t => (s.team t).cores.all (fun c => !(s.core c).copies.any (fun y => y.team == t) && !(s.core c).unit.ops.any (fun y => y.team == t))) &&
  !s.ops.any (fun o => s.gangOf o.quire == g && (match o.kind with | .context .. => true | _ => false)) &&
  !s.gangSends g && ts.all (fun t => (s.team t).cores.all s.cleanReady)

/-- PREEMPT_UNITS_FREE (R380, R383). -/
def State.freeSaved (s : State) (g : Nat) : State :=
  let ts := (s.gang g).teams.filter (fun t => !(s.team t).ended)
  let s := ts.foldl (fun s t => (s.team t).cores.foldl (fun s c => s.cleanDrop c) s) s
  let s := (s.without [g]).modGang g (fun x => { x with resident := false })
  let s := ts.foldl (fun s t => (s.team t).quires.foldl (fun s q => s.modQuire q (fun x => { x with active := false, resolved := 0 })) s) s
  let gi := (s.gang g).grid
  (s.modGrid gi (fun x => { x with saved := x.saved ++ [g] })).report gi (s.grid gi).reportState

/-- PREEMPT_UNITS_FREE. -/
def execPreemptUnitsFree (gang : Nat) (s : State) : Host.Outcome State Fault Refusal :=
  event (fun s => if s.gangSaved gang then s.freeSaved gang else s) s

/-! ### The end of a team (R311) -/

/-- R311: the team has ended: its spine, its quires and its copy commands. -/
def State.teamOver (s : State) (team : Nat) : Bool :=
  let t := s.team team
  !t.ended && (t.phase == .none || t.phase == .saving) && !(s.gang t.gang).dead && !s.kills.any (fun k => k.gang == t.gang) &&
  (t.spine :: t.quires).all (fun q => (s.quire q).threads.all (fun th => th.stat == .retired)) &&
  t.cores.all (fun c => !(s.core c).copies.any (fun x => x.team == team))

/-- R311: a team's contexts, units, stations, slots and areas become free. -/
def State.freeTeam (s : State) (team : Nat) : State :=
  let t := s.team team
  let part := (s.grid (s.gang t.gang).grid).part
  let s := s.freeStations team
  let s := t.cores.foldl (fun s c => s.modCore c (fun k => { k with unit := if k.unit.holder = some team then { k.unit with holder := none } else k.unit })) s
  let s := s.modPart part (fun p => { p with areas := p.areas.filter (fun n => t.area != some n) })
  let s := (s.dropScratch team).modTeam team (fun t => { t with
    ended := true, queues := [], handles := [], desc := [], windows := [], hwait := [], ps := none, area := none,
    carving := [], phase := .none })
  t.cores.foldl State.l1Refit s

/-- TEAM_END (R311). -/
def State.endTeam (s : State) (team : Nat) : State :=
  let g := (s.team team).gang
  let gi := (s.gang g).grid
  let s := (s.freeTeam team).modGrid gi (fun x => { x with ended := x.ended + 1 })
  let s := if (s.gang g).teams.all (fun t => (s.team t).ended) then s.modGang g (fun x => { x with resident := false }) else s
  (s.report gi (s.grid gi).reportState).settleGrid gi

/-- TEAM_END. -/
def execTeamEnd (team : Nat) (s : State) : Host.Outcome State Fault Refusal :=
  event (fun s => if s.teamOver team then s.endTeam team else s) s

end Sys2Proof.Machine
end

