-- ==== Sys2Proof/Machine/Reliability.lean ====
section
/-! DEFINITION. Uncorrectable errors, kills and relaunches, debug halt, checkpoint, and compulsory checked execution (chapters
15 and 16). -/

namespace Sys2Proof.Machine

/-! ### A kill (R386) -/

/-- A thread belongs to a gang. -/
def State.ofGang (s : State) (g : Nat) (t : ThreadId) : Bool := s.gangOf t.quire == g

/-- R274: a request of a gang's threads loses their items; one with none left goes. Record writes of applied puts stay (R360),
and so do write-backs of lines. -/
def State.dropItems (s : State) (g : Nat) (r : Req) : Option Req :=
  if r.kind = .record ∨ r.kind = .writeback ∨ r.items.isEmpty then some r
  else
    let left := r.items.filter (fun it => !s.ofGang g it.thread)
    if left.isEmpty then none else some { r with items := left }

/-- R386, R360, R293: what a gang has outstanding is discarded. Dirty bytes of its lines in an L1, and copies there that its dropped
write-throughs had updated, stay: the spec does not say whether they are unperformed (log entry 102). -/
def State.discard (s : State) (g : Nat) : State :=
  let mine := s.ofGang g
  let ts := (s.gang g).teams
  let runs := s.cores.flatMap (fun k => (k.unit.ops.filter (fun r => ts.contains r.team)).map (·.id))
  let bops := (s.bagOps.filter (fun b => s.gangOf b.quire == g)).map (·.id)
  let reqs := (s.net.filter (fun r => r.items.any (fun it => mine it.thread))).map (·.id)
  let seen := s.watch
  let drains := s.cores.zipIdx.flatMap (fun k => (k.1.unit.ops.filter (fun r => ts.contains r.team && r.started)).map (fun r => (k.2, r)))
  let s := drains.foldl (fun s x => s.drainSome x.1 x.2) { s with watch := s.watch.filter (fun w => !runs.contains w.owner) }
  let s := (seen.filter (fun w => runs.contains w.owner)).foldl (fun s w => s.placeFree w.place w.hits) s
  { s with
    ops := s.ops.filterMap (fun o =>
      let left := o.threads.filter (fun t => !mine t)
      if left.isEmpty then none else some { o with threads := left }),
    net := s.net.filterMap (s.dropItems g),
    bagOps := s.bagOps.filter (fun b => !bops.contains b.id),
    ctrls := s.ctrls.map (fun k => { k with bagq := k.bagq.filter (fun i => !bops.contains i) }),
    cores := s.cores.map (fun k => { k with
      copies := k.copies.filter (fun x => !ts.contains x.team),
      walks := k.walks.map (fun w => { w with waiters := w.waiters.filter (fun x => !mine x.1) }),
      unit := { k.unit with ops := k.unit.ops.filter (fun r => !ts.contains r.team) } }),
    slices := s.slices.map (fun v => { v with
      monitors := v.monitors.filter (fun m => m.gang != g),
      rounds := (v.rounds.map (fun r => { r with arrivals := r.arrivals.filter (fun a => !reqs.contains a.2.2) })).filter (fun r => !r.arrivals.isEmpty) }),
    gaths := s.gaths.map (fun x => { x with members := x.members.filter (fun t => !mine t) }),
    grids := s.grids.map (fun x => { x with barriers := x.barriers.map (fun b => { b with arrived := b.arrived.filter (fun t => !mine t) }) }) }

/-- R386, R318: the threads of a gang stop, and its units are freed; spines that wait for a place in flight try again. -/
def State.stopGang (s : State) (g : Nat) : State :=
  let ts := (s.gang g).teams
  let s := ((ts.map (fun t => (s.team t).cores.headD 0)).eraseDups).foldl State.wakeSpines (s.discard g)
  let qs := ts.flatMap (fun t => (s.team t).spine :: (s.team t).quires)
  let s := qs.foldl (fun s q => s.modQuire q (fun x => { x with
    active := false, threads := x.threads.map (fun th => if th.stat = .retired then th else { th with stat := .dead }) })) s
  let s := ts.foldl (fun s t => if (s.team t).ended then s else s.freeTeam t) s
  { s.modGang g (fun x => { x with dead := true, resident := false, halted := false }) with kills := s.kills.filter (fun k => k.gang != g) }

/-- The number by which a grid's pending list knows a gang. -/
def State.localNumber (s : State) (g : Nat) : Nat :=
  let gr := s.grid (s.gang g).grid
  (s.gang g).number - gr.team0 / gr.record.gangN

/-- One more kill of a gang number (R387). -/
def Grid.countKill (g : Grid) (n : Nat) : Grid := { g with kills := (n, g.killsOf n + 1) :: g.kills.filter (fun x => x.1 != n) }

/-! ### Relaunch, or the end of the grid (R387, R334) -/

/-- Every gang of a grid that is not dead stops. -/
def State.stopAll (s : State) (gi : Nat) : State := (s.gangsOf gi).foldl State.stopGang s

/-- R387, R404, R407, R412: a kill ends a grid: event 3 with its cause, none for LOST or once the device is lost; and a REPORT where a packet brought it. -/
def State.endGrid (s : State) (gi cause : Nat) : State :=
  let s := s.stopAll gi
  let g := s.grid gi
  let s := s.modGrid gi (fun g => { g with dead := true, reported := true, pending := [], saved := [], reserved := [] })
  (if cause = 0x85 || s.dev.fatal then s else s.putEvent g.part 3 g.number cause).report gi 4

/-- R334, R386, R387: the whole grid is relaunched from its retained record. -/
def State.relaunchGrid (s : State) (gi : Nat) : State :=
  let gs := s.gangsOf gi
  let running := fun (s : State) (g : Nat) => (s.gang g).teams.any (fun t => !(s.team t).ended)
  let s := gs.foldl (fun s g =>
    let n := s.localNumber g
    let hit := running s g
    (s.stopGang g).modGrid gi (fun x => if hit then x.countKill n else x)) s
  let s := s.modGrid gi (fun g => { g with
    pending := List.range (g.record.teams / g.record.gangN), saved := [], count := g.record.teams, max := g.record.maxTeams,
    status := 0, ended := 0, creates := false, admitted := false, relaunch := g.relaunch + 1,
    barriers := List.replicate 4 Barrier.reset })
  s.report gi (s.grid gi).reportState

/-- R387: one gang is relaunched: behind the gangs relaunched before it, ahead of every other pending team of its grid. -/
def State.relaunchGang (s : State) (g : Nat) : State :=
  let gi := (s.gang g).grid
  let n := s.localNumber g
  let gone := ((s.gang g).teams.filter (fun t => (s.team t).ended)).length
  let s := (s.stopGang g).modGrid gi (fun x =>
    let front := x.pending.takeWhile x.relaunched
    { x with
      pending := front ++ n :: x.pending.drop front.length, saved := x.saved.filter (· != g), ended := x.ended - gone,
      relaunches := (n, ((x.relaunches.find? (fun y => y.1 == n)).map (·.2)).getD 0 + 1) :: x.relaunches.filter (fun y => y.1 != n) })
  s.report gi (s.grid gi).reportState

/-- R386 to R388, R408: a kill is carried out. -/
def State.carryKill (s : State) (g cause : Nat) : State :=
  let gi := (s.gang g).grid
  let n := s.localNumber g
  let gr := s.grid gi
  let again := (cause == 0x17 || cause == 0x80) && gr.multi == .none
  if !again then s.endGrid gi cause
  else if gr.killsOf n ≥ 3 then s.endGrid gi cause
  else if gr.record.cor || gr.creates then
    if (s.gangsOf gi).any (fun x => decide (gr.killsOf (s.localNumber x) ≥ 3)) then s.endGrid gi 0x82 else s.relaunchGrid gi
  else (s.modGrid gi (fun x => x.countKill n)).relaunchGang g

/-- GANG_KILL (R386). -/
def execGangKill (gang : Nat) (s : State) : Host.Outcome State Fault Refusal :=
  event (fun s => match s.kills.find? (fun k => k.gang == gang) with
    | some k => if (s.gang gang).dead then { s with kills := s.kills.filter (fun k => k.gang != gang) } else s.carryKill gang k.cause
    | none => s) s

/-! ### The death of a plane (R213, R217, R412) -/

/-- R217, R412: the last plane has died: every gang is killed with cause LOST, whatever kill was pending for it; a grid that has no
gang on the device ends with that cause at once; and the host gets event 5 in every ring. -/
def State.deviceLost (s : State) : State :=
  let s := (List.range s.gangs.length).foldl (fun s g => s.addKill g 0x85) { s with kills := [] }
  let s := ((List.range s.grids.length).filter (fun i => !(s.grid i).dead && !(s.grid i).reported && (s.gangsOf i).isEmpty)).foldl
    (fun s i => s.endGrid i 0x85) s
  let s := (List.range 8).foldl (fun s p => s.putEvent p 5 0 0) s
  { s with dev := { s.dev with fatal := true } }.emit .fatal

/-- PLANE_DECLARE_DEAD (R213, R217). -/
def execPlaneDeclareDead (plane : Nat) (s : State) : Host.Outcome State Fault Refusal :=
  event (fun s =>
    if s.fabric.alive.getLsbD plane && decide (plane < 4) then
      let alive := s.fabric.alive &&& ~~~ BitVec.twoPow 4 plane
      let s := { s with fabric := { s.fabric with alive := alive, busy := true, reported := s.fabric.reported &&& alive },
                        net := s.net.map (fun r => r.onDead plane) }
      if alive = 0 then s.deviceLost else s
    else s) s

/-! ### Uncorrectable errors (R385) -/

/-- A line is poisoned until a write covers it whole. -/
def State.poisonLine (s : State) (line : Nat) : State := { s with poison := line :: s.poison.filter (· != line) }

/-- UCE_CONSUME (R385): a gang consumes data that holds an uncorrectable error. -/
def execUceConsume (gang line : Nat) (s : State) : Host.Outcome State Fault Refusal :=
  event (fun s =>
    if (s.gang gang).resident && !(s.gang gang).dead && s.partOfPa (line * 128) == (s.grid (s.gang gang).grid).part then
      (s.poisonLine line).addKill gang 0x80
    else s) s

/-- UCE_UNCONSUMED (R385, R404): an error that no gang consumes is reported with event 4 to the line's partition. -/
def execUceUnconsumed (line : Nat) (s : State) : Host.Outcome State Fault Refusal :=
  event (fun s =>
    let part := s.partOfPa (line * 128)
    if part < 8 then (s.poisonLine line).putEvent part 4 0 (line * 128) else s) s

/-! ### Debug halt (R390, R402) -/

/-- R402: the gang that a value of DBG and a grid number name. -/
def State.gangNamed (s : State) (part : Nat) (grid value : Word) : Option Nat :=
  (List.range s.gangs.length).find? (fun g =>
    let x := s.gang g
    let gr := s.grid x.grid
    !x.dead && gr.part == part && !gr.dead && gr.number == grid && x.number == (value.extractLsb' 4 24).toNat)
/-- R402: the gang that DBG and DBG_GRID name. -/
def State.dbgGang (s : State) (part : Nat) (value : Word) : Option Nat := s.gangNamed part (s.part part).dbgGrid value

/-- R390, R410: a halt; one requested during a checkpoint save is held, with the grid that DBG_GRID names then. -/
def State.dbgHalt (s : State) (part : Nat) (value : Word) : State :=
  if (s.part part).ckSaving && (s.part part).ckCtl.getLsbD 31 then s.modPart part (fun p => { p with ckHalts := p.ckHalts ++ [(value, p.dbgGrid)] })
  else match s.dbgGang part value with | some g => s.haltGang g | none => s

/-- R390: a resume. -/
def State.dbgResume (s : State) (part : Nat) (value : Word) : State :=
  match s.dbgGang part value with | some g => s.modGang g (fun x => { x with halted := false }) | none => s

/-- R386: a kill by the host's debugger. -/
def State.dbgKill (s : State) (part : Nat) (value : Word) : State :=
  match s.dbgGang part value with | some g => s.addKill g 0x81 | none => s

/-- R402: a write of DBG: the enable and the gang number are stored, and each command bit acts. -/
def State.writeDbg (s : State) (part : Nat) (value : Word) : State :=
  let s := s.modPart part (fun p => { p with dbg := value &&& 0x0FFFFFF1 })
  let s := if value.getLsbD 1 then s.dbgHalt part value else s
  let s := if value.getLsbD 2 then s.dbgResume part value else s
  if value.getLsbD 3 then s.dbgKill part value else s

/-- DBG_HALT (R390): a DBG write with the halt bit. -/
def execDbgHalt (part : Nat) (value : Word) (s : State) : Host.Outcome State Fault Refusal :=
  event (fun s => if value.getLsbD 1 && decide (part < 8) then s.writeDbg part value else s) s
/-- DBG_RESUME (R390): a DBG write with the resume bit. -/
def execDbgResume (part : Nat) (value : Word) (s : State) : Host.Outcome State Fault Refusal :=
  event (fun s => if value.getLsbD 2 && decide (part < 8) then s.writeDbg part value else s) s
/-- DBG_KILL (R390): a DBG write with the kill bit. -/
def execDbgKill (part : Nat) (value : Word) (s : State) : Host.Outcome State Fault Refusal :=
  event (fun s => if value.getLsbD 3 && decide (part < 8) then s.writeDbg part value else s) s

/-! ### Checkpoint (R409, R410) -/

/-- Gangs of a partition that are resident. -/
def State.residentGangs (s : State) (part : Nat) : List Nat :=
  (List.range s.gangs.length).filter (fun g => let x := s.gang g; x.resident && !x.dead && (s.grid x.grid).part == part)

/-- R410: the reason why a save is refused, with the gang number of a halted gang and its grid. -/
def State.ckRefusal (s : State) (part : Nat) : Option (Nat × Word) :=
  let gs := s.residentGangs part
  match gs.find? (fun g => (s.gang g).halted) with
  | some g => some (1 + (s.gang g).number * 2 ^ 32, (s.grid (s.gang g).grid).number)
  | none =>
    if (s.part part).replay = 2 then some (2, 0)
    else if (gs.map s.areasNeeded).foldl (· + ·) 0 + (s.part part).areas.length > (s.part part).ctxcnt then some (3, 0)
    else none

/-- R409 step 1: resident gangs that are not being saved begin their save; one that is being restored begins after it. -/
def State.ckPreempt (s : State) (part : Nat) : State :=
  (s.residentGangs part).foldl (fun s g => if s.victimOk g then s.startSave part g else s) s

/-- CK_CTL written (R409, R410). Both commands at once, or a write while busy, do nothing. -/
def State.writeCk (s : State) (part : Nat) (value : Word) : State :=
  let p := s.part part
  let save := value.getLsbD 0
  let restore := value.getLsbD 1
  if p.ckCtl.getLsbD 31 || (save && restore) then s
  else
    let s := if value.getLsbD 30 then s.modPart part (fun p => { p with ckCtl := p.ckCtl &&& 0xBFFFFFFF }) else s
    if save then
      match s.ckRefusal part with
      | some (data, number) => (s.modPart part (fun p => { p with ckCtl := p.ckCtl ||| 0x40000000 })).putEvent part 7 number data
      | none => (s.modPart part (fun p => { p with ckCtl := (p.ckCtl &&& 0x7FFFFFFC) ||| 0x80000001, ckSaving := true })).ckPreempt part
    else if restore then s.modPart part (fun p => { p with ckCtl := (p.ckCtl &&& 0x7FFFFFFC) ||| 0x80000002 })
    else s

/-- CK_SAVE (R409, R410). -/
def execCkSave (part : Nat) (s : State) : Host.Outcome State Fault Refusal :=
  event (fun s => if part < 8 then s.writeCk part 1 else s) s
/-- CK_RESTORE (R409). -/
def execCkRestore (part : Nat) (s : State) : Host.Outcome State Fault Refusal :=
  event (fun s => if part < 8 then s.writeCk part 2 else s) s

/-- An address lies in a partition's memory. -/
def Part.holds (p : Part) (a : Nat) : Bool := p.units.mem.any (fun r => decide (r.1 ≤ a) && decide (a < r.2))

/-- The cores of a partition. -/
def Part.cores (p : Part) : List Nat := p.units.clusters.flatMap (fun c => span (8 * c) 8)

/-- A line as its bank stores it (R392, R393). -/
def State.cipherLine (s : State) (part line : Nat) : List Byte := Crypto.encryptLine (s.lineKey part line) line (s.memBytes (line * 128) 128)

/-- R409 step 2: dirty lines of the partition's cores go back to memory; true when none is left. -/
def State.ckClean (s : State) (part : Nat) : State × Bool :=
  let cs := (s.part part).cores
  if cs.any (fun c => (s.core c).lines.any (fun l => l.dirty != 0)) then (if cs.all s.cleanReady then cs.foldl State.cleanDrop s else s, false)
  else (s.cleanSide part (fun _ => true), !s.net.any (fun r => r.part == part && r.kind != .local_))

/-- The key of a line of a checkpoint. -/
def CkStream.keyOf (x : CkStream) (line : Nat) : BitVec 512 :=
  ((x.pages.find? (fun p => lineWithin p.1 p.2.1 line)).map (·.2.2)).getD x.base
/-- R409 step 3: the 128 bytes that a checkpoint sends for a line. -/
def CkStream.sent (x : CkStream) (line : Nat) : List Byte :=
  ((x.lines.find? (fun y => y.1 == line)).map (·.2)).getD (Crypto.encryptLine (x.keyOf line) line
    ((List.range 128).map (fun i => if x.garbled.any (fun g => g.has line) then Config.freeByte x.tick (line * 128 + i) else 0)))

/-- R409 steps 2 and 3: the bytes of the partition's stacks go to the sink in rising physical order, as ciphertext (log entry 71). -/
def State.ckStream (s : State) (part : Nat) : State :=
  let p := s.part part
  let cells := s.mem.filter (fun c => p.holds c.1)
  let undef := s.undef.filter (fun u => p.holds (u.1 * 128))
  let lines := (cells.map (fun c => lineOf c.1)).eraseDups
  let garbled := s.garbled.filter (fun g => p.holds g.lo)
  let pages := (s.sealedPages.filter (fun x => p.holds x.1)).map (fun x => (x.1, x.2.1, s.slotKey part x.2.2))
  let base := s.slotKey part 0
  let x : CkStream := {
    sink := p.ckAddr, ranges := sortBy (fun a b => decide (a.1 ≤ b.1)) p.units.mem, lines := (lines ++ undef.map (·.1)).eraseDups.map (fun l => (l, s.cipherLine part l)),
    pages := pages, base := base, garbled := garbled, tick := s.tick }
  let s := (lines.foldl (fun s l => s.ask l 6) s).emit (.checkpoint part x)
  s.modPart part (fun x => { x with ckImage := some {
    mem := cells, undef := undef, poison := s.poison.filter (fun l => p.holds (l * 128)), saves := s.saves.filter (fun r => p.holds r.addr),
    garbled := garbled, forms := lines.map (fun l => (l, s.lineKey part l)), pages := pages, base := base } })

/-- The bytes of two lists of cells, the first listed zero within the partition. -/
def mergeCells (base image : List Host.Cell) : List Host.Cell := image.foldl (fun m c => cellSet m c.1 c.2) base

/-- The key under which an image holds a line. -/
def Image.keyOf (i : Image) (line : Nat) : BitVec 512 := ((i.pages.find? (fun p => lineWithin p.1 p.2.1 line)).map (·.2.2)).getD i.base

/-- R393, R409: unwritten lines of pages whose key is another than at the save come back as ciphertext of that key. -/
def State.garbleSince (s : State) (part : Nat) (i : Image) : State :=
  (i.pages.map (fun x => (x.1, x.2.1)) ++ (s.sealedPages.filter (fun x => (s.part part).holds x.1)).map (fun x => (x.1, x.2.1))).eraseDups.foldl
    (fun s x => if i.keyOf (lineOf x.1) = s.lineKey part (lineOf x.1) then s else s.garble x.1 x.2) s

/-- R409: the saved lines come back as the ciphertext that went out; without an image the memory stays as it is (log entry 20). -/
def State.ckLoad (s : State) (part : Nat) : State :=
  let p := s.part part
  match p.ckImage with
  | none => s
  | some i =>
    let s : State := ((i.mem.map (fun c => lineOf c.1)).eraseDups).foldl (fun s l => s.ask l 6) s
    let s : State := { s with
      mem := mergeCells (s.mem.filter (fun c => !p.holds c.1)) i.mem,
      garbled := i.garbled ++ s.garbled.filter (fun g => !p.holds g.lo),
      undef := i.undef ++ s.undef.filter (fun u => !p.holds (u.1 * 128)),
      poison := i.poison ++ s.poison.filter (fun l => !p.holds (l * 128)),
      saves := i.saves ++ s.saves.filter (fun r => !p.holds r.addr) }
    i.forms.foldl (fun s x => s.recrypt x.1 (some x.2) (s.lineKey part x.1)) (s.garbleSince part i)

/-- CK_DONE (R409, R410): the transfer goes on to its end: a save once no gang is resident and every cache is clean. -/
def State.ckEnd (s : State) (part : Nat) : State :=
  let p := s.part part
  let idle := fun (p : Part) => { p with ckCtl := p.ckCtl &&& 0x7FFFFFFC }
  if !p.ckCtl.getLsbD 31 then s
  else if p.ckCtl.getLsbD 0 then
    if !(s.residentGangs part).isEmpty then s.ckPreempt part
    else
      let x := s.ckClean part
      if !x.2 then x.1
      else
        let halts := p.ckHalts
        let s := (x.1.ckStream part).modPart part (fun p => { idle p with ckHalts := [] })
        halts.foldl (fun s h => match s.gangNamed part h.2 h.1 with | some g => s.haltGang g | none => s) s
  else (s.ckLoad part).modPart part (fun p => { idle p with ckSaving := false })

/-- CK_DONE. -/
def execCkDone (part : Nat) (s : State) : Host.Outcome State Fault Refusal := event (fun s => s.ckEnd part) s

/-! ### Compulsory checked execution (R389) -/

/-- CHECKED_EXECUTION_COMPULSORY (R313, R389). -/
def execCheckedExecutionCompulsory (part : Nat) (s : State) : Host.Outcome State Fault Refusal :=
  event (fun s => { s.modPart part (fun p => { p with compulsory := true }) with
    grids := s.grids.map (fun g => if g.part = part then { g with chk := true } else g) }) s

end Sys2Proof.Machine
end

