-- ==== Sys2Proof/Machine/Memctl.lean ====
section
/-! DEFINITION. Memory controllers (R188 to R193) and TLB invalidation by the host (R405). -/

namespace Sys2Proof.Machine

/-! ### Where a line lies (R186) -/

/-- R186, R339: the bank of a channel: scheme 7 fixes it for a frame; elsewhere the security processor does. -/
def Part.bankOf (p : Part) (il : BitVec 3) (a : Nat) : Nat :=
  if il = 7 then a / (65536 * (32 * p.units.hbm.length)) % 32 else Config.bankOf (lineOf a) % 32

/-- The controller, pseudo-channel and bank of a request: a channel is two pseudo-channels of 16 banks (R19). -/
def State.memHome (s : State) (m : MemReq) : Nat × Nat × Nat :=
  let a := m.line * 128
  let p := s.part (s.partOfPa a)
  let il := s.schemeOf a
  let c := p.channelOf il (2 ^ m.size) a
  let bank := p.bankOf il a
  (c.1, 2 * c.2 + bank / 16, bank % 16)

/-! ### Controllers -/

/-- A pseudo-channel with nothing queued. -/
def Channel.empty : Channel :=
  { queues := List.replicate 4 [], holds := List.replicate 4 [], credit := [0, 0, 0, 0], postponed := [], alerts := [], away := [],
    arrived := 0, clock := 0 }

/-- A pseudo-channel of a controller. -/
def Ctrl.channel (k : Ctrl) (pc : Nat) : Channel := ((k.channels.find? (fun c => c.1 == pc)).map (·.2)).getD Channel.empty

/-- Update a pseudo-channel. -/
def State.modChannel (s : State) (ctrl pc : Nat) (f : Ctrl → Channel → Channel) : State :=
  s.modCtrl ctrl (fun k => { k with channels := (pc, f k (k.channel pc)) :: k.channels.filter (fun c => c.1 != pc) })

/-- A controller, pseudo-channel and bank exist (R19, R189). -/
def chanOk (ctrl pc bank : Nat) : Bool := decide (ctrl < 12) && decide (pc < 64) && decide (bank < 16)

/-- The entry that a request becomes as it arrives now (R189). -/
def Channel.entry (c : Channel) (k : Ctrl) (m : MemReq) (bank : Nat) : McEntry :=
  { seq := c.arrived, due := c.clock + (k.budget.getD m.cls 0).toNat, cls := m.cls, line := m.line, bank := bank }

/-- R192: a request enters its queue or the hold; none where both are full: the controller does not accept it. -/
def Channel.arrive (c : Channel) (k : Ctrl) (m : MemReq) (bank : Nat) : Option Channel :=
  let v := (k.svc.getD m.cls 0).toNat
  let e := c.entry k m bank
  if (c.queues.getD v []).length < 64 then some { c with queues := c.queues.modify v (· ++ [e]), arrived := c.arrived + 1 }
  else if (c.holds.getD v []).length < 256 then some { c with holds := c.holds.modify v (· ++ [e]), arrived := c.arrived + 1 }
  else none

/-- R189, R192: the first request to a line that the slices and caches keep arrives at its pseudo-channel, when that is the one
named; one that is not accepted stays where it is. -/
def State.memArrive (s : State) (h : Nat × Nat × Nat) (line : Nat) : State :=
  match s.memq.find? (fun m => m.line == line) with
  | none => s
  | some m =>
    let left := { s with memq := s.memq.erase m }
    if s.memHome m ≠ h then s
    else if s.partOfPa (line * 128) ≥ 8 then left
    else match ((s.ctrls.getD h.1 Ctrl.reset).channel h.2.1).arrive (s.ctrls.getD h.1 Ctrl.reset) m h.2.2 with
      | none => s
      | some c => left.modChannel h.1 h.2.1 (fun _ _ => c)

/-- MC_REQUEST_ARRIVE (R189, R192). -/
def execMcRequestArrive (ctrl pc bank line : Nat) (s : State) : Host.Outcome State Fault Refusal := event (fun s => s.memArrive (ctrl, pc, bank) line) s

/-- Table 8.8: weight of a service class; 0 reads as 1. -/
def Ctrl.weight (k : Ctrl) (v : Nat) : Nat := let w := (k.wgt.extractLsb' (8 * v) 8).toNat; if w = 0 then 1 else w

/-- Everything that a pseudo-channel has queued or holds. -/
def Channel.entries (c : Channel) : List McEntry := c.queues.flatten ++ c.holds.flatten

/-- R189, R193: an entry may be served: its bank is available, and no earlier request to its line waits. -/
def Channel.eligible (c : Channel) (e : McEntry) : Bool :=
  !c.away.any (fun x => x.1 == e.bank) && !c.entries.any (fun x => x.line == e.line && decide (x.seq < e.seq))

/-- The entries of a service class that may be served now. -/
def Channel.servable (c : Channel) (v : Nat) : List McEntry := (c.queues.getD v []).filter c.eligible

/-- R189 step 2: the class that a command slot goes to: the first with a request to serve and a turn left; turns are dealt anew
when no such class is left. -/
def Channel.turn (k : Ctrl) (c : Channel) : Option (Nat × List Nat) :=
  let full := (List.range 4).filter (fun v => !(c.servable v).isEmpty)
  let deal := (List.range 4).map k.weight
  match full.find? (fun v => c.credit.getD v 0 != 0), full with
  | some v, _ => some (v, c.credit.modify v (· - 1))
  | none, v :: _ => some (v, deal.modify v (· - 1))
  | none, [] => none

/-- R189 step 3: the request served: one whose deadline has passed first, then the earliest deadline, ties by arrival. -/
def served (clock : Nat) (q : List McEntry) : Option McEntry :=
  let late := q.filter (fun e => decide (e.due < clock))
  let pool := if late.isEmpty then q else late
  pool.foldl (fun b e => match b with | none => some e | some x => if e.due < x.due then some e else b) none

/-- A count that stops at its largest value (Table 8.9). -/
def countUp (w : Word) : Word := if w = 0xFFFFFFFF then w else w + 1

/-- R192: the first held request of a class enters its queue as an entry frees; its bound and deadline count from there. -/
def Channel.release (k : Ctrl) (v : Nat) (c : Channel) : Channel :=
  match c.holds.getD v [] with
  | [] => c
  | e :: rest =>
    { c with holds := c.holds.set v rest, queues := c.queues.modify v (· ++ [{ e with due := c.clock + (k.budget.getD e.cls 0).toNat }]) }

/-! ### Refresh and alerts (R189, R193) -/

/-- Refreshes postponed for a bank. -/
def Channel.held (c : Channel) (bank : Nat) : Nat := ((c.postponed.find? (fun x => x.1 == bank)).map (·.2)).getD 0
/-- Set that number. -/
def Channel.setHeld (c : Channel) (bank n : Nat) : Channel :=
  { c with postponed := (if n = 0 then [] else [(bank, n)]) ++ c.postponed.filter (fun x => x.1 != bank) }

/-- R193: a bank is unavailable for `n` clocks, at most 2.6 µs of the memory clock. -/
def Channel.close (c : Channel) (bank n : Nat) : Channel :=
  let old := ((c.away.find? (fun x => x.1 == bank)).map (·.2)).getD 0
  { c with away := (bank, max old (c.clock + n % 6501)) :: c.away.filter (fun x => x.1 != bank) }

/-- R193: the handling of the first alert starts: eight postponed refreshes go first, and MC_ABO counts the case. -/
def State.startAlert (s : State) (ctrl pc : Nat) : State :=
  let c := (s.ctrls.getD ctrl Ctrl.reset).channel pc
  match c.alerts with
  | [] => s
  | bank :: _ =>
    let s1 := s.modChannel ctrl pc (fun _ c => (if c.held bank ≥ 8 then c.setHeld bank 0 else c).close bank (Config.freeNat s.tick (2 ^ 26 + ctrl * 1024 + pc * 16 + bank)))
    if c.held bank ≥ 8 then s1.modCtrl ctrl (fun k => { k with abo := countUp k.abo }) else s1

/-- Banks whose refresh or handling is over by a pseudo-channel's clock serve again. -/
def Channel.reopen (c : Channel) : Channel := { c with away := c.away.filter (fun x => decide (c.clock < x.2)) }

/-- R193: with the first alert handled, the next one starts. -/
def State.nextAlert (s : State) (ctrl pc : Nat) : State :=
  let c := (s.ctrls.getD ctrl Ctrl.reset).channel pc
  match c.alerts with
  | [] => s
  | bank :: rest =>
    if c.away.any (fun x => x.1 == bank) then s
    else (s.modChannel ctrl pc (fun _ c => { c with alerts := rest })).startAlert ctrl pc

/-- R189 step 1: a bank whose postponed refreshes a command slot takes up, as a free choice among them. -/
def State.catchUp (s : State) (ctrl pc : Nat) : State :=
  s.modChannel ctrl pc (fun _ c => match c.postponed[Config.freeNat s.tick (2 ^ 25 + ctrl * 64 + pc)]? with
    | some (bank, n) => if c.away.any (fun x => x.1 == bank) then c
        else (c.setHeld bank (n - 1)).close bank (Config.freeNat s.tick (2 ^ 27 + ctrl * 64 + pc))
    | none => c)

/-- R189 steps 2 and 3, R190, R192: a command slot goes to a request. -/
def State.serveSlot (s : State) (ctrl pc : Nat) : State :=
  let k := s.ctrls.getD ctrl Ctrl.reset
  let c := k.channel pc
  match c.turn k with
  | none => s
  | some (v, credit) =>
    match served c.clock (c.servable v) with
    | none => s
    | some e =>
      let s := s.modChannel ctrl pc (fun k c => ({ c with credit := credit, queues := c.queues.modify v (fun q => q.erase e) }).release k v)
      if e.due < c.clock then s.modCtrl ctrl (fun k => { k with miss := k.miss.modify e.cls countUp }) else s

/-- R189, R190, R192, R193: one command slot: refresh and refresh management first, then a request. -/
def State.commandSlot (s : State) (ctrl pc : Nat) : State :=
  let step := 1 + Config.freeNat s.tick (ctrl * 64 + pc)
  ((((s.modChannel ctrl pc (fun _ c => ({ c with clock := c.clock + step }).reopen)).nextAlert ctrl pc).catchUp ctrl pc).serveSlot ctrl pc)

/-- MC_COMMAND_SLOT (R189, R190). -/
def execMcCommandSlot (ctrl pc : Nat) (s : State) : Host.Outcome State Fault Refusal :=
  event (fun s => if chanOk ctrl pc 0 then s.commandSlot ctrl pc else s) s

/-- REFRESH_DUE (R189, R193): a due refresh is issued, or postponed while fewer than eight are; which is a free choice. -/
def execRefreshDue (ctrl pc bank : Nat) (s : State) : Host.Outcome State Fault Refusal :=
  event (fun s => if chanOk ctrl pc bank then s.modChannel ctrl pc (fun _ c =>
      let salt := ctrl * 1024 + pc * 16 + bank
      if c.held bank < 8 ∧ Config.freeBool s.tick salt then c.setHeld bank (c.held bank + 1) else c.close bank (Config.freeNat s.tick (2 ^ 24 + salt)))
    else s) s

/-- ACTIVATION_ALERT (R193): an alert joins those of its pseudo-channel, which are handled one at a time. -/
def execActivationAlert (ctrl pc bank : Nat) (s : State) : Host.Outcome State Fault Refusal :=
  event (fun s =>
    if chanOk ctrl pc bank then
      let first := ((s.ctrls.getD ctrl Ctrl.reset).channel pc).alerts.isEmpty
      let s := s.modChannel ctrl pc (fun _ c => { c with alerts := c.alerts ++ [bank] })
      if first then s.startAlert ctrl pc else s
    else s) s

/-- Table 8.7: MC_QOSk written; a BUDGET of 0 is stored as 65,535. -/
def Ctrl.writeQos (n : Nat) (w : Word) (k : Ctrl) : Ctrl :=
  let b := w.extractLsb' 0 16
  { k with svc := k.svc.set n (w.extractLsb' 16 2), budget := k.budget.set n (if b = 0 then 0xFFFF else b) }

/-- MC_QOS_WRITE (R188). -/
def execMcQosWrite (ctrl k : Nat) (value : Word) (s : State) : Host.Outcome State Fault Refusal :=
  event (fun s => if ctrl < 12 ∧ k < 8 then s.modCtrl ctrl (Ctrl.writeQos k value) else s) s

/-! ### TLB invalidation (R405) -/

/-- An entry that an invalidation names: every one, or those that map a block. -/
def tlbNamed (v : DWord) (e : TlbEntry) : Bool :=
  v.getLsbD 0 || decide (e.page = (v.extractLsb' 32 32).toNat / 2 ^ (e.size - 16))

/-- A core drops the entries that an invalidation names. -/
def State.tlbDrop (s : State) (v : DWord) (c : Nat) : State :=
  s.modCore c (fun k => { k with tlb := k.tlb.filter (fun e => !tlbNamed v e), micro := k.micro.map (fun l => l.filter (fun e => !tlbNamed v e)) })

/-- TLBINV_DONE (R405): every core of the partition has finished; bit 1 clears. -/
def State.tlbFinish (s : State) (part : Nat) : State :=
  let p := s.part part
  if p.tlbinv.getLsbD 1 then
    (p.cores.foldl (fun s c => s.tlbDrop p.tlbinv c) s).modPart part (fun p => { p with tlbinv := p.tlbinv &&& ~~~ (2 : DWord) })
  else s

/-- R183, R405: the walks of a core go on by some entries: how many a walk has read by now is open (log entry 17). -/
def State.walksCome (s : State) (part c : Nat) : State :=
  s.modCore c (fun k => { k with walks := k.walks.map (fun w =>
    { w with come := s.walkSteps part w.va (Config.freeNat s.tick (2 ^ 28 + c * 2 ^ 20 + w.id) % 5) w.come }) })

/-- R405: TLBINV written: cores drop their entries one by one, in no given order; an invalidation under way is finished
first. A walk in progress keeps what it has read. -/
def State.writeTlbinv (s : State) (part : Nat) (v : DWord) : State :=
  let s := s.tlbFinish part
  let s := (s.part part).cores.foldl (fun s c => s.walksCome part c) s
  let s := s.modPart part (fun p => { p with tlbinv := (v &&& 0xFFFFFFFF00000001) ||| 2 })
  ((s.part part).cores.filter (fun c => Config.freeBool s.tick c)).foldl (fun s c => s.tlbDrop v c) s

/-- TLBINV_ALL (R405). -/
def execTlbinvAll (part : Nat) (s : State) : Host.Outcome State Fault Refusal :=
  event (fun s => if part < 8 then s.writeTlbinv part 1 else s) s
/-- TLBINV_BLOCK (R405). -/
def execTlbinvBlock (part va : Nat) (s : State) : Host.Outcome State Fault Refusal :=
  event (fun s => if part < 8 then s.writeTlbinv part (BitVec.ofNat 64 (va / 65536 % 2 ^ 32 * 2 ^ 32)) else s) s
/-- TLBINV_DONE (R405). -/
def execTlbinvDone (part : Nat) (s : State) : Host.Outcome State Fault Refusal := event (fun s => s.tlbFinish part) s

end Sys2Proof.Machine
end

