-- ==== Sys2Proof/Machine/Host.lean ====
section
/-! DEFINITION. The host port, the partition blocks, resets and bring-up, assignment of units, the ports, and launch packets
(chapters 01 and 16). -/

namespace Sys2Proof

/-! ### Assignments of units (R22, Table 1.4) -/

/-- The same members. -/
def sameSet (a b : List Nat) : Bool := a.all b.contains && b.all a.contains
/-- Each of 0 to n − 1 once. -/
def covers (n : Nat) (l : List Nat) : Bool := l.length == n && (List.range n).all l.contains

/-- Table 1.4: an aligned block of slices of a power of two from 8 to 256. -/
def sliceBlock (l : List Nat) : Bool :=
  let n := l.length
  let b := l.foldl min 256
  [8, 16, 32, 64, 128, 256].contains n && b % n == 0 && ((List.range n).map (b + ·)).all l.contains

/-- R7, R19, R186: a partition's memory is divided from its start into 1 GiB blocks, the last of which may be short, and is at most
that of its stacks, 64 GB of 10^9 bytes each. -/
def UnitSet.memOk (u : UnitSet) : Bool :=
  u.mem.all (fun r => decide (r.1 < r.2) && decide (r.2 ≤ 2 ^ 48) && r.1 % 2 ^ 30 == 0 && r.2 % 65536 == 0) &&
  decide ((u.mem.map (fun r => r.2 - r.1)).foldl (· + ·) 0 ≤ u.hbm.length * (64 * 10 ^ 9))

/-- Table 1.4 for one partition that holds units. -/
def UnitSet.ok (u : UnitSet) : Bool := !u.clusters.isEmpty && sliceBlock u.slices && !u.hbm.isEmpty && u.memOk
/-- A partition that holds nothing. -/
def UnitSet.none (u : UnitSet) : Bool := u.clusters.isEmpty && u.slices.isEmpty && u.hbm.isEmpty && u.mem.isEmpty
/-- Two address ranges share no byte. -/
def apart (a b : Nat × Nat) : Bool := decide (a.2 ≤ b.1) || decide (b.2 ≤ a.1)

/-- R22: an assignment keeps every row of Table 1.4: each unit with one partition, and each partition at its minimum. -/
def assignOk (us : List UnitSet) : Bool :=
  decide (us.length ≤ 8) && us.all (fun u => u.none || u.ok) &&
  covers 32 (us.flatMap (·.clusters)) && covers 256 (us.flatMap (·.slices)) && covers 12 (us.flatMap (·.hbm)) &&
  decide ((us.flatMap (·.mem)).Pairwise (fun a b => apart a b = true))

/-- A set of units with its slices in rising order. -/
def UnitSet.sorted (u : UnitSet) : UnitSet := { u with slices := (List.range u.slices.length).map (u.slices.foldl min 256 + ·) }

/-- R23: two assignments of a partition are the same. -/
def UnitSet.same (a b : UnitSet) : Bool :=
  sameSet a.clusters b.clusters && sameSet a.slices b.slices && sameSet a.hbm b.hbm && decide (a.mem = b.mem)

end Sys2Proof

namespace Sys2Proof.Machine

/-! ### Resets and bring-up (R400, R401, R411) -/

/-- R411: a reset of the module. The agenda, the ticks and what was sent outside are the model's own and stay; session numbers,
the draws of partition keys and the resets go on, since each draws or derives anew (R392, R394, R396). -/
def State.moduleReset (s : State) : State :=
  { State.reset with
    tick := s.tick, agenda := s.agenda, upsets := s.upsets, nextId := s.nextId, out := s.out,
    sec := { Sec.reset with
      next := s.sec.next, draws := s.sec.draws + 1, partKeys := List.replicate 8 s.sec.draws, resets := s.sec.resets + 1 } }

/-- WARM_RESET (R411): everything except the port links. -/
def execWarmReset (s : State) : Host.Outcome State Fault Refusal := event State.moduleReset s
/-- COLD_RESET (R411): the whole module; the port links are no state here. -/
def execColdReset (s : State) : Host.Outcome State Fault Refusal := event State.moduleReset s

/-- R401: EN takes effect. -/
def Dev.enables (d : Dev) : Bool :=
  d.ready && (d.featAcc.getD 0 0).getLsbD 0 && (List.range 4).all (fun i => d.featAcc.getD i 0 &&& ~~~ d.featOff.getD i 0 == 0)

/-- R400, R401: a write of DEV_CTL. -/
def State.writeDevCtl (s : State) (value : Word) : State :=
  if value.getLsbD 1 then s.moduleReset
  else if !value.getLsbD 0 then { s with dev := { s.dev with en := false, enok := false } }
  else if s.dev.enables then { s with dev := { s.dev with en := true, enok := true } }
  else { s with dev := { s.dev with en := false } }

/-- DEV_ENABLE (R401). -/
def execDevEnable (value : Word) (s : State) : Host.Outcome State Fault Refusal := event (fun s => s.writeDevCtl value) s

/-! ### Write-back, keys and zeroing (R23, R392, R393) -/

/-- Write-backs and record writes on their way reach their lines at once, in order. -/
def State.settleWrites (s : State) (part : Nat) (sel : Nat → Bool) : State :=
  let mine := s.net.filter (fun r => r.part == part && r.stage != .replied && !r.k && sel r.line &&
    (match r.kind with | .writeback | .record => true | _ => false))
  let s := mine.foldl (fun s r => match r.kind with
    | .writeback => s.mergeLine part r.line r.mask r.data r.prio
    | _ => s.storeItems r) s
  mine.foldl (fun s r => if r.kind = .writeback && r.op = 0 then s.dropReq r.id else s.modReq r.id (fun r => { r with stage := .replied })) s

/-- Every dirty byte of a core's chosen lines is written back, and the lines are dropped. -/
def State.flushCore (s : State) (part : Nat) (sel : Nat → Bool) (c : Nat) : State :=
  ((s.core c).lines.filter (fun l => sel l.line && s.partOfPa (l.line * 128) == part)).foldl (fun s l => s.mergeOut c l) s

/-- R393: lines of chosen slots of a partition. -/
def State.slotLine (s : State) (part : Nat) (sel : Nat → Bool) (line : Nat) : Bool :=
  s.keySlot line != 0 && sel (s.keySlot line) && s.partOfPa (line * 128) == part

/-- R393: slots are unloaded: dirty lines of their pages written back, every copy dropped, and the KEYST bits cleared. -/
def State.unloadSlots (s : State) (part : Nat) (sel : Nat → Bool) : State :=
  let p := s.part part
  let hit := s.slotLine part sel
  let s := s.settleWrites part hit
  let s := p.cores.foldl (fun s c => s.flushCore part hit c) s
  let s := s.cleanSide part hit
  let s := p.units.slices.foldl (fun s sl => s.modSlice sl (fun x => { x with tags := x.tags.filter (fun t => !hit t.1) })) { s with mside := s.mside.filter (fun x => !hit x.line) }
  s.modPart part (fun p => { p with keyst := (List.range 128).foldl (fun k i => if sel i then k &&& ~~~ BitVec.twoPow 128 i else k) p.keyst })

/-- R396: what the boot ROM verifies: the security processor's firmware, and through it the device firmware, each by an
SLH-DSA-SHA2-256s signature over the SHA-256 digest of the image. -/
def firmwareSound (firmware : List SignedImage) : Bool :=
  match firmware with
  | [sp, dev] => Crypto.slh256s.verify Config.bootKey (Crypto.sha256 sp.image) sp.signature &&
      Crypto.slh256s.verify (Config.firmwareKey sp.image) (Crypto.sha256 dev.image) dev.signature
  | _ => false

/-- R395: firmware that differs from what was verified before unloads every model key. -/
def State.newFirmware (s : State) (images : List (List Byte)) : State :=
  let s := if s.sec.images = images then s
    else (List.range 8).foldl (fun s p => if (s.part p).keyst = 0 then s else s.unloadSlots p (fun _ => true)) s
  { s with sec := { s.sec with images := images } }

/-- R396, R411: with its firmware verified and the module trained the device is ready, else it stays in recovery. -/
def State.bringUp (s : State) (firmware : List SignedImage) : State :=
  if s.dev.ready || s.dev.recovery then s
  else if firmwareSound firmware then
    let s := s.newFirmware (firmware.map (·.image))
    { s with dev := { s.dev with ready := true } }
  else { s with dev := { s.dev with recovery := true } }

/-- BRINGUP_READY (R396, R411). -/
def execBringupReady (firmware : List SignedImage) (s : State) : Host.Outcome State Fault Refusal := event (fun s => s.bringUp firmware) s

/-- R392: a core's arrays and matrix unit are zeroed. -/
def Core.zeroed (k : Core) : Core := { Core.reset with clock := k.clock, quar := k.quar, chkCount := k.chkCount }

/-- R392: zeroes over memory, chip scratch and cores that are named; what was known of them goes. -/
def State.zeroUnits (s : State) (mem : Nat → Bool) (slice core : Nat → Bool) : State :=
  let line := fun (l : Nat) => mem (l * 128)
  let scratch := fun (p : Place) => match p with
    | .k c => slice (kKey (s.part (c / 2 ^ 30)) (c % 2 ^ 30) / 2 ^ 19)
    | _ => false
  { s with
    portLines := s.portLines.filter (fun l => !line l), memq := s.memq.filter (fun m => !line m.line),
    mside := s.mside.filter (fun x => !line x.line), leaves := s.leaves.filter (fun u => !mem u.lo), garbled := s.garbled.filter (fun g => !mem g.lo),
    mixed := s.mixed.filter (fun r => !mem r.1), undefAt := s.undefAt.filter (fun p => !scratch p),
    mem := s.mem.filter (fun c => !mem c.1), undef := s.undef.filter (fun u => !mem (u.1 * 128)),
    poison := s.poison.filter (fun l => !mem (l * 128)), saves := s.saves.filter (fun r => !mem r.addr),
    sealedPages := s.sealedPages.filter (fun x => !mem x.1), kmem := s.kmem.filter (fun c => !slice (c.1 / 2 ^ 19)),
    cores := s.cores.mapIdx (fun i k => if core i then k.zeroed else k) }

/-- R386, R387: every grid of a partition is killed by the host, with event 3 for each. -/
def State.killGrids (s : State) (part : Nat) : State :=
  ((List.range s.grids.length).filter (fun i => (s.grid i).part == part && !(s.grid i).dead && !(s.grid i).reported)).foldl
    (fun s i => s.endGrid i 0x81) s

/-! ### Assignment of units (R22, R23) -/

/-- R23: a partition is quiesced before it gains or loses units; `leaves` are the stacks that leave it. The rule does not say
what becomes of a checkpoint under way: the model makes it idle, drops the saved image and the held halts, and lets placement
go on (log entry 100). -/
def State.quiesce (s : State) (part : Nat) (leaves : List Nat) : State :=
  let s := s.killGrids part
  let p := s.part part
  let s := s.settleWrites part (fun _ => true)
  let s := p.cores.foldl (fun s c => s.flushCore part (fun _ => true) c) s
  let s := s.cleanSide part (fun _ => true)
  let s := { s with
    net := s.net.filter (fun r => r.part != part), mside := s.mside.filter (fun x => s.partOfPa (x.line * 128) != part),
    bags := s.bags.filter (fun b => !(b.part == part && leaves.contains b.stack)) }
  let s := p.units.slices.foldl (fun s sl => s.modSlice sl (fun x => { x with tags := [], dirty := [], monitors := [], rounds := [], stamps := [] })) s
  s.modPart part (fun p => { p with keyst := 0, ckImage := none, ckSaving := false, ckCtl := p.ckCtl &&& 0x7FFFFFFC, ckHalts := [] })

/-- R337, R392: a partition is assigned: its bag generations are zero, and it draws a key. -/
def State.assigned (s : State) (part : Nat) : State :=
  { s.modPart part (fun p => { p with gens := [] }) with
    sec := { s.sec with draws := s.sec.draws + 1, partKeys := s.sec.partKeys.set part s.sec.draws } }

/-- PARTITION_ASSIGN (R22, R23, R337, R392). -/
def State.assign (s : State) (us : List UnitSet) : State :=
  let new := fun p => (us.getD p UnitSet.empty).sorted
  let new := fun p => if (us.getD p UnitSet.empty).none then UnitSet.empty else new p
  let changed := (List.range 8).filter (fun p => !(s.part p).units.same (new p))
  let old := s.parts
  let s := changed.foldl (fun s p => s.quiesce p ((s.part p).units.hbm.filter (fun k => !(new p).hbm.contains k))) s
  let owner := fun (f : UnitSet → Bool) (us : List UnitSet) => us.findIdx f
  let olds := old.map (·.units)
  let news := (List.range 8).map new
  let moves := fun (f : UnitSet → Bool) => owner f olds != owner f news
  let inMem := fun (a : Nat) (u : UnitSet) => u.mem.any (fun r => decide (r.1 ≤ a) && decide (a < r.2))
  let s := s.zeroUnits (fun a => moves (inMem a)) (fun sl => moves (fun u => u.slices.contains sl)) (fun c => moves (fun u => u.clusters.contains (c / 8)))
  let s := { s with slices := s.slices.mapIdx (fun sl x => if moves (fun u => u.slices.contains sl) then Slice.reset else x) }
  let s := { s with parts := s.parts.mapIdx (fun p x => { x with units := new p }) }
  changed.foldl State.assigned s

/-- PARTITION_ASSIGN: a refused assignment leaves the previous one in force. -/
def execPartitionAssign (units : List UnitSet) (s : State) : Host.Outcome State Fault Refusal :=
  event (fun s => if assignOk units then s.assign units else s) s

/-- PARTITION_RESET (R411). -/
def State.resetPart (s : State) (part : Nat) : State :=
  let s := s.killGrids part
  let p := s.part part
  let s := { s with net := s.net.filter (fun r => r.part != part), bags := s.bags.filter (fun b => b.part != part) }
  let s := s.zeroUnits p.holds (fun sl => p.units.slices.contains sl) (fun c => p.units.clusters.contains (c / 8))
  let s := p.units.slices.foldl (fun s sl => s.modSlice sl (fun x => { Slice.reset with ord := x.ord })) s
  s.modPart part (fun p => { p with
    lqBase := 0, lqSize := 0, lqHead := 0, lqTail := 0, eqBase := 0, eqSize := 0, eqHead := 0, eqTail := 0, eqLost := 0,
    held := [], keyst := 0, areas := [], ckImage := none, ckSaving := false, ckCtl := 0, ckHalts := [] })

/-- PARTITION_RESET. -/
def execPartitionReset (part : Nat) (s : State) : Host.Outcome State Fault Refusal :=
  event (fun s => if part < 8 then s.resetPart part else s) s

/-! ### Registers (R400 to R405) -/

/-- R403: LQ_TAIL written; ignored when it passes LQ_HEAD by more than LQ_SIZE. -/
def State.writeLqTail (s : State) (part : Nat) (v : Word) : State :=
  s.modPart part (fun p => if ringDist p.lqHead v.toNat > p.lqSize then p else { p with lqTail := v.toNat })

/-- LQ_TAIL_WRITE (R403). -/
def execLqTailWrite (part : Nat) (value : Word) (s : State) : Host.Outcome State Fault Refusal :=
  event (fun s => if part < 8 then s.writeLqTail part value else s) s

/-- R404: EQ_HEAD written; held events enter the ring. -/
def State.writeEqHead (s : State) (part : Nat) (v : Word) : State :=
  (s.modPart part (fun p => { p with eqHead := v.toNat })).drainEvents part 64

/-- EQ_HEAD_WRITE (R404). -/
def execEqHeadWrite (part : Nat) (value : Word) (s : State) : Host.Outcome State Fault Refusal :=
  event (fun s => if part < 8 then s.writeEqHead part value else s) s

/-- A ring size: a power of two from 16 to 65,536; another value is not taken (R402). -/
def ringSizeOk (n : Nat) : Bool := (span 4 13).any (fun k => 2 ^ k == n)

/-- Table 16.3: a host write of a partition block. Addresses keep the bits that their alignment leaves; a read-only register
takes nothing. -/
def State.writeBlock (s : State) (part offset : Nat) (v : DWord) : State :=
  let w := v.setWidth 32
  let a := v.toNat % 2 ^ 48
  match offset with
  | 0x000 => s.modPart part (fun p => { p with lqBase := a / 4096 * 4096 })
  | 0x008 => s.modPart part (fun p => if ringSizeOk w.toNat then { p with lqSize := w.toNat } else p)
  | 0x010 => s.writeLqTail part w
  | 0x018 => s.modPart part (fun p => { p with eqBase := a / 4096 * 4096 })
  | 0x020 => (s.modPart part (fun p => if ringSizeOk w.toNat then { p with eqSize := w.toNat } else p)).drainEvents part 64
  | 0x024 => s.writeEqHead part w
  | 0x02C => s.modPart part (fun p => { p with eqLost := w })
  | 0x030 => s.modPart part (fun p => { p with tvec := v })
  | 0x038 => s.modPart part (fun p => { p with svec := v })
  | 0x040 => s.modPart part (fun p => { p with rvec := v })
  | 0x048 => s.modPart part (fun p => { p with ctxpool := a / 2 ^ 24 * 2 ^ 24 })
  | 0x050 => s.modPart part (fun p => { p with ctxcnt := w.toNat })
  | 0x058 => s.writeTlbinv part v
  | 0x060 => s.writeDbg part w
  | 0x064 => s.modPart part (fun p => { p with replay := w })
  | 0x068 => s.modPart part (fun p => { p with logbase := v })
  | 0x070 => s.modPart part (fun p => { p with ckAddr := v })
  | 0x078 => s.writeCk part w
  | 0x098 => s.modPart part (fun p => { p with dbgGrid := w })
  | _ => s

/-- Table 8.7 to 8.9: a write of a controller's block. -/
def State.writeCtrl (s : State) (ctrl off : Nat) (w : Word) : State :=
  if off % 4 ≠ 0 then s
  else if off < 0x20 then s.modCtrl ctrl (Ctrl.writeQos (off / 4) w)
  else if off = 0x20 then s.modCtrl ctrl (fun k => { k with wgt := w })
  else if 0x40 ≤ off ∧ off < 0x60 then s.modCtrl ctrl (fun k => { k with miss := k.miss.set ((off - 0x40) / 4) w })
  else if off = 0x60 then s.modCtrl ctrl (fun k => { k with abo := w })
  else s

/-- Table 16.1: a write of PF0's BAR0. -/
def State.writePf0 (s : State) (offset : Nat) (v : DWord) : State :=
  let w := v.setWidth 32
  if offset = 0x004 then s.writeDevCtl w
  else if 0x020 ≤ offset ∧ offset < 0x030 ∧ offset % 4 = 0 then
    if s.dev.enok then s else { s with dev := { s.dev with featAcc := s.dev.featAcc.set ((offset - 0x020) / 4) w } }
  else if 0x10000 ≤ offset ∧ offset < 0x10C00 then s.writeCtrl ((offset - 0x10000) / 0x100) (offset % 0x100) w
  else if 0x100000 ≤ offset ∧ offset < 0x108000 then s.writeBlock ((offset - 0x100000) / 0x1000) (offset % 0x1000) v
  else s

/-- REGISTER_WRITE: by the virtual function of partition `part` (0 to 7), by PF0 (8), or by the security processor into the
block of partition `part` − 16 (R224, R402; log entry 21): ST_BASE keeps bits [47:10] (Table 9.7). -/
def State.writeRegister (s : State) (part offset : Nat) (v : DWord) : State :=
  if part < 8 then s.writeBlock part offset v
  else if part = 8 then s.writePf0 offset v
  else if 16 ≤ part ∧ part < 24 ∧ offset = 0x090 then s.modPart (part - 16) (fun p => { p with stBase := v.toNat % 2 ^ 48 / 1024 * 1024 })
  else s

/-- REGISTER_WRITE. -/
def execRegisterWrite (part offset : Nat) (value : DWord) (s : State) : Host.Outcome State Fault Refusal :=
  event (fun s => s.writeRegister part offset value) s

/-! ### What a register reads as -/

/-- Table 16.2: DEV_CTL. -/
def Dev.ctl (d : Dev) : Word := if d.en then 1 else 0
/-- Table 16.2: DEV_STAT. -/
def Dev.stat (d : Dev) : Word := (if d.ready then 1 else 0) ||| (if d.enok then 2 else 0) ||| (if d.recovery then 4 else 0) ||| (if d.fatal then 8 else 0)
/-- R400: QUARi, the quarantined cores 32i to 32i + 31. -/
def State.quarWord (s : State) (i : Nat) : Word := (List.range 32).foldl (fun w j => if (s.core (32 * i + j)).quar then w ||| BitVec.twoPow 32 j else w) 0
/-- Table 9.3: FAB_STAT. -/
def Fabric.stat (f : Fabric) : Word := f.rehash ++ (0 : BitVec 11) ++ BitVec.ofBool f.busy ++ f.alive
/-- Table 9.4: FAB_BKTi. -/
def Fabric.bktWord (f : Fabric) (i : Nat) : Word := (List.range 16).foldl (fun w j => w ||| ((f.bkt.getD (16 * i + j) 0).setWidth 32 <<< (2 * j))) 0

/-- Tables 8.7 to 8.9: a register of a controller's block. -/
def Ctrl.read (k : Ctrl) (off : Nat) : Word :=
  if off % 4 ≠ 0 then 0
  else if off < 0x20 then ((k.svc.getD (off / 4) 0).setWidth 32 <<< 16) ||| (k.budget.getD (off / 4) 0).setWidth 32
  else if off = 0x20 then k.wgt ||| (if k.wgt.extractLsb' 24 8 = 0 then 0x01000000 else 0)
  else if 0x40 ≤ off ∧ off < 0x60 then k.miss.getD ((off - 0x40) / 4) 0
  else if off = 0x60 then k.abo
  else 0

/-- Table 16.3: a register of a partition block. -/
def Part.read (p : Part) (offset : Nat) : DWord :=
  let n := fun (x : Nat) => BitVec.ofNat 64 x
  match offset with
  | 0x000 => n p.lqBase
  | 0x008 => n p.lqSize
  | 0x00C => n p.lqHead
  | 0x010 => n p.lqTail
  | 0x018 => n p.eqBase
  | 0x020 => n p.eqSize
  | 0x024 => n p.eqHead
  | 0x028 => n p.eqTail
  | 0x02C => p.eqLost.setWidth 64
  | 0x030 => p.tvec
  | 0x038 => p.svec
  | 0x040 => p.rvec
  | 0x048 => n p.ctxpool
  | 0x050 => n p.ctxcnt
  | 0x058 => p.tlbinv
  | 0x060 => p.dbg.setWidth 64
  | 0x064 => p.replay.setWidth 64
  | 0x068 => p.logbase
  | 0x070 => p.ckAddr
  | 0x078 => p.ckCtl.setWidth 64
  | 0x080 => p.keyst.setWidth 64
  | 0x088 => (p.keyst >>> 64).setWidth 64
  | 0x090 => n p.stBase
  | 0x098 => p.dbgGrid.setWidth 64
  | _ => 0

/-- Table 16.1: what an offset of PF0's BAR0 reads as. -/
def State.readPf0 (s : State) (offset : Nat) : DWord :=
  let w := fun (x : Word) => x.setWidth 64
  let feat := fun (base : Nat) (l : List Word) => w (l.getD ((offset - base) / 4) 0)
  if offset = 0x000 then w Config.devId
  else if offset = 0x004 then w s.dev.ctl
  else if offset = 0x008 then w s.dev.stat
  else if 0x010 ≤ offset ∧ offset < 0x020 then feat 0x010 s.dev.featOff
  else if 0x020 ≤ offset ∧ offset < 0x030 then feat 0x020 s.dev.featAcc
  else if 0x040 ≤ offset ∧ offset < 0x060 then w (s.quarWord ((offset - 0x040) / 4))
  else if 0x10000 ≤ offset ∧ offset < 0x10C00 then w ((s.ctrls.getD ((offset - 0x10000) / 0x100) Ctrl.reset).read (offset % 0x100))
  else if 0x20000 ≤ offset ∧ offset < 0x20400 then w (s.ordOf ((offset - 0x20000) / 4))
  else if offset = 0x30000 then w s.fabric.stat
  else if 0x30004 ≤ offset ∧ offset < 0x30044 then w (s.fabric.bktWord ((offset - 0x30004) / 4))
  else if 0x100000 ≤ offset ∧ offset < 0x108000 then (s.part ((offset - 0x100000) / 0x1000)).read (offset % 0x1000)
  else 0

/-! ### Accesses from the ports (R24, R399, R406) -/

/-- The pieces of an access, one per line: first byte and length. -/
def portPieces (pa n : Nat) : List (Nat × Nat) :=
  let first := pa / 128
  let lines := if n = 0 then 0 else (pa + n - 1) / 128 - first + 1
  (List.range lines).map (fun i =>
    let lo := max pa ((first + i) * 128)
    let hi := min (pa + n) ((first + i + 1) * 128)
    (lo, hi - lo))

/-- R393, R399: a port reads bytes of one line: of a sealed line the stored ciphertext. -/
def State.portRead (s : State) (part a n : Nat) : List Byte :=
  if s.keySlot (lineOf a) = 0 then s.memBytes a n else ((s.cipherLine part (lineOf a)).drop (a % 128)).take n

/-- R393, R399: a port writes bytes of one line, as ciphertext where the line is sealed. The line stays poisoned unless they are all
of it (R385). Whether a page that no translation has
used is sealed, its first translation shows (log entry 72). -/
def State.portWrite (s : State) (part a : Nat) (bs : List Byte) : State :=
  let line := lineOf a
  if s.keySlot line = 0 then { s.sliceStore part false a bs with portLines := line :: s.portLines.filter (· != line) }
  else
    let old := s.cipherLine part line
    let new := old.take (a % 128) ++ bs ++ old.drop (a % 128 + bs.length)
    let plain := Crypto.decryptLine (s.lineKey part line) line new
    let t := s.sliceStore part false (line * 128) ((List.range 128).map (fun i => plain.getD i 0))
    if s.poison.contains line && decide (bs.length < 128) then { t with poison := line :: t.poison.filter (· != line) } else t

/-- R399, R406: a write of bytes of one line at its home slice, as requester class `cls`. -/
def State.portStore (s : State) (part cls a : Nat) (bs : List Byte) : State :=
  (s.portWrite part a bs).touchWrite (homeSlice (s.part part) a) (lineOf a) 0 cls

/-- R399, R406: an access from outside at the home slices, line by line, as requester class `cls`; `wrap` names the port of a
read. Only a peer sends atomics, of 4 or 8 bytes; they act on the bytes as the port sees them (log entry 107). What another chip of a grid brings goes to the barrier unit (R408). -/
def State.outsideAccess (s : State) (cls : Nat) (wrap : List Byte → Output) (acc : OutsideAccess) : State :=
  match acc with
  | .counts .. | .completed .. => if cls = 7 then s.chipWord acc else s
  | .read part pa count =>
    let x := (portPieces pa count).foldl (fun (x : State × List Byte) pc =>
      if x.1.partOfPa pc.1 = part ∧ part < 8 then ((x.1.touchTag (homeSlice (x.1.part part) pc.1) (lineOf pc.1) 0 cls).noteRead (.g pc.1) pc.2, x.2 ++ x.1.portRead part pc.1 pc.2)
      else (x.1.discardAccess part, x.2)) (s, [])
    x.1.emit (wrap x.2)
  | .write part pa data =>
    (portPieces pa data.length).foldl (fun s pc =>
      if s.partOfPa pc.1 = part ∧ part < 8 then s.portStore part cls pc.1 ((data.drop (pc.1 - pa)).take pc.2) else s.discardAccess part) s
  | .atomic part pa op wide data =>
    let n := if wide then 8 else 4
    let a := pa / n * n
    if cls ≠ 7 then s
    else if s.partOfPa a = part ∧ part < 8 then
      let old := s.portRead part a n
      (s.portStore part cls a (atomBytes op (if wide then 1 else 0) old data)).emit (wrap old)
    else s.discardAccess part

/-- HOST_MEMORY_ACCESS (R399). -/
def execHostMemoryAccess (acc : OutsideAccess) (s : State) : Host.Outcome State Fault Refusal :=
  event (fun s => s.outsideAccess 6 .hostData acc) s
/-- PEER_PORT_ACCESS (R406). -/
def execPeerPortAccess (acc : OutsideAccess) (s : State) : Host.Outcome State Fault Refusal :=
  event (fun s => s.outsideAccess 7 .peerData acc) s

/-! ### Launch packets (R407, R408) -/

/-- The fields of a packet's header that a grid keeps. -/
structure Packet where
  type  : Nat
  part  : Nat
  chips : Nat
  rank  : Nat
  gid   : Nat
  team0 : Nat
  record : List Byte
  deriving DecidableEq, Repr

/-- R407: the 32-byte header and the record behind it. -/
def Packet.parse (bs : List Byte) : Packet :=
  let f := fieldAt bs
  { type := f 0 1, part := f 1 1, chips := f 2 2, rank := f 4 2, gid := f 8 8, team0 := f 16 4, record := bs.drop 32 }

/-- A grid that a packet brings; its number is the low half of GID (log entry 22). -/
def Packet.grid (k : Packet) (s : State) (lr : LaunchRec) : Grid :=
  { Grid.fresh k.part (BitVec.ofNat 32 k.gid) lr s.grids.length (s.part k.part).compulsory with gid := k.gid, chips := 1 }

/-- A packet of this type for the partition bound to the port; another is discarded (R407). -/
def Packet.isFor (k : Packet) (type part : Nat) : Bool := k.type == type && k.part == part && decide (part < 8)
/-- A packet that brings a record is taken on an enabled device only. -/
def State.packetOk (s : State) (k : Packet) (type part : Nat) : Bool := k.isFor type part && s.runs

/-- R404, R407: a packet's record is refused, with event 2 and its DATA, and with state 1. -/
def State.refusePacket (s : State) (k : Packet) (data : Nat) : State :=
  (s.putEvent k.part 2 (BitVec.ofNat 32 k.gid) data).emit (.report k.gid 0 0 1)

/-- LAUNCH (R407). The spec gives no DATA for a refusal by digest (log entry 56). -/
def State.launchPacket (s : State) (part : Nat) (bs : List Byte) : State :=
  let k := Packet.parse bs
  let lr := LaunchRec.parse k.record
  if !s.packetOk k 1 part then s
  else match lr.refusal (s.part part).chipK with
    | some n => s.refusePacket k n
    | none =>
      let (s, refused) := s.gatedLaunch part lr (k.record.take 256, [])
      if refused then s.refusePacket k (Config.freeNat s.tick (2 ^ 19 + part) % 2 ^ 64) else { s with grids := s.grids ++ [k.grid s lr] }

/-- LAUNCH. -/
def execLaunch (part : Nat) (packet : List Byte) (s : State) : Host.Outcome State Fault Refusal :=
  event (fun s => s.launchPacket part packet) s

/-- The first cores for a reservation: those given where the gangs fit there, else a first fit. -/
def State.reserveCores (s : State) (gi : Nat) (what : List ToPlace) (firstCores : List Nat) : Option (List Nat) :=
  if (s.placeAll gi what firstCores).isSome then some firstCores else s.fitAll gi what

/-- R408: what a reservation needs: cores, and the victims that must be saved first. -/
def State.reservation (s : State) (gi part : Nat) (what : List ToPlace) (firstCores : List Nat) : Option (List Nat × List Nat) :=
  let busy := (List.range s.gangs.length).filter s.saving
  match s.reserveCores gi what firstCores with
  | some fs => some (fs, [])
  | none => match (s.without busy).reserveCores gi what firstCores with
    | some fs => some (fs, [])
    | none => match s.pickVictims gi part what [] (s.candidates part (s.grid gi).record.prio) with
      | none => none
      | some vs => ((s.without (vs ++ busy)).reserveCores gi what firstCores).map (fun fs => (fs, vs.eraseDups))

/-- RESERVE (R407, R408). -/
def State.reservePacket (s : State) (part : Nat) (bs : List Byte) (firstCores : List Nat) : State :=
  let k := Packet.parse bs
  let lr := LaunchRec.parse k.record
  if !s.packetOk k 2 part then s
  else match lr.refusal (s.part part).chipK with
    | some n => s.refusePacket k n
    | none =>
      let (s, refused) := s.gatedLaunch part lr (k.record.take 256, [])
      let gi := s.grids.length
      let g : Grid := { k.grid s lr with chips := max k.chips 1, chipRank := k.rank, team0 := k.team0, multi := .reserved }
      let s1 := { s with grids := s.grids ++ [g] }
      if refused then s.refusePacket k (Config.freeNat s.tick (2 ^ 19 + part) % 2 ^ 64)
      else (match s1.reservation gi part (s1.nextOf gi) firstCores with
        | none => s.emit (.report k.gid 0 0 1)
        | some (fs, vs) =>
          let s1 := vs.foldl (fun s g => if s.saving g then s else s.startSave part g) s1
          (s1.modGrid gi (fun g => { g with reserved := fs })).report gi 0)

/-- RESERVE. -/
def execReserve (part : Nat) (packet : List Byte) (firstCores : List Nat) (s : State) : Host.Outcome State Fault Refusal :=
  event (fun s => s.reservePacket part packet firstCores) s

/-- R407: the answer to a packet: a REPORT of the state that its grid is in. -/
def State.answer (s : State) (gi : Nat) : State :=
  let g := s.grid gi
  s.report gi (if g.dead then 4 else if g.reported then 3 else g.reportState)

/-- R407: the grid that a packet's partition and GID name, the latest that a packet brought; none for an unknown or a refused one. -/
def State.packetGrid (s : State) (k : Packet) : Option Nat :=
  (List.range s.grids.length).reverse.find? (fun i => let g := s.grid i; g.part == k.part && g.gid == k.gid && g.chips != 0)

/-- COMMIT (R408): a held reservation is committed. -/
def State.commitGrid (s : State) (gi : Nat) : State :=
  if (s.grid gi).multi = .reserved ∧ (s.grid gi).dead = false then (s.modGrid gi (fun g => { g with multi := .committed })).answer gi
  else s.answer gi

/-- ABORT (R408): a reservation is freed and its started teams killed; after COMMIT it acts as KILL. -/
def State.abortGrid (s : State) (gi : Nat) : State :=
  let g := s.grid gi
  if g.dead || g.reported then s.answer gi
  else match g.multi with
    | .none => s.answer gi
    | .reserved => s.endGrid gi 0x12
    | .committed => s.endGrid gi 0x81

/-- KILL (R408): the grid that a packet brought ends with cause HOST. -/
def State.killGrid (s : State) (gi : Nat) : State :=
  if (s.grid gi).dead || (s.grid gi).reported then s else s.endGrid gi 0x81

/-- R407: a packet of a type that names a grid: `act` on it, or state 1 where the type is answered and there is no such grid. -/
def State.gridPacket (s : State) (p : PortPacket) (type : Nat) (answered : Bool) (act : State → Nat → State) : State :=
  let k := Packet.parse p.bytes
  if !k.isFor type p.part then s
  else match s.packetGrid k with
    | some gi => act s gi
    | none => if answered then s.emit (.report k.gid 0 0 1) else s

/-- COMMIT (R407, R408). -/
def execCommit (packet : PortPacket) (s : State) : Host.Outcome State Fault Refusal :=
  event (fun s => s.gridPacket packet 3 true State.commitGrid) s
/-- ABORT (R407, R408). -/
def execAbort (packet : PortPacket) (s : State) : Host.Outcome State Fault Refusal :=
  event (fun s => s.gridPacket packet 4 true State.abortGrid) s
/-- KILL (R407, R408). -/
def execKill (packet : PortPacket) (s : State) : Host.Outcome State Fault Refusal :=
  event (fun s => s.gridPacket packet 5 false State.killGrid) s

end Sys2Proof.Machine
end

