-- ==== Sys2Proof/Machine/Security.lean ====
section
/-! DEFINITION. The security processor's SPDM responder and the model keys (R393 to R396; log entry 23: the order of the
requests and the coding of the responses are those of SPDM 1.3). -/

namespace Sys2Proof.Machine

/-- A response, with its bytes; request and response enter the transcript. -/
def State.respond (s : State) (name : String) (request data : List Byte) : State :=
  { s.emit (.spdm name data) with sec := { s.sec with transcript := s.sec.transcript ++ request ++ data } }

/-- R396: the attestation key that this reset derived. -/
def Sec.attestKey (x : Sec) : Crypto.SlhKey :=
  let b := Config.attestSeeds x.resets
  { skSeed := b.take 16, skPrf := (b.drop 16).take 16, seed := (b.drop 32).take 16 }
/-- R394: an SLH-DSA-SHA2-128s signature by the attestation key. -/
def Sec.sign (x : Sec) (msg : List Byte) : List Byte := Crypto.slh128s.sign x.attestKey msg
/-- R396: the certificate chain of the attestation key. -/
def Sec.chain (x : Sec) : List Byte := Config.certChain (Crypto.slh128s.publicKey x.attestKey)

/-- A request refused. -/
def State.refuse (s : State) (name : String) : State := s.emit (.spdmError name)

/-- GET_VERSION (R394): SPDM 1.3; it starts a connection anew. -/
def execGetVersion (s : State) : Host.Outcome State Fault Refusal :=
  event (fun s => ({ s with sec := { s.sec with versionDone := true, capsDone := false, algsDone := false, sessions := [], transcript := [] } }).respond
    "VERSION" [] [0x13]) s

/-- GET_CAPABILITIES (R394): the requests that the responder supports, as a count of their names. -/
def execGetCapabilities (s : State) : Host.Outcome State Fault Refusal :=
  event (fun s => if s.sec.versionDone then
      ({ s with sec := { s.sec with capsDone := true, algsDone := false } }).respond "CAPABILITIES" [] [11]
    else s.refuse "GET_CAPABILITIES") s

/-- NEGOTIATE_ALGORITHMS (R394): bit 0 of each argument offers SHA-256, SLH-DSA-SHA2-128s, secp384r1 and AES-256-GCM. -/
def execNegotiateAlgorithms (hashes sigs kems ciphers : Nat) (s : State) : Host.Outcome State Fault Refusal :=
  event (fun s =>
    if s.sec.capsDone && [hashes, sigs, kems, ciphers].all (fun n => n % 2 == 1) then
      ({ s with sec := { s.sec with algsDone := true } }).respond "ALGORITHMS" [] [1, 1, 1, 1]
    else s.refuse "NEGOTIATE_ALGORITHMS") s

/-- GET_DIGESTS (R394, R396). -/
def execGetDigests (s : State) : Host.Outcome State Fault Refusal :=
  event (fun s => if s.sec.algsDone then s.respond "DIGESTS" [] (Crypto.sha256 s.sec.chain) else s.refuse "GET_DIGESTS") s

/-- GET_CERTIFICATE (R394, R396): a portion of the chain, in slot 0. -/
def execGetCertificate (slot offset length : Nat) (s : State) : Host.Outcome State Fault Refusal :=
  event (fun s => if s.sec.algsDone && slot == 0 && decide (offset ≤ s.sec.chain.length) then
      s.respond "CERTIFICATE" (leBytes 4 offset ++ leBytes 4 length) ((s.sec.chain.drop offset).take length)
    else s.refuse "GET_CERTIFICATE") s

/-- CHALLENGE (R394): a signature by the attestation key over the transcript and the nonce. -/
def execChallenge (slot : Nat) (nonce : List Byte) (s : State) : Host.Outcome State Fault Refusal :=
  event (fun s => if s.sec.algsDone && slot == 0 then
      s.respond "CHALLENGE_AUTH" nonce (Crypto.sha256 s.sec.chain ++ s.sec.sign (s.sec.transcript ++ nonce))
    else s.refuse "CHALLENGE") s

/-- R394: an assignment as bytes: the number and the units. -/
def State.assignmentBytes (s : State) (part : Nat) : List Byte :=
  let u := (s.part part).units
  leBytes 1 part ++ (u.clusters ++ [0xFFFF] ++ u.slices ++ [0xFFFF] ++ u.hbm).flatMap (leBytes 2)

/-- R394: measurement 1 to 5, as a digest. -/
def State.measurement (s : State) (part i : Nat) : List Byte :=
  if i = 1 then Crypto.sha256 Config.bootRom
  else if i ≤ 3 then Crypto.sha256 (s.sec.images.getD (i - 2) [])
  else if i = 4 then Crypto.sha256 (s.assignmentBytes part)
  else Crypto.sha256 (s.dev.featAcc.flatMap (fun w => leBytes 4 w.toNat))

/-- The requesting partition: that of the session established last, 0 outside any (log entry 23). -/
def Sec.requester (x : Sec) : Nat := ((x.sessions.filter (·.established)).getLast?.map (·.part)).getD 0

/-- GET_MEASUREMENTS (R394): index 0 asks for their number, 255 for all, 1 to 5 for one; with a signature. -/
def execGetMeasurements (index : Nat) (nonce : List Byte) (s : State) : Host.Outcome State Fault Refusal :=
  event (fun s =>
    let one := s.measurement s.sec.requester
    let data := if index = 0 then some [(5 : Byte)] else if index = 255 then some ((span 1 5).flatMap one)
      else if index ≤ 5 then some (one index) else none
    match data, s.sec.algsDone with
    | some d, true => s.respond "MEASUREMENTS" nonce (d ++ s.sec.sign (s.sec.transcript ++ nonce ++ d))
    | _, _ => s.refuse "GET_MEASUREMENTS") s

/-! ### Session keys (SPDM 1.3; log entry 23) -/

/-- The characters of a label. -/
def label (x : String) : List Byte := x.toList.map (fun c => BitVec.ofNat 8 c.toNat)
/-- One block of HKDF-Expand with SPDM's labelled context. -/
def expand (key : List Byte) (n : Nat) (name : String) (context : List Byte) : List Byte :=
  (Crypto.hmac Crypto.sha256 64 key (leBytes 2 n ++ label "spdm1.3 " ++ label name ++ context ++ [1])).take n
/-- The device's private number of a session, from 1 to the order less 1. -/
def dhePrivate (n : Nat) : Nat := Config.dheScalar n % (Crypto.n384 - 1) + 1
/-- The device's secp384r1 share of a session. -/
def dheShare (n : Nat) : List Byte := Crypto.share384 (dhePrivate n)
/-- The handshake secret that two shares give; none where the requester's is no point of the curve. -/
def Session.secret (x : Session) : Option (List Byte) :=
  (Crypto.secret384 (dhePrivate x.number) x.share).map (Crypto.hmac Crypto.sha256 64 (List.replicate 32 0))
/-- The verify data that FINISH must carry. -/
def Session.verifyData (x : Session) : Option (List Byte) := x.secret.map (fun z =>
  let th := Crypto.sha256 x.transcript
  Crypto.hmac Crypto.sha256 64 (expand (expand z 32 "req hs data" th) 32 "finished" []) th)
/-- The key and the IV of the requester's messages in an established session. -/
def Session.dataKey (x : Session) : Option (List Byte × List Byte) := x.secret.map (fun z =>
  let master := Crypto.hmac Crypto.sha256 64 (expand z 32 "derived" []) (List.replicate 32 0)
  let d := expand master 32 "req app data" (Crypto.sha256 x.transcript)
  (expand d 32 "key" [], expand d 12 "iv" []))
/-- R394, R395: the 512-bit key that a message of a session holds, where it opens under AES-256-GCM. -/
def Session.unwrap (x : Session) (wrapped : List Byte) : Option (BitVec 512) :=
  match x.dataKey with
  | none => none
  | some (key, iv) =>
    match Crypto.gcmOpen key (Crypto.xorBytes iv (leBytes 12 x.opened)) (leBytes 4 x.number ++ leBytes 2 wrapped.length) wrapped with
    | some bs => if bs.length = 64 then some (BitVec.ofNat 512 (leNat bs)) else none
    | none => none

/-- KEY_EXCHANGE (R394, R395): a session bound to the partition that its opaque data names. -/
def execKeyExchange (part : Nat) (share : List Byte) (s : State) : Host.Outcome State Fault Refusal :=
  event (fun s =>
    let n := s.sec.next
    if s.sec.algsDone && decide (part < 8) && (Crypto.pointOf share).isSome then
      let rsp := dheShare n ++ s.sec.sign (s.sec.transcript ++ share ++ dheShare n)
      let x : Session := { number := n, part := part, share := share, established := false, transcript := s.sec.transcript ++ share ++ rsp, opened := 0 }
      ({ s with sec := { s.sec with next := n + 1, sessions := s.sec.sessions ++ [x] } }).respond "KEY_EXCHANGE_RSP" share rsp
    else s.refuse "KEY_EXCHANGE") s

/-- A session by number. -/
def Sec.session (x : Sec) (n : Nat) : Option Session := x.sessions.find? (fun y => y.number == n)
/-- A session is established; its transcript takes in the verify data. -/
def Sec.establish (x : Sec) (n : Nat) (verify : List Byte) : Sec :=
  { x with sessions := x.sessions.map (fun (y : Session) =>
      if y.number = n then { y with established := true, transcript := y.transcript ++ verify } else y) }
/-- A message of a session has been opened. -/
def Sec.opened (x : Sec) (n : Nat) : Sec :=
  { x with sessions := x.sessions.map (fun (y : Session) => if y.number = n then { y with opened := y.opened + 1 } else y) }
/-- A session ends. -/
def Sec.close (x : Sec) (n : Nat) : Sec := { x with sessions := x.sessions.filter (fun y => y.number != n) }

/-- FINISH (R394): the session is established when the verify data is right, else it ends. -/
def execFinish (session : Nat) (verify : List Byte) (s : State) : Host.Outcome State Fault Refusal :=
  event (fun s => match s.sec.session session with
    | none => s.refuse "FINISH"
    | some x =>
      if x.established then s.refuse "FINISH"
      else if some verify = x.verifyData then
        ({ s with sec := s.sec.establish session verify }).respond "FINISH_RSP" verify []
      else { s with sec := s.sec.close session }.refuse "FINISH") s

/-- END_SESSION (R394). -/
def execEndSession (session : Nat) (s : State) : Host.Outcome State Fault Refusal :=
  event (fun s => if (s.sec.session session).any (·.established) then ({ s with sec := s.sec.close session }).respond "END_SESSION_ACK" [] []
    else s.refuse "END_SESSION") s

/-- R395: the digest of measurements 1 to 4. -/
def State.keyDigest (s : State) (part : Nat) : List Byte := Crypto.sha256 ((span 1 4).flatMap (s.measurement part))

/-- The pages that a slot of a partition seals. -/
def State.slotPages (s : State) (part slot : Nat) : List (Nat × Nat × Nat) :=
  s.sealedPages.filter (fun x => x.2.2 == slot && s.partOfPa x.1 == part)

/-- R393, R395: a key enters a slot: what is stored in its pages is read under it from now on. -/
def State.loadKey (s : State) (part slot : Nat) (key : BitVec 512) : State :=
  let s := s.unloadSlots part (fun n => n == slot)
  let old := s.slotKey part slot
  let s := if old = key then s else (s.slotPages part slot).foldl (fun s x => s.rekey x.1 x.2.1 (fun _ => some old) key) s
  s.modPart part (fun p => { p with keyst := p.keyst ||| BitVec.twoPow 128 slot, keys := (slot, key) :: p.keys.filter (fun k => k.1 != slot) })

/-- KEYLOAD (R395): refused, loading nothing, unless the session is established and the digest and the partition are its own. -/
def execKeyload (session slot part : Nat) (wrapped digest : List Byte) (s : State) : Host.Outcome State Fault Refusal :=
  event (fun s => match s.sec.session session, (s.sec.session session).bind (fun x => x.unwrap wrapped) with
    | some x, some key =>
      let s := { s with sec := s.sec.opened session }
      if x.established && x.part == part && decide (1 ≤ slot) && decide (slot < 128) && decide (digest = s.keyDigest part) then
        (s.loadKey part slot key).respond "KEYLOAD_RSP" [] []
      else s.refuse "KEYLOAD"
    | _, _ => s.refuse "KEYLOAD") s

/-- KEYDROP (R393, R395): a slot of the session's partition is unloaded. -/
def execKeydrop (session slot : Nat) (s : State) : Host.Outcome State Fault Refusal :=
  event (fun s => match s.sec.session session with
    | some x =>
      if x.established && decide (1 ≤ slot) && decide (slot < 128) then
        (s.unloadSlots x.part (fun n => n == slot)).respond "KEYDROP_RSP" [] []
      else s.refuse "KEYDROP"
    | none => s.refuse "KEYDROP") s

end Sys2Proof.Machine
end

