-- ==== Sys2Proof/Machine/Issue.lean ====
section
/-! DEFINITION. Taking up the next instruction of a gathering: its decoding, its class, its features (R20, R50, R53, R54), and
who may issue at all (R380, R390). -/

namespace Sys2Proof.Machine

/-- The opcode of an instruction's first word (Table 2.2, Table 2.3). -/
def opcodeOf (w : Word) : Nat := (w.extractLsb' 0 8).toNat

/-- R20, Table 1.3: the clause class of an opcode; 7 for none. -/
def classOf (op : Nat) : Nat :=
  if op < 0xA0 ∨ (0xE0 ≤ op ∧ op < 0xF0) then 0
  else if op < 0xB8 then 1
  else if op < 0xC0 then 5
  else if op < 0xD0 then 2
  else if op < 0xD8 then 3
  else if op < 0xE0 then 4
  else 6

/-- R53, Table 2.11: the feature that an opcode depends on. -/
def featureOf (op : Nat) : Nat :=
  if 0xD8 ≤ op ∧ op < 0xE0 then 1 else if op = 0xB4 ∨ op = 0xB5 then 2 else if op = 0xB6 then 3 else 0

/-- R53: a feature is accepted. -/
def Dev.accepts (d : Dev) (f : Nat) : Bool := (d.featAcc.getD 0 0).getLsbD f

/-- The words from a gathering's next instruction on. -/
def Gath.rest (g : Gath) : List Word := g.words.drop (g.pos - 1)

/-- R20, R50, R53: the next instruction of a gathering with its number of words; none where it raises ILLOP. -/
def State.nextInstr (s : State) (g : Gath) : Option (Instr × Nat) :=
  match g.rest, decode g.rest with
  | w :: _, .ok (i, rest) =>
    if classOf (opcodeOf w) = hdrClass g.header ∧ s.dev.accepts (featureOf (opcodeOf w)) = true then some (i, g.rest.length - rest.length)
    else none
  | _, _ => none

/-- R390: a thread whose gang is halted. -/
def State.isHalted (s : State) (t : ThreadId) : Bool := (s.gang (s.gangOf t.quire)).halted

/-- R390: threads of a halted gang leave a gathering that they share with others, and stand where they are. -/
def State.splitHalted (s : State) (g : Gath) : State :=
  let hs := g.members.filter s.isHalted
  hs.foldl (fun s t => ((s.standHere t).leaveGath t).modThread t (fun th => { th with stat := .ready })) s

/-- A gathering could issue: every member is in the gathering, none parked (log entry 8), its quire is in the active set (R79),
and no spine has stopped for a save or a restore (R380, R382). -/
def State.couldGo (s : State) (g : Gath) : Bool :=
  g.members.all (fun t => (s.thread t).stat == .gathered &&
    (if (s.quire t.quire).role == .spine then (s.team (s.quire t.quire).team).phase == .none else (s.quire t.quire).active))

/-- R309: where a spine context stands in the round-robin order of its core: its next clock, and its distance from the context
that issued last. -/
def State.spineKey (s : State) (t : ThreadId) : Nat × Nat :=
  let k := s.core (s.quire t.quire).core
  let n := s.quires.length
  (max (s.thread t).tNext (max k.clock (k.slots.getD 8 0)), (t.quire + (n - (k.spineLast + 1) % n)) % n)

/-- A spine context that could issue the next instruction of its clause now: no operation before it holds it. -/
def State.spineGoes (s : State) (g : Gath) : Bool :=
  s.couldGo g && !g.members.any s.isHalted &&
  (match s.nextInstr g, g.members with
    | some (i, _), t :: _ => !s.mustWait i (s.usesOf t.quire i) true (s.takersOf g)
    | _, _ => true)

/-- R309: the contexts of the scalar pipeline of a core that are ready: within a clause, or at a header whose WAIT is met. -/
def State.spineRivals (s : State) (c : Nat) : List ThreadId :=
  ((s.gaths.filter (fun x => x.core == c && x.ip == 8 && s.spineGoes x)).map (fun x => x.members.headD ⟨0, 0⟩)) ++
  ((List.range s.quires.length).filter (fun q => (s.quire q).role == .spine && (s.quire q).core == c && s.isReady ⟨q, 0⟩)).map (fun q => ⟨q, 0⟩)

/-- R309: no context of the scalar pipeline comes before this one. -/
def State.spineFirst (s : State) (g : Gath) : Bool :=
  let a := s.spineKey (g.members.headD ⟨0, 0⟩)
  (s.spineRivals g.core).all (fun t => let b := s.spineKey t; decide (a.1 < b.1) || (a.1 == b.1 && decide (a.2 ≤ b.2)))

/-- A gathering has the turn of its issue partition or of the scalar pipeline. -/
def State.mayIssue (s : State) (g : Gath) : Bool := s.couldGo g && (g.ip != 8 || s.spineFirst g)

/-- R102: STALL of a control transfer. -/
def Instr.transferStall : Instr → Option Nat
  | .bra _ st | .brq _ _ _ st | .call _ st | .brx _ st | .callx _ st | .ret st | .exit st => some st.toNat
  | _ => none

/-- R28, R102: a gathering in which no thread executes its clause ends; a control transfer in the clause delays its threads
all the same. -/
def State.skipClause (s : State) (gi : Nat) (g : Gath) : State :=
  let now := max (s.core g.core).clock ((s.core g.core).slots.getD g.ip 0)
  let s := match ((clauseInstrs g.rest).filterMap Instr.transferStall).getLast? with
    | some st => s.modThreads g.members (fun _ th => { th with tNext := max th.tNext now + 1 + st + 3 })
    | none => s
  s.endClause gi

/-- What the turn of a gathering comes to: a next state, or an instruction to carry out. -/
inductive IssueTurn where
  | idle (s : State)
  | run (i : Instr) (s : State)

/-- The turn of gathering number `gi`, `wait` clocks later than its earliest clock. -/
def State.issueTurn (s : State) (gi wait : Nat) : IssueTurn :=
  match s.gaths[gi]? with
  | none => .idle s
  | some g =>
    if !s.mayIssue g then .idle s
    else if g.members.any s.isHalted then .idle (if g.members.all s.isHalted then s else s.splitHalted g)
    else if (s.takersOf g).isEmpty then .idle (s.skipClause gi g)
    else match s.nextInstr g with
      | none => .idle ((s.trapAt g (s.takersOf g) { code := .illop }).settleGath gi)
      | some (i, n) => .run i { s with cur := some { gath := gi, size := n, wait := wait } }

end Sys2Proof.Machine
end

