-- ==== Sys2Proof/Machine/Uniform.lean ====
section
/-! DEFINITION. The meanings of the uniform ALU, opcodes 0x80 to 0x85 (R46, R111): the operations of Table 2.6 on uniform
registers, once per gathering. -/

namespace Sys2Proof.Machine

/-- The operation of a code of Table 2.6; SEL takes its predicate through `cin`. -/
def uopFn (op : BitVec 6) : IntIn → IntOut :=
  match op.toNat with
  | 0x00 => opAdd | 0x01 => opAddI32Sat | 0x02 => opAddN32Sat | 0x03 => opAddc
  | 0x04 => opSub | 0x05 => opSubI32Sat | 0x06 => opSubN32Sat | 0x07 => opSubb
  | 0x08 => opMul | 0x09 => opMulhI32 | 0x0A => opMulhN32 | 0x0B => opMad
  | 0x0C => opMadwI32 | 0x0D => opMadwN32 | 0x0E => opMinI32 | 0x0F => opMinN32
  | 0x10 => opMaxI32 | 0x11 => opMaxN32 | 0x12 => opAnd | 0x13 => opOr
  | 0x14 => opXor | 0x15 => opAndn | 0x16 => opShl | 0x17 => opShr
  | 0x18 => opShra | 0x19 => opRot | 0x1A => opFunnel | 0x1B => opBfeI32
  | 0x1C => opBfeN32 | 0x1D => opBfi | 0x1E => opBswz | 0x1F => opNeg
  | 0x20 => opAbs | 0x21 => opPopc | 0x22 => opClz | 0x23 => opBrev
  | 0x28 => opAdd64 | 0x29 => opSub64 | 0x2A => opMul64 | 0x2B => opShl64
  | 0x2C => opShr64 | 0x2D => opShra64
  | 0x30 => opLeaI32 0 | 0x31 => opLeaI32 1 | 0x32 => opLeaI32 2 | 0x33 => opLeaI32 3
  | 0x34 => opLeaN32 0 | 0x35 => opLeaN32 1 | 0x36 => opLeaN32 2 | 0x37 => opLeaN32 3
  | _ => opSel

/-- The comparison of an ISET code, its condition in D[6:3] (R121). -/
def uopCompare (op : BitVec 6) (cond : BitVec 4) : IntIn → IntOut :=
  match op.toNat with
  | 0x24 => opIsetI32 cond | 0x25 => opIsetN32 cond | 0x26 => opIsetI64 cond | _ => opIsetN64 cond

/-- Table 5.1, uniform column. -/
def uopLat (op : BitVec 6) (sel : BitVec 7) : Nat :=
  match op.toNat with
  | 0x08 | 0x09 | 0x0A | 0x0B | 0x0C | 0x0D | 0x26 | 0x27 | 0x28 | 0x29 | 0x2B | 0x2C | 0x2D => 5
  | 0x2A => 10
  | 0x2E => if icvtSrcWide sel || icvtDstWide sel then 5 else 3
  | _ => 3

/-- A q operand: a register or port, or a pair. -/
def State.qsrc (s : State) (c : Ctx) (wide : Bool) (n : Nat) : DWord :=
  if wide then pairOf (s.readQ c.now c.hand c.q n) (s.readQ c.now c.hand c.q (n + 1)) else (s.readQPort c n).setWidth 64

/-- The result of a uniform ALU operation: B is given as a value. -/
def uopOut (op : BitVec 6) (sel : BitVec 7) (d a : Reg8) (b : DWord) (c : Ctx) (s : State) : QOut :=
  let wideD := uopPairD op || (op.toNat == 0x2E && icvtDstWide sel)
  let wideA := uopPairA op || (op.toNat == 0x2E && icvtSrcWide sel)
  let carry := op.toNat == 0x03 || op.toNat == 0x07
  let x : IntIn :=
    { a := s.qsrc c wideA a.toNat, b := b, d := if uopDestructive op then s.qsrc c wideD d.toNat else 0,
      cin := if carry then s.readQp c.now c.q 6 else if op.toNat ≥ 0x38 then s.readQp c.now c.q (op.toNat % 8) else false }
  let o := if uopIset op then uopCompare op (d.extractLsb' 3 4) x else if op.toNat = 0x2E then opIcvt sel x else uopFn op x
  { writes := if uopIset op then [] else if wideD then pairWrites d.toNat o.val else [(d.toNat, o.val.setWidth 32)],
    preds := match o.pred with
      | some p => [(if uopIset op then d.toNat % 8 else 6, p)]
      | none => [],
    flags := o.flags }

/-- R46, R111: uniform ALU, register form. For ICVT, B is the selector. -/
def execUniformAluReg (op : BitVec 6) (d a b : Reg8) (st : BitVec 3) (s : State) : Host.Outcome State Fault Refusal :=
  uniIssue (.uniformAluReg op d a b st) (uopLat op (b.setWidth 7)) (fun c s =>
    uopOut op (b.setWidth 7) d a (if uopUnary op || op.toNat == 0x2E then 0 else s.qsrc c (uopPairB op) b.toNat) c s) s
/-- R46, R111: uniform ALU, immediate form; B is sext(IMM10), widened to 64 bits for pair operands. -/
def execUniformAluImm (op : BitVec 6) (d a : Reg8) (imm : BitVec 10) (st : BitVec 3) (s : State) : Host.Outcome State Fault Refusal :=
  uniIssue (.uniformAluImm op d a imm st) (uopLat op 0) (fun c s =>
    uopOut op 0 d a (if uopPairB op then imm.signExtend 64 else (imm.signExtend 32).setWidth 64) c s) s
/-- R122 MOVI into a q register or port. -/
def execMoviQ (d : Reg8) (imm : Word) (st : BitVec 3) (s : State) : Host.Outcome State Fault Refusal :=
  uniIssue (.moviQ d imm st) 3 (fun _ _ => { writes := [(d.toNat, imm)] }) s
/-- R113, R114 ADD with a long immediate. -/
def execAddQLi (d a : Reg8) (imm : Word) (st : BitVec 3) (s : State) : Host.Outcome State Fault Refusal :=
  uniIssue (.addQLi d a imm st) 3 (fun c s => { writes := [(d.toNat, s.readQPort c a.toNat + imm)] }) s
/-- R122 MOVI.i64: the pair receives the sign-extended immediate. -/
def execMoviI64 (d : Reg8) (imm : Word) (st : BitVec 3) (s : State) : Host.Outcome State Fault Refusal :=
  uniIssue (.moviI64 d imm st) 5 (fun _ _ => { writes := pairWrites d.toNat (imm.signExtend 64) }) s
/-- R122 MOV vD, qA: the value goes to every taking thread; a port is popped once for the gathering (R35). -/
def execMovVq (d a : Reg8) (st : BitVec 3) (s : State) : Host.Outcome State Fault Refusal :=
  issueWith (.movVq d a st) true 0 (fun c s =>
    let w := s.readQPort c a.toNat
    .done (vecWrite (4 + s.portDelay c [a.toNat]) (fun _ _ _ => { writes := [(d.toNat, w)] }) c (if c.upset = some false then s else s.popPorts c [a.toNat]))) s

end Sys2Proof.Machine
end

