-- ==== Sys2Proof/Machine/Dispatch.lean ====
section
/-! DEFINITION. One arm per constructor of `Instr`: a direct call of its meaning. -/

namespace Sys2Proof.Machine

/-- What an instruction, or a step of another agent, does. -/
def exec (i : Instr) (s : State) : Host.Outcome State Fault Refusal :=
  match i with
  | .add d a b st => Sys2Proof.Machine.execAdd d a b st s
  | .addI32Sat d a b st => Sys2Proof.Machine.execAddI32Sat d a b st s
  | .addN32Sat d a b st => Sys2Proof.Machine.execAddN32Sat d a b st s
  | .addc d a b st => Sys2Proof.Machine.execAddc d a b st s
  | .sub d a b st => Sys2Proof.Machine.execSub d a b st s
  | .subI32Sat d a b st => Sys2Proof.Machine.execSubI32Sat d a b st s
  | .subN32Sat d a b st => Sys2Proof.Machine.execSubN32Sat d a b st s
  | .subb d a b st => Sys2Proof.Machine.execSubb d a b st s
  | .mul d a b st => Sys2Proof.Machine.execMul d a b st s
  | .mulhI32 d a b st => Sys2Proof.Machine.execMulhI32 d a b st s
  | .mulhN32 d a b st => Sys2Proof.Machine.execMulhN32 d a b st s
  | .mad d a b st => Sys2Proof.Machine.execMad d a b st s
  | .madwI32 d a b st => Sys2Proof.Machine.execMadwI32 d a b st s
  | .madwN32 d a b st => Sys2Proof.Machine.execMadwN32 d a b st s
  | .minI32 d a b st => Sys2Proof.Machine.execMinI32 d a b st s
  | .minN32 d a b st => Sys2Proof.Machine.execMinN32 d a b st s
  | .maxI32 d a b st => Sys2Proof.Machine.execMaxI32 d a b st s
  | .maxN32 d a b st => Sys2Proof.Machine.execMaxN32 d a b st s
  | .and d a b st => Sys2Proof.Machine.execAnd d a b st s
  | .or d a b st => Sys2Proof.Machine.execOr d a b st s
  | .xor d a b st => Sys2Proof.Machine.execXor d a b st s
  | .andn d a b st => Sys2Proof.Machine.execAndn d a b st s
  | .shl d a b st => Sys2Proof.Machine.execShl d a b st s
  | .shr d a b st => Sys2Proof.Machine.execShr d a b st s
  | .shra d a b st => Sys2Proof.Machine.execShra d a b st s
  | .rot d a b st => Sys2Proof.Machine.execRot d a b st s
  | .funnel d a b st => Sys2Proof.Machine.execFunnel d a b st s
  | .bfeI32 d a b st => Sys2Proof.Machine.execBfeI32 d a b st s
  | .bfeN32 d a b st => Sys2Proof.Machine.execBfeN32 d a b st s
  | .bfi d a b st => Sys2Proof.Machine.execBfi d a b st s
  | .bswz d a b st => Sys2Proof.Machine.execBswz d a b st s
  | .neg d a st => Sys2Proof.Machine.execNeg d a st s
  | .abs d a st => Sys2Proof.Machine.execAbs d a st s
  | .popc d a st => Sys2Proof.Machine.execPopc d a st s
  | .clz d a st => Sys2Proof.Machine.execClz d a st s
  | .brev d a st => Sys2Proof.Machine.execBrev d a st s
  | .isetI32 p cond a b st => Sys2Proof.Machine.execIsetI32 p cond a b st s
  | .isetN32 p cond a b st => Sys2Proof.Machine.execIsetN32 p cond a b st s
  | .isetI64 p cond a b st => Sys2Proof.Machine.execIsetI64 p cond a b st s
  | .isetN64 p cond a b st => Sys2Proof.Machine.execIsetN64 p cond a b st s
  | .add64 d a b st => Sys2Proof.Machine.execAdd64 d a b st s
  | .sub64 d a b st => Sys2Proof.Machine.execSub64 d a b st s
  | .mul64 d a b st => Sys2Proof.Machine.execMul64 d a b st s
  | .shl64 d a b st => Sys2Proof.Machine.execShl64 d a b st s
  | .shr64 d a b st => Sys2Proof.Machine.execShr64 d a b st s
  | .shra64 d a b st => Sys2Proof.Machine.execShra64 d a b st s
  | .icvt d a sel st => Sys2Proof.Machine.execIcvt d a sel st s
  | .leaI32 k d a b st => Sys2Proof.Machine.execLeaI32 k d a b st s
  | .leaN32 k d a b st => Sys2Proof.Machine.execLeaN32 k d a b st s
  | .sel p d a b st => Sys2Proof.Machine.execSel p d a b st s
  | .fadd m d a b st => Sys2Proof.Machine.execFadd m d a b st s
  | .fsub m d a b st => Sys2Proof.Machine.execFsub m d a b st s
  | .fmul m d a b st => Sys2Proof.Machine.execFmul m d a b st s
  | .ffma m d a b st => Sys2Proof.Machine.execFfma m d a b st s
  | .fmin m d a b st => Sys2Proof.Machine.execFmin m d a b st s
  | .fmax m d a b st => Sys2Proof.Machine.execFmax m d a b st s
  | .fset p cond a b st => Sys2Proof.Machine.execFset p cond a b st s
  | .frnd d a mode st => Sys2Proof.Machine.execFrnd d a mode st s
  | .fclass d a st => Sys2Proof.Machine.execFclass d a st s
  | .fsqrt d a st => Sys2Proof.Machine.execFsqrt d a st s
  | .frcp d a st => Sys2Proof.Machine.execFrcp d a st s
  | .frsq d a st => Sys2Proof.Machine.execFrsq d a st s
  | .fex2 d a st => Sys2Proof.Machine.execFex2 d a st s
  | .flg2 d a st => Sys2Proof.Machine.execFlg2 d a st s
  | .pkaddF16 d a b st => Sys2Proof.Machine.execPkaddF16 d a b st s
  | .pkmulF16 d a b st => Sys2Proof.Machine.execPkmulF16 d a b st s
  | .pkfmaF16 d a b st => Sys2Proof.Machine.execPkfmaF16 d a b st s
  | .pkfmaBf16 d a b st => Sys2Proof.Machine.execPkfmaBf16 d a b st s
  | .cvt d a sel st => Sys2Proof.Machine.execCvt d a sel st s
  | .qnt d a slot st => Sys2Proof.Machine.execQnt d a slot st s
  | .dqnt d a slot st => Sys2Proof.Machine.execDqnt d a slot st s
  | .had d a slot st => Sys2Proof.Machine.execHad d a slot st s
  | .pack4 d a b st => Sys2Proof.Machine.execPack4 d a b st s
  | .unpk4 d a sel st => Sys2Proof.Machine.execUnpk4 d a sel st s
  | .scale d a b st => Sys2Proof.Machine.execScale d a b st s
  | .fslot d slot sel st => Sys2Proof.Machine.execFslot d slot sel st s
  | .uniformAluReg op d a b st => Sys2Proof.Machine.execUniformAluReg op d a b st s
  | .uniformAluImm op d a imm st => Sys2Proof.Machine.execUniformAluImm op d a imm st s
  | .moviQ d imm st => Sys2Proof.Machine.execMoviQ d imm st s
  | .addQLi d a imm st => Sys2Proof.Machine.execAddQLi d a imm st s
  | .moviI64 d imm st => Sys2Proof.Machine.execMoviI64 d imm st s
  | .movVq d a st => Sys2Proof.Machine.execMovVq d a st s
  | .bra off st => Sys2Proof.Machine.execBra off st s
  | .brq neg qp off st => Sys2Proof.Machine.execBrq neg qp off st s
  | .call off st => Sys2Proof.Machine.execCall off st s
  | .brx a st => Sys2Proof.Machine.execBrx a st s
  | .callx a st => Sys2Proof.Machine.execCallx a st s
  | .ret st => Sys2Proof.Machine.execRet st s
  | .exit st => Sys2Proof.Machine.execExit st s
  | .nop st => Sys2Proof.Machine.execNop st s
  | .yield st => Sys2Proof.Machine.execYield st s
  | .qsync st => Sys2Proof.Machine.execQsync st s
  | .plop d a b c table st => Sys2Proof.Machine.execPlop d a b c table st s
  | .qplop d a b c table st => Sys2Proof.Machine.execQplop d a b c table st s
  | .vote kind d a st => Sys2Proof.Machine.execVote kind d a st s
  | .ballot d a st => Sys2Proof.Machine.execBallot d a st s
  | .lxch kind d a b c n st => Sys2Proof.Machine.execLxch kind d a b c n st s
  | .qred op d a st => Sys2Proof.Machine.execQred op d a st s
  | .qscan op d a excl st => Sys2Proof.Machine.execQscan op d a excl st s
  | .match_ wide d a st => Sys2Proof.Machine.execMatch wide d a st s
  | .moviLi d imm st => Sys2Proof.Machine.execMoviLi d imm st s
  | .addLi d a imm st => Sys2Proof.Machine.execAddLi d a imm st s
  | .mulLi d a imm st => Sys2Proof.Machine.execMulLi d a imm st s
  | .madLi d a imm st => Sys2Proof.Machine.execMadLi d a imm st s
  | .andLi d a imm st => Sys2Proof.Machine.execAndLi d a imm st s
  | .orLi d a imm st => Sys2Proof.Machine.execOrLi d a imm st s
  | .xorLi d a imm st => Sys2Proof.Machine.execXorLi d a imm st s
  | .isetI32Li p cond a imm st => Sys2Proof.Machine.execIsetI32Li p cond a imm st s
  | .isetN32Li p cond a imm st => Sys2Proof.Machine.execIsetN32Li p cond a imm st s
  | .faddLi d a imm st => Sys2Proof.Machine.execFaddLi d a imm st s
  | .fmulLi d a imm st => Sys2Proof.Machine.execFmulLi d a imm st s
  | .ffmaLi d a imm st => Sys2Proof.Machine.execFfmaLi d a imm st s
  | .fsetLi p cond a imm st => Sys2Proof.Machine.execFsetLi p cond a imm st s
  | .ld h m => Sys2Proof.Machine.execLd h m s
  | .ldSh h m => Sys2Proof.Machine.execLdSh h m s
  | .st h m => Sys2Proof.Machine.execSt h m s
  | .stSh h m => Sys2Proof.Machine.execStSh h m s
  | .ldq h m => Sys2Proof.Machine.execLdq h m s
  | .ldqSh h m => Sys2Proof.Machine.execLdqSh h m s
  | .stq h m => Sys2Proof.Machine.execStq h m s
  | .stqSh h m => Sys2Proof.Machine.execStqSh h m s
  | .pref st level space ep a b imm => Sys2Proof.Machine.execPref st level space ep a b imm s
  | .cmaint h op space a b imm => Sys2Proof.Machine.execCmaint h op space a b imm s
  | .carve h a bar => Sys2Proof.Machine.execCarve h a bar s
  | .atom h m => Sys2Proof.Machine.execAtom h m s
  | .cas h m => Sys2Proof.Machine.execCas h m s
  | .red h m => Sys2Proof.Machine.execRed h m s
  | .atomq h m => Sys2Proof.Machine.execAtomq h m s
  | .stamp h k reply n idx r d a b => Sys2Proof.Machine.execStamp h k reply n idx r d a b s
  | .stampsync h all idx => Sys2Proof.Machine.execStampsync h all idx s
  | .nred h op d a b c => Sys2Proof.Machine.execNred h op d a b c s
  | .fence h kind scope => Sys2Proof.Machine.execFence h kind scope s
  | .bararv h f => Sys2Proof.Machine.execBararv h f s
  | .barwt h f => Sys2Proof.Machine.execBarwt h f s
  | .barsyn h f => Sys2Proof.Machine.execBarsyn h f s
  | .gbar h kind d a scope n => Sys2Proof.Machine.execGbar h kind d a scope n s
  | .stdef st a num => Sys2Proof.Machine.execStdef st a num s
  | .hacq h hw base size => Sys2Proof.Machine.execHacq h hw base size s
  | .hexp h hw bytes => Sys2Proof.Machine.execHexp h hw bytes s
  | .htake h hw d => Sys2Proof.Machine.execHtake h hw d s
  | .hfree h hw => Sys2Proof.Machine.execHfree h hw s
  | .waitc h wide cond k scope d a b => Sys2Proof.Machine.execWaitc h wide cond k scope d a b s
  | .mload h stn transpose slot a b => Sys2Proof.Machine.execMload h stn transpose slot a b s
  | .mswap st stn => Sys2Proof.Machine.execMswap st stn s
  | .mstream h stn zero slot tile a b c => Sys2Proof.Machine.execMstream h stn zero slot tile a b c s
  | .mzero h stn tile c => Sys2Proof.Machine.execMzero h stn tile c s
  | .mfill h stn space tile a b c => Sys2Proof.Machine.execMfill h stn space tile a b c s
  | .mdrain h stn bf16 add space tile a b c => Sys2Proof.Machine.execMdrain h stn bf16 add space tile a b c s
  | .mdrainv h stn rows tile d a => Sys2Proof.Machine.execMdrainv h stn rows tile d a s
  | .mopf st => Sys2Proof.Machine.execMopf st s
  | .mwait h => Sys2Proof.Machine.execMwait h s
  | .mstat h clr sel d => Sys2Proof.Machine.execMstat h clr sel d s
  | .cpdesc h slot a => Sys2Proof.Machine.execCpdesc h slot a s
  | .cpload h slot hw d a => Sys2Proof.Machine.execCpload h slot hw d a s
  | .cpstore h slot d a => Sys2Proof.Machine.execCpstore h slot d a s
  | .cpgather h slot hw d a b => Sys2Proof.Machine.execCpgather h slot hw d a b s
  | .cpmcast h slot hw d a b => Sys2Proof.Machine.execCpmcast h slot hw d a b s
  | .cpfill h hw d a b => Sys2Proof.Machine.execCpfill h hw d a b s
  | .fetchw h hw d => Sys2Proof.Machine.execFetchw h hw d s
  | .growg h d a => Sys2Proof.Machine.execGrowg h d a s
  | .spend h grid a => Sys2Proof.Machine.execSpend h grid a s
  | .bagnew h d a b c => Sys2Proof.Machine.execBagnew h d a b c s
  | .bagput h rsz d a b p => Sys2Proof.Machine.execBagput h rsz d a b p s
  | .bagcut h a => Sys2Proof.Machine.execBagcut h a s
  | .bagcnt h all d a b => Sys2Proof.Machine.execBagcnt h all d a b s
  | .bagmap h d a b => Sys2Proof.Machine.execBagmap h d a b s
  | .bagdrn h a => Sys2Proof.Machine.execBagdrn h a s
  | .baggrow h a b => Sys2Proof.Machine.execBaggrow h a b s
  | .bagfree h a => Sys2Proof.Machine.execBagfree h a s
  | .trap h n => Sys2Proof.Machine.execTrap h n s
  | .svc h n => Sys2Proof.Machine.execSvc h n s
  | .tret h => Sys2Proof.Machine.execTret h s
  | .movs st wide uni d num => Sys2Proof.Machine.execMovs st wide uni d num s
  | .movsw st wide uni a num => Sys2Proof.Machine.execMovsw st wide uni a num s
  | .brk st n => Sys2Proof.Machine.execBrk st n s
  | .ctxsv h unit => Sys2Proof.Machine.execCtxsv h unit s
  | .ctxld h unit => Sys2Proof.Machine.execCtxld h unit s
  | .clauseStart members => Sys2Proof.Machine.execClauseStart members s
  | .quireSwapOut q => Sys2Proof.Machine.execQuireSwapOut q s
  | .quireActivate q => Sys2Proof.Machine.execQuireActivate q s
  | .reconvergenceIssue q at_ => Sys2Proof.Machine.execReconvergenceIssue q at_ s
  | .threadRetire t => Sys2Proof.Machine.execThreadRetire t s
  | .trapEntry t => Sys2Proof.Machine.execTrapEntry t s
  | .launchAccept entry => Sys2Proof.Machine.execLaunchAccept entry s
  | .placementStep part firstCores => Sys2Proof.Machine.execPlacementStep part firstCores s
  | .preemptUnitsFree gang => Sys2Proof.Machine.execPreemptUnitsFree gang s
  | .teamEnd team => Sys2Proof.Machine.execTeamEnd team s
  | .carveApply team => Sys2Proof.Machine.execCarveApply team s
  | .matrixOpStart core id => Sys2Proof.Machine.execMatrixOpStart core id s
  | .matrixOpComplete core id => Sys2Proof.Machine.execMatrixOpComplete core id s
  | .handleWaiterExecute team h => Sys2Proof.Machine.execHandleWaiterExecute team h s
  | .portWaiterIssue t => Sys2Proof.Machine.execPortWaiterIssue t s
  | .copyStart id => Sys2Proof.Machine.execCopyStart id s
  | .copyPieceDelivery id piece => Sys2Proof.Machine.execCopyPieceDelivery id piece s
  | .copyComplete id => Sys2Proof.Machine.execCopyComplete id s
  | .sliceLoadServe req => Sys2Proof.Machine.execSliceLoadServe req s
  | .sliceUpdateApply req => Sys2Proof.Machine.execSliceUpdateApply req s
  | .sliceAtomicApply req => Sys2Proof.Machine.execSliceAtomicApply req s
  | .stampRun req => Sys2Proof.Machine.execStampRun req s
  | .waitQueueResend req => Sys2Proof.Machine.execWaitQueueResend req s
  | .barrierUnitArrival req => Sys2Proof.Machine.execBarrierUnitArrival req s
  | .stampCacheDrop op slice => Sys2Proof.Machine.execStampCacheDrop op slice s
  | .writebackMerge core line => Sys2Proof.Machine.execWritebackMerge core line s
  | .memoryReply req => Sys2Proof.Machine.execMemoryReply req s
  | .fenceComplete op => Sys2Proof.Machine.execFenceComplete op s
  | .nredArrival req => Sys2Proof.Machine.execNredArrival req s
  | .nredResult op => Sys2Proof.Machine.execNredResult op s
  | .monitorRegister req => Sys2Proof.Machine.execMonitorRegister req s
  | .waitcReply req => Sys2Proof.Machine.execWaitcReply req s
  | .monitorPollRetry req => Sys2Proof.Machine.execMonitorPollRetry req s
  | .leafNoProgress leaf plane => Sys2Proof.Machine.execLeafNoProgress leaf plane s
  | .planeDeclareDead plane => Sys2Proof.Machine.execPlaneDeclareDead plane s
  | .rehashResume => Sys2Proof.Machine.execRehashResume s
  | .sliceReplayRequest req => Sys2Proof.Machine.execSliceReplayRequest req s
  | .mcRequestArrive ctrl pc bank line => Sys2Proof.Machine.execMcRequestArrive ctrl pc bank line s
  | .mcCommandSlot ctrl pc => Sys2Proof.Machine.execMcCommandSlot ctrl pc s
  | .refreshDue ctrl pc bank => Sys2Proof.Machine.execRefreshDue ctrl pc bank s
  | .activationAlert ctrl pc bank => Sys2Proof.Machine.execActivationAlert ctrl pc bank s
  | .mcQosWrite ctrl k value => Sys2Proof.Machine.execMcQosWrite ctrl k value s
  | .pageWalkComplete core id => Sys2Proof.Machine.execPageWalkComplete core id s
  | .tlbinvAll part => Sys2Proof.Machine.execTlbinvAll part s
  | .tlbinvBlock part va => Sys2Proof.Machine.execTlbinvBlock part va s
  | .tlbinvDone part => Sys2Proof.Machine.execTlbinvDone part s
  | .bagOpApply stack => Sys2Proof.Machine.execBagOpApply stack s
  | .bagOpResend id => Sys2Proof.Machine.execBagOpResend id s
  | .bagVerdict id => Sys2Proof.Machine.execBagVerdict id s
  | .uceConsume gang line => Sys2Proof.Machine.execUceConsume gang line s
  | .uceUnconsumed line => Sys2Proof.Machine.execUceUnconsumed line s
  | .gangKill gang => Sys2Proof.Machine.execGangKill gang s
  | .dbgHalt part value => Sys2Proof.Machine.execDbgHalt part value s
  | .dbgResume part value => Sys2Proof.Machine.execDbgResume part value s
  | .dbgKill part value => Sys2Proof.Machine.execDbgKill part value s
  | .ckSave part => Sys2Proof.Machine.execCkSave part s
  | .ckRestore part => Sys2Proof.Machine.execCkRestore part s
  | .ckDone part => Sys2Proof.Machine.execCkDone part s
  | .devEnable value => Sys2Proof.Machine.execDevEnable value s
  | .warmReset => Sys2Proof.Machine.execWarmReset s
  | .coldReset => Sys2Proof.Machine.execColdReset s
  | .partitionReset part => Sys2Proof.Machine.execPartitionReset part s
  | .bringupReady firmware => Sys2Proof.Machine.execBringupReady firmware s
  | .partitionAssign units => Sys2Proof.Machine.execPartitionAssign units s
  | .lqTailWrite part value => Sys2Proof.Machine.execLqTailWrite part value s
  | .eqHeadWrite part value => Sys2Proof.Machine.execEqHeadWrite part value s
  | .registerWrite part offset value => Sys2Proof.Machine.execRegisterWrite part offset value s
  | .hostMemoryAccess acc => Sys2Proof.Machine.execHostMemoryAccess acc s
  | .peerPortAccess acc => Sys2Proof.Machine.execPeerPortAccess acc s
  | .launch part record => Sys2Proof.Machine.execLaunch part record s
  | .reserve part record firstCores => Sys2Proof.Machine.execReserve part record firstCores s
  | .commit grid => Sys2Proof.Machine.execCommit grid s
  | .abort grid => Sys2Proof.Machine.execAbort grid s
  | .kill grid => Sys2Proof.Machine.execKill grid s
  | .getVersion => Sys2Proof.Machine.execGetVersion s
  | .getCapabilities => Sys2Proof.Machine.execGetCapabilities s
  | .negotiateAlgorithms hashes sigs kems ciphers => Sys2Proof.Machine.execNegotiateAlgorithms hashes sigs kems ciphers s
  | .getDigests => Sys2Proof.Machine.execGetDigests s
  | .getCertificate slot offset length => Sys2Proof.Machine.execGetCertificate slot offset length s
  | .challenge slot nonce => Sys2Proof.Machine.execChallenge slot nonce s
  | .getMeasurements index nonce => Sys2Proof.Machine.execGetMeasurements index nonce s
  | .keyExchange part share => Sys2Proof.Machine.execKeyExchange part share s
  | .finish session verify => Sys2Proof.Machine.execFinish session verify s
  | .endSession session => Sys2Proof.Machine.execEndSession session s
  | .keyload session slot part wrapped digest => Sys2Proof.Machine.execKeyload session slot part wrapped digest s
  | .keydrop session slot => Sys2Proof.Machine.execKeydrop session slot s
  | .checkedExecutionCompulsory part => Sys2Proof.Machine.execCheckedExecutionCompulsory part s

end Sys2Proof.Machine
end

