-- ==== Sys2Proof/Machine/Schedule.lean ====
section
/-! DEFINITION. Whose turn it is: the agenda, the turns that the machine's agents may take by themselves, and the placing of
one instruction for `State.withFetchWord` (log entry 2). -/

namespace Sys2Proof

/-- A step of another agent than a gathering: a row of the opcode table that no words encode. -/
def Instr.agentStep : Instr → Bool
  | .clauseStart .. | .quireSwapOut .. | .quireActivate .. | .reconvergenceIssue .. | .threadRetire .. | .trapEntry ..
  | .launchAccept .. | .placementStep .. | .preemptUnitsFree .. | .teamEnd .. | .carveApply .. | .matrixOpStart ..
  | .matrixOpComplete .. | .handleWaiterExecute .. | .portWaiterIssue .. | .copyStart .. | .copyPieceDelivery ..
  | .copyComplete .. | .sliceLoadServe .. | .sliceUpdateApply .. | .sliceAtomicApply .. | .stampRun .. | .waitQueueResend ..
  | .writebackMerge .. | .memoryReply .. | .fenceComplete .. | .nredArrival .. | .nredResult .. | .monitorRegister ..
  | .waitcReply .. | .monitorPollRetry .. | .leafNoProgress .. | .planeDeclareDead .. | .rehashResume
  | .sliceReplayRequest .. | .mcRequestArrive .. | .mcCommandSlot .. | .refreshDue .. | .activationAlert .. | .mcQosWrite ..
  | .pageWalkComplete .. | .tlbinvAll .. | .tlbinvBlock .. | .tlbinvDone .. | .bagOpApply .. | .bagOpResend ..
  | .bagVerdict .. | .uceConsume .. | .uceUnconsumed .. | .gangKill .. | .dbgHalt .. | .dbgResume .. | .dbgKill ..
  | .ckSave .. | .ckRestore .. | .ckDone .. | .devEnable .. | .warmReset | .coldReset | .partitionReset .. | .bringupReady ..
  | .partitionAssign .. | .lqTailWrite .. | .eqHeadWrite .. | .registerWrite .. | .hostMemoryAccess .. | .peerPortAccess ..
  | .launch .. | .reserve .. | .commit .. | .abort .. | .kill .. | .getVersion | .getCapabilities | .negotiateAlgorithms ..
  | .getDigests | .getCertificate .. | .challenge .. | .getMeasurements .. | .keyExchange .. | .finish .. | .endSession ..
  | .keyload .. | .keydrop .. | .barrierUnitArrival .. | .stampCacheDrop .. | .checkedExecutionCompulsory .. => true
  | _ => false

end Sys2Proof

namespace Sys2Proof.Machine

/-! ### Turns that may come by themselves -/

/-- Steps of requests on the planes, at the slices and on their way back. -/
def Req.turns (r : Req) : List Instr :=
  match r.stage with
  | .held | .leaf => []
  | .refused => [.waitQueueResend r.id]
  | .poll => [.monitorPollRetry r.id]
  | .replay _ => [.sliceReplayRequest r.id]
  | .replied => (match r.kind with
    | .monitor .. => [.waitcReply r.id]
    | .nred .. => [.nredResult r.op]
    | _ => [.memoryReply r.id])
  | .sent | .waiting => (match r.kind with
    | .load | .fetch _ => [.sliceLoadServe r.id]
    | .store | .record => [.sliceUpdateApply r.id]
    | .writeback => [.writebackMerge r.core r.line]
    | .atomic _ _ _ reply => if reply then [.sliceAtomicApply r.id] else [.sliceUpdateApply r.id]
    | .stamp .. => [.stampRun r.id]
    | .nred .. => [.nredArrival r.id]
    | .monitor .. => [.monitorRegister r.id]
    | .barrier .. => [.barrierUnitArrival r.id]
    | .scratch .. | .local_ => [.memoryReply r.id])

/-- The threads of a quire in a table. -/
def State.threadsOf (s : State) (q : Nat) : List ThreadId := (List.range (s.quire q).threads.length).map (fun l => ⟨q, l⟩)

/-- Steps of one thread. -/
def State.threadTurns (s : State) (t : ThreadId) : List Instr :=
  let th := s.thread t
  match th.stat with
  | .trapping _ => [.trapEntry t]
  | .exiting => [.threadRetire t]
  | _ => (match th.stat with | .parked .port => [.portWaiterIssue t] | _ => []) ++ (if th.preempt && !th.hand then [.trapEntry t] else [])

/-- The gathering that an issue partition, or a spine context, may start. -/
def State.startTurns (s : State) (q : Nat) : List Instr :=
  let qu := s.quire q
  let ms := if qu.role == .spine then (s.liveOf q).filter s.isReady else s.picked qu.core qu.ip
  -- named once, by the quire of its first member
  (match ms with
    | [] => []
    | t :: _ => if t.quire = q then [.clauseStart ms] else []) ++
  ((s.liveOf q).filter s.mayHold).map (fun t => .clauseStart [t])

/-- Steps of a quire's scheduler. -/
def State.quireTurns (s : State) (q : Nat) : List Instr :=
  let qu := s.quire q
  s.startTurns q ++ ((s.reconvReady q).map (·.1)).eraseDups.map (fun a => .reconvergenceIssue q a) ++
  (if qu.role == .spine then []
    else if qu.active then (if s.swapsOut q && (s.sameIp q).any (fun r => !(s.quire r).active && s.resolvedQuire r) then [.quireSwapOut q] else [])
    else [.quireActivate q])

/-- Steps of a core's own units. -/
def State.coreTurns (s : State) (c : Nat) : List Instr :=
  let k := s.core c
  k.walks.map (fun w => .pageWalkComplete c w.id) ++
  k.unit.ops.map (fun r => if r.started then .matrixOpComplete c r.id else .matrixOpStart c r.id) ++
  k.copies.flatMap (fun x => .copyStart x.id :: .copyComplete x.id ::
    ((List.range x.pieces.length).filter (fun i => !((x.pieces[i]?).any (·.done)))).map (fun i => .copyPieceDelivery x.id i))

/-- Steps of one operation. -/
def Op.turns (o : Op) : List Instr :=
  .fenceComplete o.id :: (match o.kind with | .stampsync _ _ left => left.map (fun sl => .stampCacheDrop o.id sl) | _ => [])

/-- Steps of a team. -/
def State.teamTurns (s : State) (t : Nat) : List Instr :=
  let m := s.team t
  if m.ended then [] else m.hwait.map (fun w => .handleWaiterExecute t w.h) ++ [.carveApply t, .teamEnd t]

/-- The placement that the distributor takes when the choice is its own: a first fit, or victims. -/
def State.placementTurn (s : State) (part : Nat) : List Instr :=
  match s.firstGrid part with
  | none => []
  | some gi => [.placementStep part ((s.fitAll gi (s.nextOf gi)).getD [])]

/-- Steps of the memory controllers: arrivals, and command slots where something is queued. -/
def State.memTurns (s : State) : List Instr :=
  s.memq.map (fun m => let h := s.memHome m; .mcRequestArrive h.1 h.2.1 h.2.2 m.line) ++
  s.ctrls.zipIdx.flatMap (fun k => (k.1.channels.filter (fun c => !c.2.entries.isEmpty)).map (fun c => .mcCommandSlot k.2 c.1))

/-- Every step that an agent of the machine may take by itself; none of the outside's. -/
def State.turns (s : State) : List Turn :=
  let qs := List.range s.quires.length
  (s.kills.map (fun k => .event (.gangKill k.gang))) ++
  (qs.flatMap (fun q => (s.threadsOf q).flatMap s.threadTurns)).map .event ++
  (s.net.flatMap Req.turns).map .event ++
  (s.ops.flatMap Op.turns).map .event ++
  ((List.range 256).flatMap s.coreTurns).map .event ++
  ((List.range s.teams.length).flatMap s.teamTurns).map .event ++
  (s.bagOps.flatMap (fun b => [.bagOpApply b.stack, .bagOpResend b.id, .bagVerdict b.id])).map .event ++
  (List.range s.gaths.length).map (fun g => .issue g 0) ++
  (qs.flatMap s.quireTurns).map .event ++
  ((List.range s.gangs.length).map (fun g => .event (.preemptUnitsFree g))) ++
  ((List.range 8).flatMap (fun p => [Instr.launchAccept ⟨p, []⟩, .tlbinvDone p, .ckDone p] ++ s.placementTurn p)).map .event ++
  s.memTurns.map .event ++
  ((List.range 4).filter (fun p => s.fabric.reported.getLsbD p)).map (fun p => .event (.planeDeclareDead p)) ++ [.event .rehashResume]

/-- The turns in the order in which they are tried: the tick rotates them, so that none is passed over for ever. -/
def State.triedTurns (s : State) : List Turn := let ts := s.turns; ts.rotateLeft (s.tick % ts.length)

/-- A step passes: free values differ from step to step (log entry 1). -/
def State.ticked (s : State) : State := { s with tick := s.tick + 1 }

/-- The next entry of the agenda, and the state without it. -/
def State.nextTurn (s : State) : Option Turn × State :=
  match s.agenda with
  | [] => (none, s)
  | t :: ts => (some t, { s with agenda := ts })

/-- The instruction just carried out is over. -/
def State.endIssue (s : State) : State := { s with cur := none }

/-! ### One instruction placed for the next step -/

/-- The words of a table value: one for format F1, two for F2 (R32). -/
def placedWords (nbits w : Nat) : List Word :=
  match tableWords nbits w with
  | w0 :: ws => if isF2 w0 then w0 :: ws.take 1 else [w0]
  | [] => []

/-- The header of a clause that holds just these words: PRED 7, no WAIT (Table 2.1). -/
def placedHeader (ws : List Word) : Word :=
  BitVec.ofNat 32 (ws.length % 16 + 16 * classOf (opcodeOf (ws.headD 0)) + 7 * 2 ^ 15)

/-- A record for one team of one matrix-role quire with 128 registers, in a co-resident grid, with bound format slots (16
Hadamard points). -/
def placedRecord : LaunchRec :=
  { LaunchRec.zero with
    attr := 1, teams := 1, maxTeams := 1, gx := 1, entryS := 0x1000, entryM := 0x1000, shape := BitVec.ofNat 32 (128 + 2 ^ 8 + 2 ^ 15),
    slots := List.replicate 8 { w0 := 0x80000200, seed := 0 } }

/-- A placed team whose first gathering is about to issue one instruction: of its spine for the copy class, else of its
quire (R52); on a device with every feature accepted. -/
def State.placeInstr (s : State) (nbits w : Nat) : State :=
  let ws := placedWords nbits w
  let gi := s.grids.length
  let s := { s with dev := { s.dev with featAcc := s.dev.featAcc.set 0 0xF },
                    grids := s.grids ++ [Grid.fresh 0 0 placedRecord gi false] }
  let q := s.quires.length
  let s := s.placeNew gi 0 0
  let spine := classOf (opcodeOf (ws.headD 0)) == 3
  let qi := if spine then q + 1 else q
  let ms := (List.range (if spine then 1 else 32)).map (fun l => (⟨qi, l⟩ : ThreadId))
  let s := s.modQuire qi (fun x => { x with active := true, threads := x.threads.map (fun th => { th with stat := .gathered }) })
  let g : Gath := { core := 0, ip := if spine then 8 else 0, hdr := 0x1000, header := placedHeader ws, words := ws, pos := 1, members := ms }
  { s with agenda := .issue s.gaths.length 0 :: s.agenda, gaths := s.gaths ++ [g] }

end Sys2Proof.Machine
end

