-- ==== Sys2Proof/Machine/Step.lean ====
section
/-! DEFINITION. One step of the machine: the turn at the head of the agenda, or one that an agent takes by itself. -/

namespace Sys2Proof.Machine

/-- Carry out one turn: a gathering issues its next instruction, or another agent takes a step. -/
def turn (t : Turn) (s : State) : Host.Outcome State Fault Refusal :=
  match t with
  | .issue g wait =>
    match s.issueTurn g wait with
    | .idle s => .next s
    | .run i s =>
      match exec i s with
      | .next s => .next s.endIssue
      | .fault r => .fault r
      | .refused r => .refused r
  | .event i => if i.agentStep then exec i s else .next s

/-- A turn that leads to another state. -/
def changes (s : State) (t : Turn) : Bool :=
  match turn t s with
  | .next s' => s' != s
  | _ => true

/-- A turn that an agent takes by itself. -/
def autoTurn (s : State) : Option Turn := s.triedTurns.find? (changes s)

/-- The state that a turn leads to, with what the schedulers see of it. -/
def observed (o : Host.Outcome State Fault Refusal) : Host.Outcome State Fault Refusal :=
  match o with
  | .next s => .next s.noteReady
  | o => o

/-- One step. -/
def step (s : State) : Host.Outcome State Fault Refusal :=
  let s := s.ticked
  match s.nextTurn with
  | (some t, s) => observed (turn t s)
  | (none, s) =>
    match autoTurn s with
    | some t => observed (turn t s)
    | none => observed (.next s)

/-- `s` with one instruction placed so that the very next step issues it (log entry 2). -/
def State.withFetchWord (s : State) (nbits w : Nat) : State := s.placeInstr nbits w

end Sys2Proof.Machine
end

