-- ==== Sys2Proof/Machine/Terms.lean ====
section
/-! DEFINITION. The terms that statements use: when an instruction issues with every check of R54 passed, what a register reads
as, and what a state, quire or thread is apart from the registers an instruction may write. -/

namespace Sys2Proof

/-- R107, R223, R309: the instructions that checked execution executes more than once, those of the vector and uniform ALU
pipes, and the atomics and copy commands, whose operand and address computations are checked in the same way. -/
def Instr.checked : Instr → Bool
  | .cpdesc .. | .cpload .. | .cpstore .. | .cpgather .. | .cpmcast .. | .cpfill .. | .fetchw ..
  | .growg .. | .atom .. | .cas .. | .red .. | .atomq ..
  | .uniformAluReg .. | .uniformAluImm .. | .moviQ .. | .addQLi .. | .moviI64 .. | .movVq .. | .moviLi .. | .addLi ..
  | .mulLi .. | .madLi .. | .andLi .. | .orLi .. | .xorLi .. | .isetI32Li .. | .isetN32Li .. | .faddLi .. | .fmulLi ..
  | .ffmaLi .. | .fsetLi .. => true
  | i => !(encodeF1 i).isEmpty

/-- The fixed-latency instructions that write v and p registers of each taking thread, and flags, and nothing else. -/
def Instr.vecForm : Instr → Bool
  | .moviLi .. | .addLi .. | .mulLi .. | .madLi .. | .andLi .. | .orLi .. | .xorLi .. | .isetI32Li .. | .isetN32Li ..
  | .faddLi .. | .fmulLi .. | .ffmaLi .. | .fsetLi .. | .plop .. | .lxch .. | .qscan .. | .match_ .. => true
  | i => !(encodeF1 i).isEmpty

/-- The fixed-latency instructions that write q and qp registers or ports of a quire once, and flags, and nothing else. -/
def Instr.uniForm : Instr → Bool
  | .uniformAluReg .. | .uniformAluImm .. | .moviQ .. | .addQLi .. | .moviI64 .. | .qplop .. | .vote .. | .ballot ..
  | .qred .. => true
  | _ => false

/-- The uniform instructions that the spec gives no flag to set: all but the saturating forms and ICVT (R114, R124) and QRED over
floats (R99). -/
def Instr.uniFlagless : Instr → Bool
  | .uniformAluReg op .. | .uniformAluImm op .. => ! [1, 2, 5, 6, 0x2E].contains op.toNat
  | .moviQ .. | .addQLi .. | .moviI64 .. | .qplop .. | .vote .. | .ballot .. => true
  | .qred op .. => decide (op.toNat < 8)
  | _ => false

/-- The vector instructions that the spec gives no flag to set: all of `vecForm` but the saturating integer forms and ICVT
(R114, R124), the arithmetic float forms (R130) and the narrow-format conversions (R166), and QSCAN over floats (R99). -/
def Instr.flagless : Instr → Bool
  | .add .. | .addc .. | .sub .. | .subb .. | .mul .. | .mulhI32 .. | .mulhN32 .. | .mad .. | .madwI32 .. | .madwN32 ..
  | .minI32 .. | .minN32 .. | .maxI32 .. | .maxN32 .. | .and .. | .or .. | .xor .. | .andn .. | .shl .. | .shr .. | .shra ..
  | .rot .. | .funnel .. | .bfeI32 .. | .bfeN32 .. | .bfi .. | .bswz .. | .neg .. | .abs .. | .popc .. | .clz .. | .brev ..
  | .isetI32 .. | .isetN32 .. | .isetI64 .. | .isetN64 .. | .add64 .. | .sub64 .. | .mul64 .. | .shl64 .. | .shr64 ..
  | .shra64 .. | .leaI32 .. | .leaN32 .. | .sel .. | .fclass .. | .pack4 .. | .unpk4 .. | .fslot .. | .moviLi .. | .addLi ..
  | .mulLi .. | .madLi .. | .andLi .. | .orLi .. | .xorLi .. | .isetI32Li .. | .isetN32Li .. | .plop .. | .lxch .. | .match_ .. => true
  | _ => false

end Sys2Proof

namespace Sys2Proof.Machine

/-- R28, R54: the gathering whose turn it is issues `i`: a taking thread is there, no check of R54 fails for one, nothing that R39,
R179, R255, R304 or R251 names holds it back, and the checker of R42 finds nothing. What the meaning then knows of it. -/
def State.ctxOf (s : State) (i : Instr) : Option Ctx :=
  match s.cur with
  | none => none
  | some cur =>
    let g := s.gaths.getD cur.gath Gath.absent
    let takers := s.takersOf g
    match takers with
    | [] => none
    | t0 :: _ =>
      let q := t0.quire
      let hand := (s.thread t0).hand
      let u := s.usesOf q i
      let chk := i.checked && (s.grid (s.gridOf q)).chk
      let now := s.earliest u g takers q hand + cur.wait
      if takers.all (fun t => (s.preFault i t.quire (s.thread t).hand).isNone) && !s.mustWait i u ((s.quire q).role == .spine) takers &&
          takers.all (fun t => !(s.checker now t && s.stallShort u q hand now t)) && s.portsReady (s.quire q).team u then
        some { gi := cur.gath, g := g, takers := takers, q := q, hand := hand, now := now, size := cur.size,
               ctr := u.h.bind (fun h => if h.seten then some h.setd.toNat else none), chk := chk,
               upset := if chk then s.upsetNow else none }
      else none

/-- Register `r` has no result still under way at clock `now` (R41). -/
def settledAt (now : Nat) (pend : List Pend) (busy : List Busy) (r : RegId) : Bool := !notReady now pend busy r

/-- R16, R41: v registers `ns` exist in the thread and none has a result under way. -/
def Thread.hasV (th : Thread) (now : Nat) (ns : List Nat) : Bool :=
  ns.all (fun n => decide (n < th.v.length) && settledAt now th.pend th.busy (.v n))

/-- p registers `ns` below 7 have no result under way. -/
def Thread.hasP (th : Thread) (now : Nat) (ns : List Nat) : Bool :=
  ns.all (fun n => decide (7 ≤ n) || settledAt now th.pend th.busy (.p n))

/-- The content of v register `n`. -/
def Thread.vreg (th : Thread) (n : Nat) : Word := th.v.getD n 0
/-- The pair at v register `n` (R5). -/
def Thread.vpair (th : Thread) (n : Nat) : DWord := pairOf (th.vreg n) (th.vreg (n + 1))
/-- p register `n`; p7 is true (R34). -/
def Thread.preg (th : Thread) (n : Nat) : Bool := n == 7 || th.p.getLsbD n

/-- q registers `ns`, in handler mode when `hand` (R369), exist in the quire and have no result under way. -/
def Quire.hasQ (q : Quire) (now : Nat) (hand : Bool) (ns : List Nat) : Bool :=
  ns.all (fun n => decide (n < 160) && (let m := qName hand n
    if m < 160 then decide (m < q.q.length) else decide (m - 408 < q.hb.length)) && settledAt now q.pend q.busy (.q (qName hand n)))
/-- qp registers `ns` below 7 have no result under way. -/
def Quire.hasQp (q : Quire) (now : Nat) (ns : List Nat) : Bool :=
  ns.all (fun n => decide (7 ≤ n) || settledAt now q.pend q.busy (.qp n))
/-- qp register `n`; qp7 is true (R34). -/
def Quire.qpreg (q : Quire) (n : Nat) : Bool := n == 7 || q.qp.getLsbD n
/-- The content of q register `n`, in handler mode when `hand` (R369). -/
def Quire.qreg (q : Quire) (hand : Bool) (n : Nat) : Word := q.getQ (qName hand n)

/-- A thread apart from its v and p registers, the model's record of results under way, and the clause it stands in. -/
def Thread.rest (th : Thread) : Thread :=
  { th with v := [], p := 0, pend := [], busy := [], tNext := 0, hdr := 0, pos := 0, gov := true, stat := .ready }

/-- A quire apart from its threads, its q and qp registers, `%flags`, and the model's record of results under way. -/
def Quire.rest (q : Quire) : Quire :=
  { q with threads := [], q := [], hb := [], qp := 0, flags := 0, fset := [], pend := [], busy := [] }
/-- No change of `%flags` that the quire still lists clears a bit (R375). -/
def Quire.noClear (q : Quire) : Prop := ∀ e ∈ q.fset, e.clr = 0

/-- A core apart from its clocks, which spine issued last (R309), and its count of majorities (R37, R108, R389). -/
def Core.rest (k : Core) : Core := { k with clock := 0, slots := [], chkCount := 0, quar := false, spineLast := 0 }

/-- The machine apart from its quires, gatherings and cores. -/
def State.rest (s : State) : State := { s with quires := [], gaths := [], cores := [] }

/-- `t` differs from `s` in registers of threads, in results under way, in `%flags`, in clocks, and in how far gatherings have
come, and in nothing else: no memory, no special register, no counter, no other state. -/
def State.sameRest (s t : State) : Prop :=
  t.rest = s.rest ∧ t.quires.map Quire.rest = s.quires.map Quire.rest ∧ t.cores.map Core.rest = s.cores.map Core.rest ∧
  ∀ x, (t.thread x).rest = (s.thread x).rest

/-- The machine without what its teams' queues hold (R35). -/
def State.noQueues (s : State) : State := { s with teams := s.teams.map (fun tm => { tm with queues := [], lastPort := [] }) }

/-- No queue of a port holds another word than before, but for ports `ns` of team `T`. -/
def State.sameQueues (s t : State) (T : Nat) (ns : List Nat) : Prop :=
  ∀ U n, 160 ≤ n → U ≠ T ∨ n ∉ ns → (t.team U).queue n = (s.team U).queue n

/-- What a uniform operand reads as: a q register, or the first word that a port's queue holds (R35). -/
def State.uniReg (s : State) (c : Ctx) (n : Nat) : Word :=
  if n < 160 then (s.quire c.q).qreg c.hand n else (((s.team (s.quire c.q).team).queue n).head?.map PortWord.word).getD 0

/-- Of register numbers, those that are no ports. -/
def notPorts (ns : List Nat) : List Nat := ns.filter (fun n => decide (n < 160))

/-! ### What an instruction gives each taking thread, or its quire -/

/-- Whenever `i` issues, the machine goes on, and every taking thread whose v registers `ns` and `d` are there and settled
then holds `f` of its old registers in v register `d`. -/
def VecGives (i : Instr) (ns : List Nat) (d : Nat) (f : Thread → Word) : Prop :=
  ∀ s c, s.ctxOf i = some c → c.upset ≠ some false → ∃ t, exec i s = .next t ∧
    ∀ x ∈ c.takers, (s.thread x).hasV c.now (d :: ns) = true → (t.thread x).v[d]? = some (f (s.thread x))

/-- The same for a pair at v registers `d` and `d` + 1 (R5). -/
def PairGives (i : Instr) (ns : List Nat) (d : Nat) (f : Thread → DWord) : Prop :=
  ∀ s c, s.ctxOf i = some c → c.upset ≠ some false → ∃ t, exec i s = .next t ∧
    ∀ x ∈ c.takers, (s.thread x).hasV c.now (d :: (d + 1) :: ns) = true →
      (t.thread x).v[d]? = some ((f (s.thread x)).setWidth 32) ∧
      (t.thread x).v[d + 1]? = some ((f (s.thread x) >>> 32).setWidth 32)

/-- The same for p register `p`; a write to p7 is discarded (R34). -/
def PredGives (i : Instr) (ns : List Nat) (p : Nat) (f : Thread → Bool) : Prop :=
  ∀ s c, s.ctxOf i = some c → c.upset ≠ some false → ∃ t, exec i s = .next t ∧
    ∀ x ∈ c.takers, (s.thread x).hasV c.now ns = true → (s.thread x).hasP c.now [p] = true →
      (t.thread x).preg p = if p = 7 then true else f (s.thread x)

/-- Whenever `i` issues, the machine goes on, and if q registers `ns` and `d` and qp registers `ps` of its quire are there and
settled, q register `d` then holds `f` of the quire's old q and qp registers. -/
def UniGives (i : Instr) (ns ps : List Nat) (d : Nat) (f : (Nat → Word) → (Nat → Bool) → Word) : Prop :=
  ∀ s c, s.ctxOf i = some c → c.upset ≠ some false → ∃ t, exec i s = .next t ∧
    ((s.quire c.q).hasQ c.now c.hand (d :: ns) = true → (s.quire c.q).hasQp c.now ps = true → c.q < s.quires.length →
      (t.quire c.q).qreg c.hand d = f ((s.quire c.q).qreg c.hand) (s.quire c.q).qpreg)

/-- R106: whenever `i` issues and no soft error meets it, `%flags` of a quire, with every set applied, gains the flags `f`
when `when_` holds of one of the quire's taking threads, and nothing else, while no MOVSW to `%flags` is under way. -/
def FlagGives (i : Instr) (ns : List Nat) (f : Flags) (when_ : Thread → Bool) : Prop :=
  ∀ s c, s.ctxOf i = some c → c.upset = none → ∃ t, exec i s = .next t ∧
    ((∀ x ∈ c.takers, (s.thread x).hasV c.now ns = true) → ∀ q, q < s.quires.length → (s.quire q).noClear →
      (t.quire q).flagsAll = if c.takers.any (fun x => x.quire == q && when_ (s.thread x)) then setFlags (s.quire q).flagsAll f
        else (s.quire q).flagsAll)

end Sys2Proof.Machine

namespace Sys2Proof.Machine

/-- A binary32 string is a NaN (R131). -/
def isNaN32 (w : Word) : Bool := decide (w.toNat / 2 ^ 23 % 256 = 255) && decide (w.toNat % 2 ^ 23 ≠ 0)
/-- A signalling NaN: the top bit of its fraction is 0 (R131). -/
def isSig32 (w : Word) : Bool := isNaN32 w && !w.getLsbD 22
/-- The place of a binary32 string that is no NaN in the order of values; both zeros have place 0. -/
def place32 (w : Word) : Int := if w.msb then -((w.toNat % 2 ^ 31 : Nat) : Int) else (w.toNat : Int)

/-- A code of a format of `e` exponent and `f` fraction bits is a NaN (R131). -/
def isNaNCode (e f code : Nat) : Bool := decide (code / 2 ^ f % 2 ^ e = 2 ^ e - 1) && decide (code % 2 ^ f ≠ 0)
/-- A code is neither a NaN nor an infinity. -/
def isFinite (e f code : Nat) : Bool := decide (code / 2 ^ f % 2 ^ e ≠ 2 ^ e - 1)
/-- The value of a code that is no NaN, in units of the smallest subnormal value, 2 ^ (2 - 2 ^ (e - 1) - f); an infinity counts as
the value that the next exponent would give, so that it is the one above the largest finite value (R129). -/
def unitsOf (e f code : Nat) : Int :=
  let m := code % 2 ^ f
  let x := code / 2 ^ f % 2 ^ e
  let v : Nat := if x = 0 then m else (2 ^ f + m) * 2 ^ (x - 1)
  if code / 2 ^ (e + f) % 2 = 1 then -(v : Int) else v
/-- Units of a format in 1: 2 to this power. -/
def unitExp (e f : Nat) : Nat := 2 ^ (e - 1) - 2 + f

/-- R129: code `r` is the value of `num / den` units rounded once, to nearest with ties to even: it is no NaN, has the sign of a value
that is not zero, no other code lies nearer, and where another lies as near, `r` is even. -/
def RoundedRne (e f : Nat) (num : Int) (den r : Nat) : Prop :=
  r < 2 ^ (e + f + 1) ∧ isNaNCode e f r = false ∧ (num ≠ 0 → (r / 2 ^ (e + f) = 1 ↔ num < 0)) ∧
  ∀ w, w < 2 ^ (e + f + 1) → isNaNCode e f w = false →
    let R := unitsOf e f r
    let W := unitsOf e f w
    (R < W → 2 * num ≤ (R + W) * den) ∧ (W < R → (R + W) * den ≤ 2 * num) ∧ (W ≠ R → (R + W) * den = 2 * num → r % 2 = 0)

/-- The same of the square root of `num / den`, a value in units squared. -/
def RoundedRoot (e f num den r : Nat) : Prop :=
  r < 2 ^ (e + f) ∧ isNaNCode e f r = false ∧
  ∀ w, w < 2 ^ (e + f) → isNaNCode e f w = false →
    let R := unitsOf e f r
    let W := unitsOf e f w
    (R < W → 4 * (num : Int) ≤ (R + W) ^ 2 * den) ∧ (W < R → (R + W) ^ 2 * den ≤ 4 * (num : Int)) ∧
    (W ≠ R → (R + W) ^ 2 * den = 4 * (num : Int) → r % 2 = 0)

/-- Whenever `i` issues, the machine goes on, and every taking thread whose v registers `ns` and `d`, `d` + 1, ..., one for
each word `f` gives, are there and settled then holds those words. -/
def BlockGives (i : Instr) (ns : State → Ctx → List Nat) (d : Nat) (f : State → Ctx → ThreadId → List Word) : Prop :=
  ∀ s c, s.ctxOf i = some c → c.upset ≠ some false → ∃ t, exec i s = .next t ∧
    ∀ x ∈ c.takers, (s.thread x).hasV c.now (span d (f s c x).length ++ ns s c) = true →
      ∀ k < (f s c x).length, (t.thread x).v[d + k]? = (f s c x)[k]?

end Sys2Proof.Machine

namespace Sys2Proof.Machine

/-! ### Frames -/

/-- Every byte of memory and of chip scratch reads as before. -/
def State.sameMemory (s t : State) : Prop := (∀ a, t.memByte a = s.memByte a) ∧ ∀ k, cellGet t.kmem k = cellGet s.kmem k

/-- Every v, p, q and qp register holds what it held. -/
def State.sameRegs (s t : State) : Prop :=
  (∀ x, (t.thread x).v = (s.thread x).v ∧ (t.thread x).p = (s.thread x).p) ∧
  ∀ q, (t.quire q).q = (s.quire q).q ∧ (t.quire q).hb = (s.quire q).hb ∧ (t.quire q).qp = (s.quire q).qp

/-- The trap registers, modes and return stack of a thread (Table 15.1, R88). -/
def Thread.special (th : Thread) : Word × DWord × DWord × DWord × List Word × Bool × Bool × List Addr × Nat :=
  (th.tcause, th.tpc, th.thdr, th.taddr, th.tsc, th.hand, th.dbg, th.rstack, th.spilled)

/-- Every special register holds what it held: those of threads, `%flags`, the partition blocks and the device block. -/
def State.sameSpecial (s t : State) : Prop :=
  (∀ x, (t.thread x).special = (s.thread x).special) ∧
  (∀ q, (t.quire q).flags = (s.quire q).flags ∧ (t.quire q).fset = (s.quire q).fset) ∧ t.parts = s.parts ∧ t.dev = s.dev

/-- No operation of the matrix units of these gangs' teams is under way (R293). -/
def State.unitStill (s : State) (gs : List Nat) : Prop :=
  ∀ g ∈ gs, ∀ k ∈ s.cores, ∀ r ∈ k.unit.ops, r.team ∈ (s.gang g).teams → r.started = false ∧ ∀ w ∈ s.watch, w.owner ≠ r.id

/-- No thread's record is out (R384): no reply is due to memory in place of a register. -/
def State.noneOut (s : State) : Prop := ∀ x, (s.thread x).out = false

/-- R39: the counters of a thread after an instruction that counts for threads `ts`. -/
def countersAfter (c : Ctx) (ts : List ThreadId) (s : State) (x : ThreadId) : List (BitVec 6) :=
  match c.ctr with
  | some k => if x ∈ ts then (s.thread x).d.modify k (· + 1) else (s.thread x).d
  | none => (s.thread x).d

/-! ### Memory instructions -/

end Sys2Proof.Machine

namespace Sys2Proof

/-- The instructions that access memory through requests (R194, R201, R218, R229, R231, R253). -/
def Instr.accesses : Instr → Bool
  | .ld .. | .ldSh .. | .st .. | .stSh .. | .ldq .. | .ldqSh .. | .stq .. | .stqSh .. | .cmaint .. | .atom .. | .cas ..
  | .red .. | .atomq .. | .stamp .. | .nred .. | .waitc .. => true
  | _ => false

/-- Those that access memory once for the gathering. -/
def Instr.onceAccess : Instr → Bool
  | .ldq .. | .ldqSh .. | .stq .. | .stqSh .. | .atomq .. | .nred .. | .waitc .. => true
  | _ => false

end Sys2Proof

namespace Sys2Proof.Machine

/-- The threads for which a memory instruction forms an address. -/
def Ctx.accessors (c : Ctx) (i : Instr) : List ThreadId := if i.onceAccess then [c.lead] else c.takers

/-- The access of a memory instruction for a thread, its address formed and checked (R195). -/
def State.accessOf (s : State) (c : Ctx) (x : ThreadId) : Instr → Check
  | .ld _ m | .ldSh _ m =>
    let n := sizeBytes m.size
    s.checkAccess x .read m.space (s.baseOf c m.space m.a + s.vIdx c x m.b * n + m.imm.toInt) n n
  | .st _ m | .stSh _ m =>
    let n := sizeBytes m.size
    s.checkAccess x .write m.space (s.baseOf c m.space m.a + s.vIdx c x m.b * n + m.imm.toInt) n n
  | .ldq _ m | .ldqSh _ m =>
    let n := sizeBytes m.size
    s.checkAccess x .read m.space (s.baseOf c m.space m.a + s.qIdx c m.b * n + m.imm.toInt) n n
  | .stq _ m | .stqSh _ m =>
    let n := sizeBytes m.size
    s.checkAccess x .write m.space (s.baseOf c m.space m.a + s.qIdx c m.b * n + m.imm.toInt) n n
  | .atom _ m | .cas _ m =>
    let n := atomSize m.w
    s.checkAccess x .rw (gkSpace m.k) (s.baseOf c (gkSpace m.k) m.a + s.vIdx c x m.b * n + m.imm.toInt) n n
  | .red _ m =>
    let n := atomSize m.w
    s.checkAccess x .write (gkSpace m.k) (s.baseOf c (gkSpace m.k) m.a + s.vIdx c x m.b * n + m.imm.toInt) n n
  | .atomq _ m =>
    let n := atomSize m.w
    s.checkAccess x .rw (gkSpace m.k) (s.baseOf c (gkSpace m.k) m.a + s.qIdx c m.b * n + m.imm.toInt) n n
  | .stamp _ k _ _ _ _ _ a b => s.checkAccess x .write (gkSpace k) (s.baseOf c (gkSpace k) a + s.vIdx c x b * 128) 128 128
  | .nred _ _ _ a _ _ => s.checkAccess x .write .g (s.baseOf c .g a) 128 128
  | .waitc _ wide _ k _ _ a _ =>
    let n := if wide then 8 else 4
    s.checkAccess x .read (gkSpace k) (s.baseOf c (gkSpace k) a) n n
  | .cmaint _ op sp a b imm =>
    s.checkAccess x (if op = 1 then .write else .read) sp (s.baseOf c sp a + s.vIdx c x b + imm.toInt) 1 1
  | _ => .ok []

/-- The lines of memory and of chip scratch that the accesses of an instruction touch: one request each (R198). -/
def Ctx.linesOf (c : Ctx) (i : Instr) (ps : ThreadId → List Chunk) : List Nat :=
  ((((c.accessors i).flatMap ps).map (·.place)).filter (fun p => match p with | .scratch .. => false | _ => true)).map Place.key |>.eraseDups

/-- Every access of the instruction passes its checks and may go at once: `ps` gives each thread's places, no release of the
thread holds a line of them (R179), the core has room for one request to each line (R187), and a soft error under checked
execution leaves a majority (R108, R223). -/
def State.goes (s : State) (c : Ctx) (i : Instr) (ps : ThreadId → List Chunk) : Prop :=
  (∀ x ∈ c.accessors i, s.accessOf c x i = .ok (ps x) ∧ s.lineHeld { thread := x, chunks := ps x } = false) ∧
  s.outstanding c.g.core + (c.linesOf i ps).length ≤ 3072 ∧ c.upset ≠ some false

/-- Every page that a table maps stands under its KEY already, and no frame has a second page size: a walk changes no byte
(R186, R393). -/
def State.pagesSettled (s : State) : Prop := ∀ core root vas, s.sameMemory (s.usePages core root vas)

/-- The data bytes that a store or atomic takes from the registers of a thread, or of its quire (R197, R220). -/
def State.dataOf (s : State) (c : Ctx) (x : ThreadId) : Instr → List Byte
  | .st _ m | .stSh _ m => s.vBytes c.now x m.d.toNat (sizeBytes m.size)
  | .stq _ m | .stqSh _ m => s.qBytes c m.d.toNat (sizeBytes m.size)
  | .atom _ m | .red _ m => s.vBytes c.now x m.d.toNat (atomSize m.w)
  | .cas _ m => s.vBytes c.now x m.d.toNat (2 * atomSize m.w)
  | .atomq _ m => s.qBytes c m.d.toNat (atomSize m.w)
  | _ => []

/-- Stores, whose data is cut to the pieces of an access; an atomic's operand goes whole. -/
def pieceData (i : Instr) (bs : List Byte) (ch : Chunk) : List Byte :=
  match i with
  | .st .. | .stSh .. | .stq .. | .stqSh .. => (bs.drop ch.off).take ch.size
  | _ => bs

/-- Instructions that bring data to memory through requests. -/
def bringsData : Instr → Bool
  | .st .. | .stSh .. | .stq .. | .stqSh .. | .atom .. | .red .. | .cas .. | .atomq .. => true
  | _ => false

/-- The byte `v` of memory address `b` has left a thread of the core: it stands dirty in the core's L1, or a store's or a
write-back's request takes it to its home slice (R176 to R179). -/
def State.brings (t : State) (core b : Nat) (v : Byte) : Prop :=
  (∃ l ∈ (t.core core).lines, l.line = b / 128 ∧ l.dirty.getLsbD (b % 128) = true ∧ l.valid.getLsbD (b % 128) = true ∧
    (l.data >>> (8 * (b % 128))).setWidth 8 = v) ∨
  (∃ r ∈ t.net, r.core = core ∧ r.k = false ∧ r.kind = .store ∧ r.line = b / 128 ∧
    (r.items.filterMap (fun it => if it.off ≤ b % 128 then it.data[b % 128 - it.off]? else none)).getLast? = some v) ∨
  ∃ r ∈ t.net, r.core = core ∧ r.k = false ∧ r.kind = .writeback ∧ r.line = b / 128 ∧ r.mask.getLsbD (b % 128) = true ∧
    (r.data >>> (8 * (b % 128))).setWidth 8 = v

/-- A request of the operation `id` carries bytes `bs` of thread `x` to place `p`. -/
def State.carries (t : State) (id : Nat) (x : ThreadId) (p : Place) (bs : List Byte) : Prop :=
  ∃ r ∈ t.net, r.op = id ∧ (match p with
      | .g pa => r.k = false ∧ r.line = pa / 128
      | .k a => r.k = true ∧ r.line = a / 128
      | .scratch .. => True) ∧
    ∃ it ∈ r.items, it.thread = x ∧ it.off = p.off ∧ it.data = bs

/-! ### Barriers -/

/-- What an instruction that arrives at a barrier asks for: kind, number, scope, the register of the awaited phase, and
whether it waits (R241, R243). -/
def State.arrivalOf (s : State) (c : Ctx) : Instr → Option (BarKind × Nat × Scope × Option Nat × Bool)
  | .bararv _ f => some (barKind f, s.barNum c f, f.scope, some f.v.toNat, false)
  | .barsyn _ f => some (barKind f, s.barNum c f, f.scope, none, true)
  | .gbar _ k d _ scope n => if k = 1 then none else some (.grid, n.toNat, scope, if k = 0 then some d.toNat else none, k != 0)
  | _ => none

/-- A barrier after threads `ts` have arrived, when `pop` is its population (R239). -/
def barrierAfter (b : Barrier) (pop ts : List ThreadId) : Barrier :=
  let arr := b.arrived ++ ts.filter (fun t => !b.arrived.contains t)
  if pop.all arr.contains then
    { b with ph := b.ph + 1, arrived := [], carve := none, old := b.old || decide (2 ^ 31 ≤ b.ph.toNat + 1),
             far := b.far.map (fun z => (z.1, 0, z.2.2)) }
  else { b with arrived := arr }
/-- R241: a barrier's phase has reached what a waiter awaits; or not, and no free choice is open (log entry 57). -/
def Barrier.reached (b : Barrier) (e : Word) : Prop := 0 ≤ (b.ph - e).toInt
/-- R241: the awaited phase is still to come: the next one, or a later one at a barrier younger than 2^31 phases. -/
def Barrier.toCome (b : Barrier) (e : Word) : Prop := (b.ph - e).toInt = -1 ∨ ((b.ph - e).toInt < 0 ∧ b.old = false)

/-! ### Traps -/

/-- Thread `x` has taken trap `tr` at resume address `hdr` + 4 × `pos` (R367): the cause, the two addresses, the fault address
of the codes that have one, handler mode, and the vector. -/
def State.trapped (s t : State) (x : ThreadId) (hdr : Addr) (pos : Nat) (tr : Trap) : Prop :=
  (t.thread x).tcause = BitVec.ofNat 32 (tr.detail * 256 + tr.code.num) ∧
  (t.thread x).thdr = hdr.setWidth 64 ∧ (t.thread x).tpc = (hdr + BitVec.ofNat 48 (4 * pos)).setWidth 64 ∧
  (t.thread x).taddr = (if tr.code.hasAddr then BitVec.ofNat 64 tr.addr else 0) ∧
  (t.thread x).hand = true ∧ (t.thread x).stat = .ready ∧ (t.thread x).pos = 0 ∧
  (t.thread x).hdr = ((s.part (s.partOfCore (s.quire x.quire).core)).tvec).setWidth 48

/-- A trap of thread `x` enters its handler at once: it is no spine and not in handler mode, its partition has a vector, and
no older instruction of it has still to write (R367 step 1, R370). -/
def State.entersAt (s : State) (x : ThreadId) : Prop :=
  (s.quire x.quire).role ≠ .spine ∧ (s.thread x).hand = false ∧ s.olderWrites x = false ∧
  (s.part (s.partOfCore (s.quire x.quire).core)).tvec ≠ 0

/-- Threads `xs` enter their handlers, each with its own trap, at the instruction that issues. -/
def State.allTrapped (s t : State) (c : Ctx) (tr : ThreadId → Trap) : Prop := ∀ x ∈ c.takers, s.trapped t x c.g.hdr c.g.pos (tr x)

/-- R370: thread `x` has stopped where it trapped, and its gang is to be killed with the trap code as cause, unless it is dead or to be
killed already. -/
def State.stoppedBy (s t : State) (x : ThreadId) (code : TrapCode) : Prop :=
  let g := s.gangOf x.quire
  (t.thread x).stat = .dead ∧ ((s.gang g).dead = false → (∀ k ∈ s.kills, k.gang ≠ g) → t.kills = s.kills ++ [{ gang := g, cause := code.num }])

/-- R370: thread `x` enters no handler: it is a spine's, or in handler mode, or its partition has no trap vector. -/
def State.entersNone (s : State) (x : ThreadId) : Prop :=
  (s.quire x.quire).role = .spine ∨ (s.thread x).hand = true ∨ (s.part (s.partOfCore (s.quire x.quire).core)).tvec = 0

/-! ### Operands of the synchronisation, matrix, copy and bag instructions -/

/-- Every q register that the instruction reads is there and settled. -/
def State.qReady (s : State) (c : Ctx) (i : Instr) : Prop := (s.quire c.q).hasQ c.now c.hand i.uses.rq = true
/-- A q register's content. -/
def State.qv (s : State) (c : Ctx) (r : Reg8) : Word := (s.quire c.q).qreg c.hand r.toNat
/-- A q register's content as a number. -/
def State.qn (s : State) (c : Ctx) (r : Reg8) : Nat := (s.qv c r).toNat
/-- The word that names a handle (R237, R248). -/
def State.wordOf (s : State) (c : Ctx) : HWord → Nat | .imm x => x.toNat | .reg q => s.qn c q
/-- The number that names a barrier or station (R237). -/
def State.numOf (s : State) (c : Ctx) : ObjName → Nat | .imm n => n.toNat | .reg q => s.qn c q

/-- Operations have identities of their own, each below the next one to be given out. -/
abbrev State.opsOk (s : State) : Prop := (∀ o ∈ s.ops, o.id < s.nextId) ∧ (s.ops.map Op.id).Nodup

/-- R340: a bag whose frames are distinct pages of its partition's memory and whose record lies within them. -/
def State.soundBag (s : State) (b : Bag) : Prop :=
  shapeOk b.shape = true ∧ b.frames.length = shapeB b.shape ∧ b.frames.Nodup ∧ b.cap * shapeF b.shape ≤ 65536 ∧
  (∀ f ∈ b.frames, f % 65536 = 0 ∧ ∀ i < 65536, s.partOfPa (f + i) = b.part) ∧ (∀ n ∈ b.fp, n ≤ b.cap) ∧
  b.fp.length = shapeB b.shape ∧ b.cut.length = shapeB b.shape ∧ b.r.length = shapeB b.shape ∧ ∀ g ∈ b.groups, g.fill < shapeG b.shape
/-- Slot `i` of share `sh` of a bag holds in `t` the record that slot `j` held in `s`, byte for byte where nothing of `t` is open. -/
def State.sameRecord (s t : State) (b : Bag) (sh i j : Nat) : Prop :=
  ∀ n < shapeRS b.shape, t.isOpen (b.slotPa sh i + n) = false → t.memByte (b.slotPa sh i + n) = s.memByte (b.slotPa sh j + n)

/-- Table 7.1: exponent and fraction bits of a 4- or 8-bit float format. -/
def elemFields : Elem → Nat × Nat | .e2m1 => (2, 1) | .e4m3 => (4, 3) | _ => (5, 2)
/-- Table 7.1: a code of such a format is a number. -/
def elemPlain (el : Elem) (code : Nat) : Bool :=
  match el with
  | .e2m1 => decide (code ≠ 8)
  | .e4m3 => decide (code % 128 ≠ 127)
  | .e5m2 => decide (code / 4 % 32 ≠ 31)
  | _ => false

/-- A thread goes on: it is in its gathering, or past its clause. -/
def State.goesOn (t : State) (x : ThreadId) : Prop := (t.thread x).stat = .gathered ∨ (t.thread x).stat = .ready

end Sys2Proof.Machine

namespace Sys2Proof

/-- The station of an instruction that signs (R287). -/
def Instr.station? : Instr → Option ObjName
  | .mload _ n _ _ _ _ | .mswap _ n | .mstream _ n _ _ _ _ _ _ | .mzero _ n _ _ | .mfill _ n _ _ _ _ _
  | .mdrain _ n _ _ _ _ _ _ _ | .mdrainv _ n _ _ _ _ => some n
  | _ => none

end Sys2Proof

namespace Sys2Proof.Machine

/-- R404: event `code` with its grid and data has gone to the ring of partition `p`: into the entry at EQ_TAIL when one is free,
changing no other byte of memory, and none of another partition's (R24); else into the held ones, or lost and counted. -/
def State.eventPut (s t : State) (p code : Nat) (grid : Word) (data : Nat) : Prop :=
  let x := s.part p
  let y := t.part p
  let bs := leBytes 4 code ++ leBytes 4 grid.toNat ++ leBytes 8 data
  let at_ := x.eqBase + 16 * (x.eqTail % x.eqSize)
  if (x.eqTail + 2 ^ 32 - x.eqHead) % 2 ^ 32 < x.eqSize then
    y.eqTail = (x.eqTail + 1) % 2 ^ 32 ∧ y.held = x.held ∧ y.eqLost = x.eqLost ∧
    ∀ a, t.memByte a = if at_ ≤ a ∧ a < at_ + 16 ∧ s.isOpen a = false ∧ s.partOfPa (max at_ (a / 128 * 128)) = p then bs.getD (a - at_) 0
      else s.memByte a
  else
    y.eqTail = x.eqTail ∧ (∀ a, t.memByte a = s.memByte a) ∧
    if x.held.length < 64 then y.held = x.held ++ [bs] ∧ y.eqLost = x.eqLost else y.held = x.held ∧ y.eqLost = x.eqLost + 1

/-- R39: the operation `o` is over for thread `x`: its counter has fallen. -/
def State.counted (s t : State) (o : Op) (x : ThreadId) : Prop :=
  (t.thread x).d = match o.ctr with | some k => (s.thread x).d.modify k (fun n => if n = 0 then 0 else n - 1) | none => (s.thread x).d

end Sys2Proof.Machine
end

