-- ==== Sys2Proof/Safety.lean ====
section
/-! DEFINITION. What counts as a safe run, and the terms that claims use. -/

namespace Sys2Proof.Machine

/-- A step that answers a next state: no fault, no refusal. -/
def SafeStep (s : State) : Prop := ∃ t, step s = .next t

/-- The canonical form of the machine's byte stores: physical memory and chip scratch. -/
abbrev State.memWf (s : State) : Prop := cellWf s.mem = true ∧ cellWf s.kmem = true

/-- The canonical form of every byte store of the machine: those, and each team's core scratch. -/
abbrev State.cellsWf (s : State) : Prop := s.memWf ∧ ∀ t ∈ s.teams, cellWf t.scratch = true

end Sys2Proof.Machine
end

