-- ==== Sys2Proof/Certificates/Slice0/Obligations.lean ====
section
/-! DEFINITION. The statements for the provers. -/

open Sys2Proof Sys2Proof.Machine

/-- R114, Table 5.3: ADD, SUB, MIN, MAX and the logic operations write x[31:0]; a saturating form writes sat(x, lo, hi) and
sets SAT when that differs from x. -/
def Obligations.IntegerTwoOperand : Prop :=
  ∀ (d a b : Reg7) (st : BitVec 3),
    let ns := [a.toNat, b.toNat]
    let u := fun (r : Reg7) (th : Thread) => ((th.vreg r.toNat).toNat : Int)
    let z := fun (r : Reg7) (th : Thread) => (th.vreg r.toNat).toInt
    let lowOf := fun (x : Thread → Int) (th : Thread) => BitVec.ofInt 32 (x th)
    let clamp := fun (lo hi : Int) (x : Thread → Int) (th : Thread) => max lo (min hi (x th))
    let sat := fun (i : Instr) (lo hi : Int) (x : Thread → Int) =>
      VecGives i ns d.toNat (lowOf (clamp lo hi x)) ∧ FlagGives i ns fSAT (fun th => decide (clamp lo hi x th ≠ x th))
    VecGives (.add d a b st) ns d.toNat (lowOf fun th => u a th + u b th) ∧
    VecGives (.sub d a b st) ns d.toNat (lowOf fun th => u a th - u b th) ∧
    VecGives (.minI32 d a b st) ns d.toNat (lowOf fun th => min (z a th) (z b th)) ∧
    VecGives (.maxI32 d a b st) ns d.toNat (lowOf fun th => max (z a th) (z b th)) ∧
    VecGives (.minN32 d a b st) ns d.toNat (lowOf fun th => min (u a th) (u b th)) ∧
    VecGives (.maxN32 d a b st) ns d.toNat (lowOf fun th => max (u a th) (u b th)) ∧
    VecGives (.and d a b st) ns d.toNat (fun th => th.vreg a.toNat &&& th.vreg b.toNat) ∧
    VecGives (.or d a b st) ns d.toNat (fun th => th.vreg a.toNat ||| th.vreg b.toNat) ∧
    VecGives (.xor d a b st) ns d.toNat (fun th => th.vreg a.toNat ^^^ th.vreg b.toNat) ∧
    VecGives (.andn d a b st) ns d.toNat (fun th => th.vreg a.toNat &&& ~~~ th.vreg b.toNat) ∧
    sat (.addI32Sat d a b st) (-2147483648) 2147483647 (fun th => z a th + z b th) ∧
    sat (.addN32Sat d a b st) 0 4294967295 (fun th => u a th + u b th) ∧
    sat (.subI32Sat d a b st) (-2147483648) 2147483647 (fun th => z a th - z b th) ∧
    sat (.subN32Sat d a b st) 0 4294967295 (fun th => u a th - u b th)

/-- R115: ADDC and SUBB take their carry from P6 and leave the next one there. -/
def Obligations.CarryChain : Prop :=
  ∀ (d a b : Reg7) (st : BitVec 3),
    let ns := [a.toNat, b.toNat]
    let u := fun (r : Reg7) (th : Thread) => ((th.vreg r.toNat).toNat : Int)
    let p6 := fun (th : Thread) => ((th.preg 6).toNat : Int)
    let gives := fun (i : Instr) (x : Thread → Int) (carry : Int → Bool) =>
      ∀ s c, s.ctxOf i = some c → c.upset ≠ some false → ∃ t, exec i s = .next t ∧
        ∀ y ∈ c.takers, (s.thread y).hasV c.now (d.toNat :: ns) = true → (s.thread y).hasP c.now [6] = true →
          (t.thread y).v[d.toNat]? = some (BitVec.ofInt 32 (x (s.thread y))) ∧ (t.thread y).preg 6 = carry (x (s.thread y))
    gives (.addc d a b st) (fun th => u a th + u b th + p6 th) (fun x => decide (x / 2 ^ 32 % 2 = 1)) ∧
    gives (.subb d a b st) (fun th => u a th - u b th - p6 th) (fun x => decide (x < 0))

/-- R116: the multiply family. -/
def Obligations.Multiplies : Prop :=
  ∀ (d a b : Reg7) (st : BitVec 3),
    let ns := [a.toNat, b.toNat]
    let u := fun (r : Reg7) (th : Thread) => ((th.vreg r.toNat).toNat : Int)
    let z := fun (r : Reg7) (th : Thread) => (th.vreg r.toNat).toInt
    let pairD := fun (th : Thread) => ((th.vpair d.toNat).toNat : Int)
    VecGives (.mul d a b st) ns d.toNat (fun th => BitVec.ofInt 32 (u a th * u b th)) ∧
    VecGives (.mulhI32 d a b st) ns d.toNat (fun th => BitVec.ofInt 32 (z a th * z b th / 2 ^ 32)) ∧
    VecGives (.mulhN32 d a b st) ns d.toNat (fun th => BitVec.ofInt 32 (u a th * u b th / 2 ^ 32)) ∧
    VecGives (.mad d a b st) ns d.toNat (fun th => BitVec.ofInt 32 (u a th * u b th + u d th)) ∧
    PairGives (.madwI32 d a b st) ns d.toNat (fun th => BitVec.ofInt 64 (z a th * z b th + pairD th)) ∧
    PairGives (.madwN32 d a b st) ns d.toNat (fun th => BitVec.ofInt 64 (u a th * u b th + pairD th)) ∧
    ∀ i ∈ [(.mul d a b st : Instr), .mulhI32 d a b st, .mulhN32 d a b st, .mad d a b st, .madwI32 d a b st, .madwN32 d a b st],
      FlagGives i [] 0 (fun _ => false)

/-- R117: the shifts and ROT take all 32 bits of their count. -/
def Obligations.Shifts : Prop :=
  ∀ (d a b : Reg7) (st : BitVec 3),
    let ns := [a.toNat, b.toNat]
    let n := fun (th : Thread) => (th.vreg b.toNat).toNat
    let w := fun (th : Thread) => th.vreg a.toNat
    VecGives (.shl d a b st) ns d.toNat (fun th => if n th ≥ 32 then 0 else BitVec.ofNat 32 ((w th).toNat * 2 ^ n th)) ∧
    VecGives (.shr d a b st) ns d.toNat (fun th => if n th ≥ 32 then 0 else BitVec.ofNat 32 ((w th).toNat / 2 ^ n th)) ∧
    VecGives (.shra d a b st) ns d.toNat (fun th =>
      if n th ≥ 32 then (if (w th).getLsbD 31 then 0xFFFFFFFF else 0) else BitVec.ofInt 32 ((w th).toInt / 2 ^ n th)) ∧
    VecGives (.rot d a b st) ns d.toNat (fun th => (w th ++ w th : BitVec 64).extractLsb' (32 - n th % 32) 32)

/-- R118: the 64-bit operations act on pairs, apart from a shift count, which is one register. -/
def Obligations.PairOperations : Prop :=
  ∀ (d a b : Reg7) (st : BitVec 3),
    let pp := [a.toNat, a.toNat + 1, b.toNat, b.toNat + 1]
    let p1 := [a.toNat, a.toNat + 1, b.toNat]
    let x := fun (th : Thread) => th.vpair a.toNat
    let y := fun (th : Thread) => th.vpair b.toNat
    let n := fun (th : Thread) => (th.vreg b.toNat).toNat
    PairGives (.add64 d a b st) pp d.toNat (fun th => x th + y th) ∧
    PairGives (.sub64 d a b st) pp d.toNat (fun th => x th - y th) ∧
    PairGives (.mul64 d a b st) pp d.toNat (fun th => x th * y th) ∧
    PairGives (.shl64 d a b st) p1 d.toNat (fun th => if n th ≥ 64 then 0 else BitVec.ofNat 64 ((x th).toNat * 2 ^ n th)) ∧
    PairGives (.shr64 d a b st) p1 d.toNat (fun th => if n th ≥ 64 then 0 else BitVec.ofNat 64 ((x th).toNat / 2 ^ n th)) ∧
    PairGives (.shra64 d a b st) p1 d.toNat (fun th =>
      if n th ≥ 64 then (if (x th).getLsbD 63 then BitVec.allOnes 64 else 0) else BitVec.ofInt 64 ((x th).toInt / 2 ^ n th))

/-- R119: FUNNEL, BFE, BFI and BSWZ. -/
def Obligations.BitFields : Prop :=
  ∀ (d a b : Reg7) (st : BitVec 3),
    let ns := [a.toNat, b.toNat]
    let ra := fun (th : Thread) => th.vreg a.toNat
    let rb := fun (th : Thread) => th.vreg b.toNat
    let rd := fun (th : Thread) => th.vreg d.toNat
    let pos := fun (th : Thread) => min ((rb th).toNat % 256) 32
    let w := fun (th : Thread) => min ((rb th).toNat / 256 % 256) (32 - pos th)
    let field := fun (th : Thread) => (ra th).toNat / 2 ^ pos th % 2 ^ w th
    let swz := fun (th : Thread) (k : Nat) =>
      let e := (rd th).toNat / 2 ^ (8 * k) % 256
      let byte := (rb th ++ ra th : BitVec 64).toNat / 2 ^ (8 * (e % 8)) % 256
      match e / 8 % 4 with | 0 => byte | 1 => 0 | 2 => if byte ≥ 128 then 255 else 0 | _ => 255
    VecGives (.funnel d a b st) ns d.toNat (fun th =>
      BitVec.ofNat 32 ((ra th ++ rb th : BitVec 64).toNat / 2 ^ min (rd th).toNat 32)) ∧
    VecGives (.bfeN32 d a b st) ns d.toNat (fun th => if w th = 0 then 0 else BitVec.ofNat 32 (field th)) ∧
    VecGives (.bfeI32 d a b st) ns d.toNat (fun th =>
      if w th = 0 then 0 else BitVec.ofInt 32 (if field th < 2 ^ (w th - 1) then (field th : Int) else field th - 2 ^ w th)) ∧
    (∀ s c, s.ctxOf (.bfi d a b st) = some c → c.upset ≠ some false → ∃ t, exec (.bfi d a b st) s = .next t ∧
      ∀ y ∈ c.takers, (s.thread y).hasV c.now (d.toNat :: ns) = true → ∃ r : Word, (t.thread y).v[d.toNat]? = some r ∧
        ∀ j < 32, r.getLsbD j = if pos (s.thread y) ≤ j ∧ j < pos (s.thread y) + w (s.thread y)
          then (ra (s.thread y)).getLsbD (j - pos (s.thread y)) else (rd (s.thread y)).getLsbD j) ∧
    VecGives (.bswz d a b st) ns d.toNat (fun th =>
      BitVec.ofNat 32 (swz th 0 + 2 ^ 8 * swz th 1 + 2 ^ 16 * swz th 2 + 2 ^ 24 * swz th 3))

/-- R120: the unary operations. -/
def Obligations.UnaryOperations : Prop :=
  ∀ (d a : Reg7) (st : BitVec 3),
    let ra := fun (th : Thread) => th.vreg a.toNat
    VecGives (.neg d a st) [a.toNat] d.toNat (fun th => BitVec.ofInt 32 (0 - (ra th).toNat)) ∧
    VecGives (.abs d a st) [a.toNat] d.toNat (fun th => if (ra th).toInt < 0 then BitVec.ofInt 32 (0 - (ra th).toNat) else ra th) ∧
    VecGives (.popc d a st) [a.toNat] d.toNat (fun th => BitVec.ofNat 32 ((List.range 32).countP (fun j => (ra th).getLsbD j))) ∧
    VecGives (.clz d a st) [a.toNat] d.toNat (fun th =>
      BitVec.ofNat 32 (if ra th = 0 then 32 else 31 - Nat.log2 (ra th).toNat)) ∧
    (∀ s c, s.ctxOf (.brev d a st) = some c → c.upset ≠ some false → ∃ t, exec (.brev d a st) s = .next t ∧
      ∀ y ∈ c.takers, (s.thread y).hasV c.now [d.toNat, a.toNat] = true → ∃ r : Word, (t.thread y).v[d.toNat]? = some r ∧
        ∀ j < 32, r.getLsbD j = (ra (s.thread y)).getLsbD (31 - j))

/-- R121: ISET writes a predicate from an integer comparison, signed or unsigned, of registers or pairs. -/
def Obligations.IntegerCompares : Prop :=
  ∀ (p : BitVec 3) (cond : BitVec 4) (a b : Reg7) (st : BitVec 3), cond.toNat ≤ 5 →
    let r := fun (n : Reg7) (th : Thread) => th.vreg n.toNat
    let q := fun (n : Reg7) (th : Thread) => th.vpair n.toNat
    let holds := fun (x y : Int) =>
      match cond.toNat with
      | 0 => decide (x = y) | 1 => decide (x ≠ y) | 2 => decide (x < y)
      | 3 => decide (x ≤ y) | 4 => decide (x > y) | _ => decide (x ≥ y)
    PredGives (.isetI32 p cond a b st) [a.toNat, b.toNat] p.toNat (fun th => holds (r a th).toInt (r b th).toInt) ∧
    PredGives (.isetN32 p cond a b st) [a.toNat, b.toNat] p.toNat (fun th => holds (r a th).toNat (r b th).toNat) ∧
    PredGives (.isetI64 p cond a b st) [a.toNat, a.toNat + 1, b.toNat, b.toNat + 1] p.toNat
      (fun th => holds (q a th).toInt (q b th).toInt) ∧
    PredGives (.isetN64 p cond a b st) [a.toNat, a.toNat + 1, b.toNat, b.toNat + 1] p.toNat
      (fun th => holds (q a th).toNat (q b th).toNat)

/-- R123: LEA adds a scaled index to a base pair, wrapping at 64 bits. -/
def Obligations.AddressForming : Prop :=
  ∀ (k : BitVec 2) (d a b : Reg7) (st : BitVec 3),
    let ns := [a.toNat, a.toNat + 1, b.toNat]
    PairGives (.leaI32 k d a b st) ns d.toNat (fun th =>
      BitVec.ofInt 64 ((th.vpair a.toNat).toNat + (th.vreg b.toNat).toInt * 2 ^ k.toNat)) ∧
    PairGives (.leaN32 k d a b st) ns d.toNat (fun th =>
      BitVec.ofNat 64 ((th.vpair a.toNat).toNat + (th.vreg b.toNat).toNat * 2 ^ k.toNat))

/-- The frame of the fixed-latency vector instructions (chapters 04 to 07): every one of them, whenever it issues, answers a
next state in which only its destination registers in its taking threads, their quires' flags, and clocks have changed. Memory, uniform
registers, special registers, counters and the return stack are as before; a register at or above REGS stays absent (R16). The
same of MOV vD, qA (`movVq`, R122), which takes a word of the queue when A is a port (R35) and changes no other queue. -/
def Obligations.VectorFrame : Prop :=
  ∀ (i : Instr) (s : State) (c : Ctx), (i.vecForm = true ∨ ∃ d a st, i = .movVq d a st) → s.ctxOf i = some c → c.upset ≠ some false →
    ∃ t, exec i s = .next t ∧ (portsOf i.uses.rq = [] → s.sameRest t) ∧ s.noQueues.sameRest t.noQueues ∧
      s.sameQueues t (s.quire c.q).team i.uses.rq ∧ (∀ a, t.memByte a = s.memByte a) ∧
      (∀ r, (t.quire r).q = (s.quire r).q ∧ (t.quire r).hb = (s.quire r).hb ∧ (t.quire r).qp = (s.quire r).qp) ∧
      (∀ r, ((i.flagless = true ∨ i.vecForm = false) ∧ c.upset = none) ∨ (∀ x ∈ c.takers, x.quire ≠ r) →
        (t.quire r).flags = (s.quire r).flags ∧ (t.quire r).fset = (s.quire r).fset) ∧
      ∀ x, (t.thread x).v.length = (s.thread x).v.length ∧
        (∀ n, x ∉ c.takers ∨ n ∉ (s.usesOf c.q i).wv → (t.thread x).v[n]? = (s.thread x).v[n]?) ∧
        (∀ n, x ∉ c.takers ∨ n ∉ (s.usesOf c.q i).wp → (t.thread x).preg n = (s.thread x).preg n)

/-- R46, R111: the uniform ALU, register and immediate form, does what Table 2.6 gives for its opcode, on q registers and
pairs in place of v registers, with qp6 for the carry of ADDC and SUBB and qp(SUB[2:0]) for SEL; IMM10 is sign-extended. A port
that an operand names gives the first word of its queue, and one that D names takes the result as its last (R35). -/
def Obligations.UniformAlu : Prop :=
  ∀ (op : BitVec 6) (d a : Reg8) (b : Reg8 ⊕ BitVec 10) (st : BitVec 3),
    let i : Instr := match b with | .inl r => .uniformAluReg op d a r st | .inr imm => .uniformAluImm op d a imm st
    i.wf = true →
    let sel : BitVec 7 := match b with | .inl r => r.setWidth 7 | .inr _ => 0
    let wideD := uopPairD op || (op.toNat == 0x2E && icvtDstWide sel)
    let wideA := uopPairA op || (op.toNat == 0x2E && icvtSrcWide sel)
    let val := fun (r : Nat → Word) (wide : Bool) (n : Nat) => if wide then pairOf (r n) (r (n + 1)) else (r n).setWidth 64
    let input := fun (r : Nat → Word) (p : Nat → Bool) => ({
      a := val r wideA a.toNat
      b := match b with
        | .inl x => if uopUnary op || op.toNat == 0x2E then 0 else val r (uopPairB op) x.toNat
        | .inr imm => if uopPairB op then imm.signExtend 64 else (imm.signExtend 32).setWidth 64
      d := if uopDestructive op then val r wideD d.toNat else 0
      cin := if op = 3#6 ∨ op = 7#6 then p 6 else if op.toNat ≥ 0x38 then p (op.toNat % 8) else false } : IntIn)
    let out := fun (r : Nat → Word) (p : Nat → Bool) =>
      if uopIset op then uopCompare op (d.extractLsb' 3 4) (input r p)
      else if op = 0x2E#6 then opIcvt sel (input r p) else uopFn op (input r p)
    ∀ (s : State) (c : Ctx), s.ctxOf i = some c → c.upset ≠ some false → ∃ t, exec i s = .next t ∧
      let qu := s.quire c.q
      let o := out (s.uniReg c) qu.qpreg
      (qu.hasQ c.now c.hand (notPorts (i.uses.rq ++ i.uses.wq)) = true → qu.hasQp c.now (i.uses.rqp ++ i.uses.wqp) = true →
        c.q < s.quires.length →
        (uopIset op = false → d.toNat < 160 → (t.quire c.q).qreg c.hand d.toNat = o.val.setWidth 32 ∧
          (wideD = true → (t.quire c.q).qreg c.hand (d.toNat + 1) = (o.val >>> 32).setWidth 32)) ∧
        (let queue := fun (u : State) (n : Nat) => ((u.team qu.team).queue n).map PortWord.word;
          qu.team < s.teams.length → (∀ n ∈ portsOf (i.uses.rq ++ i.uses.wq), n - 160 < (s.team qu.team).queues.length) →
          (∀ n ∈ portsOf i.uses.rq, n ∉ i.uses.wq → queue t n = (queue s n).tail) ∧
          ∀ n ∈ portsOf i.uses.wq, queue t n = (if n ∈ i.uses.rq then (queue s n).tail else queue s n) ++ [o.val.setWidth 32]) ∧
        ∀ v, o.pred = some v → let n := if uopIset op then d.toNat % 8 else 6
          (t.quire c.q).qpreg n = (n == 7 || v))

/-- R122, R113: MOVI, ADD and MOVI.i64 with a long immediate on q registers. -/
def Obligations.UniformImmediates : Prop :=
  ∀ (d a : Reg8) (imm : Word) (st : BitVec 3),
    UniGives (.moviQ d imm st) [] [] d.toNat (fun _ _ => imm) ∧
    UniGives (.addQLi d a imm st) [a.toNat] [] d.toNat (fun r _ => r a.toNat + imm) ∧
    UniGives (.moviI64 d imm st) [d.toNat + 1] [] d.toNat (fun _ _ => imm) ∧
    (∀ s c, s.ctxOf (.moviI64 d imm st) = some c → c.upset ≠ some false → ∃ t, exec (.moviI64 d imm st) s = .next t ∧
      ((s.quire c.q).hasQ c.now c.hand [d.toNat, d.toNat + 1] = true → c.q < s.quires.length →
        (t.quire c.q).qreg c.hand (d.toNat + 1) = if imm.msb then 0xFFFFFFFF else 0))

/-- The frame of the uniform instructions (chapters 04 and 05): whenever one issues, it answers a next state in which only its
destination q and qp registers, the queues of the ports that it names (R35), flags and clocks have changed. -/
def Obligations.UniformFrame : Prop :=
  ∀ (i : Instr) (s : State) (c : Ctx), i.uniForm = true → s.ctxOf i = some c → c.upset ≠ some false →
    ∃ t, exec i s = .next t ∧ (portsOf (i.uses.rq ++ i.uses.wq) = [] → s.sameRest t) ∧ s.noQueues.sameRest t.noQueues ∧
      s.sameQueues t (s.quire c.q).team (i.uses.rq ++ i.uses.wq) ∧ (∀ a, t.memByte a = s.memByte a) ∧
      (∀ x, (t.thread x).v = (s.thread x).v ∧ (t.thread x).p = (s.thread x).p) ∧
      (∀ r, (r ≠ c.q ∨ i.uniFlagless = true) ∧ c.upset = none →
        (t.quire r).flags = (s.quire r).flags ∧ (t.quire r).fset = (s.quire r).fset) ∧
      ∀ r, (t.quire r).q.length = (s.quire r).q.length ∧ (t.quire r).hb.length = (s.quire r).hb.length ∧
        (∀ m, m < 160 ∨ 408 ≤ m → r ≠ c.q ∨ m ∉ i.uses.wq.map (qName c.hand) → (t.quire r).getQ m = (s.quire r).getQ m) ∧
        (∀ n, r ≠ c.q ∨ n ∉ i.uses.wqp → (t.quire r).qpreg n = (s.quire r).qpreg n)

/-- R35: a queue port is a first-in first-out queue of words: a uniform write to port `d` appends one word to it, and a read
of port `a` takes the first word of it, once for the gathering. -/
def Obligations.QueuePorts : Prop :=
  ∀ (d a : Reg8) (imm : Word) (st : BitVec 3) (s : State) (c : Ctx), isPort d = true → isPort a = true →
    let tm := (s.quire c.q).team
    let queueOf := fun (t : State) (n : Reg8) => ((t.team tm).queue n.toNat).map PortWord.word
    c.upset ≠ some false → (∀ n ∈ [d, a], n.toNat - 160 < (s.team tm).queues.length) → tm < s.teams.length →
    (s.ctxOf (.moviQ d imm st) = some c → ∃ t, exec (.moviQ d imm st) s = .next t ∧ queueOf t d = queueOf s d ++ [imm]) ∧
    (s.ctxOf (.addQLi d a imm st) = some c → ∃ t w ws, exec (.addQLi d a imm st) s = .next t ∧ queueOf s a = w :: ws ∧
      if a = d then queueOf t d = ws ++ [w + imm] else queueOf t a = ws ∧ queueOf t d = queueOf s d ++ [w + imm]) ∧
    (∀ q : Reg8, isPort q = false → (s.quire c.q).hasQ c.now c.hand [q.toNat] = true → c.q < s.quires.length →
      (s.ctxOf (.addQLi q a imm st) = some c → ∃ t w ws, exec (.addQLi q a imm st) s = .next t ∧ queueOf s a = w :: ws ∧ queueOf t a = ws ∧
        (t.quire c.q).qreg c.hand q.toNat = w + imm) ∧
      (s.ctxOf (.addQLi d q imm st) = some c → ∃ t, exec (.addQLi d q imm st) s = .next t ∧
        queueOf t d = queueOf s d ++ [(s.quire c.q).qreg c.hand q.toNat + imm])) ∧
    (∀ v : Reg8, s.ctxOf (.movVq v a st) = some c → ∃ t w ws, exec (.movVq v a st) s = .next t ∧ queueOf s a = w :: ws ∧
      queueOf t a = ws ∧ ∀ x ∈ c.takers, (s.thread x).hasV c.now [v.toNat] = true → (t.thread x).v[v.toNat]? = some w)

/-- R122: SEL chooses by a predicate, MOVI moves its immediate, and MOV vD, qA gives q[A] to every taking thread. -/
def Obligations.SelectAndMove : Prop :=
  ∀ (p : BitVec 3) (d a b : Reg7) (d' a' : Reg8) (imm : Word) (st : BitVec 3),
    (∀ s c, s.ctxOf (.sel p d a b st) = some c → c.upset ≠ some false → ∃ t, exec (.sel p d a b st) s = .next t ∧
      ∀ x ∈ c.takers, (s.thread x).hasV c.now [d.toNat, a.toNat, b.toNat] = true → (s.thread x).hasP c.now [p.toNat] = true →
        (t.thread x).v[d.toNat]? = some (if (s.thread x).preg p.toNat then (s.thread x).vreg a.toNat else (s.thread x).vreg b.toNat)) ∧
    VecGives (.moviLi d' imm st) [] d'.toNat (fun _ => imm) ∧
    (∀ s c, s.ctxOf (.movVq d' a' st) = some c → c.upset ≠ some false → ∃ t, exec (.movVq d' a' st) s = .next t ∧
      ((s.quire c.q).hasQ c.now c.hand [a'.toNat] = true → ∀ x ∈ c.takers, (s.thread x).hasV c.now [d'.toNat] = true →
        (t.thread x).v[d'.toNat]? = some ((s.quire c.q).qreg c.hand a'.toNat)))

/-- R112: the long-immediate vector forms put IMM32 in the place of B. -/
def Obligations.LongImmediates : Prop :=
  ∀ (p : BitVec 3) (cond : BitVec 4) (d a : Reg8) (imm : Word) (st : BitVec 3),
    let ra := fun (th : Thread) => th.vreg a.toNat
    VecGives (.addLi d a imm st) [a.toNat] d.toNat (fun th => ra th + imm) ∧
    VecGives (.mulLi d a imm st) [a.toNat] d.toNat (fun th => ra th * imm) ∧
    VecGives (.madLi d a imm st) [a.toNat] d.toNat (fun th => ra th * imm + th.vreg d.toNat) ∧
    VecGives (.andLi d a imm st) [a.toNat] d.toNat (fun th => ra th &&& imm) ∧
    VecGives (.orLi d a imm st) [a.toNat] d.toNat (fun th => ra th ||| imm) ∧
    VecGives (.xorLi d a imm st) [a.toNat] d.toNat (fun th => ra th ^^^ imm) ∧
    (cond.toNat ≤ 5 →
      PredGives (.isetI32Li p cond a imm st) [a.toNat] p.toNat (fun th => compareCode cond.toNat (ra th).toInt imm.toInt) ∧
      PredGives (.isetN32Li p cond a imm st) [a.toNat] p.toNat (fun th => compareCode cond.toNat (ra th).toNat imm.toNat)) ∧
    VecGives (.faddLi d a imm st) [a.toNat] d.toNat (fun th => (f32Add (ra th) imm).1) ∧
    VecGives (.fmulLi d a imm st) [a.toNat] d.toNat (fun th => (f32Mul (ra th) imm).1) ∧
    VecGives (.ffmaLi d a imm st) [a.toNat] d.toNat (fun th => (f32Fma (ra th) imm (th.vreg d.toNat)).1) ∧
    PredGives (.fsetLi p cond a imm st) [a.toNat] p.toNat (fun th => (f32Set cond (ra th) imm).1)

/-- R124: ICVT converts between integer widths, wrapping or clamping, and sets SAT where it clamps. -/
def Obligations.WidthConversion : Prop :=
  ∀ (d a : Reg7) (sel : BitVec 7) (st : BitVec 3),
    let i : Instr := .icvt d a sel st
    let ws := 8 * 2 ^ (sel.toNat % 4)
    let wd := 8 * 2 ^ (sel.toNat / 8 % 4)
    let ns := if ws = 64 then [a.toNat, a.toNat + 1] else [a.toNat]
    let low : Thread → Nat := fun th => (if ws = 64 then (th.vpair a.toNat).toNat else (th.vreg a.toNat).toNat) % 2 ^ ws
    let x : Thread → Int := fun th => if sel.getLsbD 2 ∧ low th ≥ 2 ^ (ws - 1) then (low th : Int) - 2 ^ ws else (low th : Int)
    let lo : Int := if sel.getLsbD 5 then -2 ^ (wd - 1) else 0
    let hi : Int := if sel.getLsbD 5 then 2 ^ (wd - 1) - 1 else 2 ^ wd - 1
    let y : Thread → Int := fun th => if sel.getLsbD 6 then max lo (min hi (x th)) else x th
    let r : Thread → Int := fun th => (y th - lo) % 2 ^ wd + lo
    (wd = 64 → PairGives i ns d.toNat (fun th => BitVec.ofInt 64 (y th))) ∧
    (wd ≠ 64 → VecGives i ns d.toNat (fun th => BitVec.ofInt 32 (r th))) ∧
    FlagGives i ns fSAT (fun th => decide (y th ≠ x th))

/-- R138, R134: FMIN and FMAX: NaN wins, −0 lies below +0, and the chosen operand keeps its bits; NV for a signalling
NaN; QRED `.fmin` and `.fmax` give a NaN whenever a participant holds one. -/
def Obligations.FloatMinMax : Prop :=
  ∀ (m : BitVec 2) (d a b : Reg7) (st : BitVec 3),
    let ns := [a.toNat, b.toNat]
    let x := fun (th : Thread) => match m.toNat with
      | 0 => th.vreg a.toNat | 1 => th.vreg a.toNat ^^^ 0x80000000 | 2 => th.vreg a.toNat &&& 0x7FFFFFFF
      | _ => th.vreg a.toNat ||| 0x80000000
    let y := fun (th : Thread) => th.vreg b.toNat
    let pick := fun (zero : Word → Word → Word) (lower : Bool) (th : Thread) =>
      if isNaN32 (x th) ∨ isNaN32 (y th) then 0x7FC00000
      else if place32 (x th) = 0 ∧ place32 (y th) = 0 then zero (x th) (y th)
      else if lower = decide (place32 (x th) < place32 (y th)) then x th else y th
    VecGives (.fmin m d a b st) ns d.toNat
      (pick (fun x y => if x = 0x80000000 ∨ y = 0x80000000 then 0x80000000 else 0) true) ∧
    VecGives (.fmax m d a b st) ns d.toNat (pick (fun x y => if x = 0 ∨ y = 0 then 0 else 0x80000000) false) ∧
    FlagGives (.fmin m d a b st) ns fNV (fun th => isSig32 (x th) || isSig32 (y th)) ∧
    FlagGives (.fmax m d a b st) ns fNV (fun th => isSig32 (x th) || isSig32 (y th)) ∧
    ∀ (op : BitVec 4) (qd qa : Reg8) (s : State) (c : Ctx), op = 9#4 ∨ op = 10#4 → s.ctxOf (.qred op qd qa st) = some c →
      ∃ t, exec (.qred op qd qa st) s = .next t ∧
        ((∀ z ∈ c.takers, (s.thread z).hasV c.now [qa.toNat] = true) → (s.quire c.q).hasQ c.now c.hand [qd.toNat] = true →
          c.q < s.quires.length → (∃ z ∈ c.takers, z.quire = c.q ∧ z.lane < 32 ∧ isNaN32 ((s.thread z).vreg qa.toNat) = true) →
          (t.quire c.q).qreg c.hand qd.toNat = 0x7FC00000)

/-- R139, Table 2.5: FSET compares two binary32 values; codes 8 to 13 are true of a NaN; NV for a NaN in an ordered
comparison and for a signalling NaN in any. -/
def Obligations.FloatCompares : Prop :=
  ∀ (p : BitVec 3) (cond : BitVec 4) (a b : Reg7) (st : BitVec 3), cond.toNat ≠ 6 → cond.toNat ≠ 7 →
    let ns := [a.toNat, b.toNat]
    let nan := fun (th : Thread) => isNaN32 (th.vreg a.toNat) || isNaN32 (th.vreg b.toNat)
    let sig := fun (th : Thread) => isSig32 (th.vreg a.toNat) || isSig32 (th.vreg b.toNat)
    let x := fun (th : Thread) => place32 (th.vreg a.toNat)
    let y := fun (th : Thread) => place32 (th.vreg b.toNat)
    PredGives (.fset p cond a b st) ns p.toNat (fun th =>
      match cond.toNat with
      | 0 => !nan th && decide (x th = y th) | 1 => !nan th && decide (x th ≠ y th)
      | 2 => !nan th && decide (x th < y th) | 3 => !nan th && decide (x th ≤ y th)
      | 4 => !nan th && decide (x th > y th) | 5 => !nan th && decide (x th ≥ y th)
      | 8 => nan th || decide (x th = y th) | 9 => nan th || decide (x th ≠ y th)
      | 10 => nan th || decide (x th < y th) | 11 => nan th || decide (x th ≤ y th)
      | 12 => nan th || decide (x th > y th) | 13 => nan th || decide (x th ≥ y th)
      | 14 => !nan th | _ => nan th) ∧
    FlagGives (.fset p cond a b st) ns fNV (fun th => if 2 ≤ cond.toNat ∧ cond.toNat ≤ 5 then nan th else sig th)

/-- R141, Table 6.4: FCLASS writes a mask of the class of x and sets no flag. -/
def Obligations.FloatClass : Prop :=
  ∀ (d a : Reg7) (st : BitVec 3),
    VecGives (.fclass d a st) [a.toNat] d.toNat (fun th =>
      let w := th.vreg a.toNat
      let e := w.toNat / 2 ^ 23 % 256
      let f := w.toNat % 2 ^ 23
      let bit := if e = 255 then (if f = 0 then (if w.msb then 2 else 9) else if f < 2 ^ 22 then 0 else 1)
        else if e = 0 then (if f = 0 then (if w.msb then 5 else 6) else if w.msb then 4 else 7)
        else if w.msb then 3 else 8
      BitVec.ofNat 32 (2 ^ bit)) ∧
    FlagGives (.fclass d a st) [] 0 (fun _ => false)

/-- R137, R140, R142, R143: the arithmetic float instructions give each taking thread the result that the model's own
arithmetic (Machine/SoftFloat) computes from the thread's operands, A after its modifier (R134), B and D. R129, R130: that
arithmetic rounds the exact result of finite operands once, to nearest with ties to even, subnormal operands and results
taken as they are; an exact zero of FADD, FSUB and FFMA is +0 unless every addend is -0; and the halves of the packed forms
do the same in binary16 or bfloat16 (R128, R143). -/
def Obligations.FloatResults : Prop :=
  ∀ (m : BitVec 2) (d a b mode : Reg7) (st : BitVec 3),
    let ra := fun (th : Thread) => th.vreg a.toNat
    let rb := fun (th : Thread) => th.vreg b.toNat
    let rd := fun (th : Thread) => th.vreg d.toNat
    VecGives (.fadd m d a b st) [a.toNat, b.toNat] d.toNat (fun th => (f32Add (fmodify m (ra th)) (rb th)).1) ∧
    VecGives (.fsub m d a b st) [a.toNat, b.toNat] d.toNat (fun th => (f32Sub (fmodify m (ra th)) (rb th)).1) ∧
    VecGives (.fmul m d a b st) [a.toNat, b.toNat] d.toNat (fun th => (f32Mul (fmodify m (ra th)) (rb th)).1) ∧
    VecGives (.ffma m d a b st) [a.toNat, b.toNat] d.toNat (fun th => (f32Fma (fmodify m (ra th)) (rb th) (rd th)).1) ∧
    VecGives (.frnd d a mode st) [a.toNat] d.toNat (fun th => (f32Rnd mode.toNat (ra th)).1) ∧
    VecGives (.fsqrt d a st) [a.toNat] d.toNat (fun th => (f32Special .sqrt (ra th)).1) ∧
    VecGives (.frcp d a st) [a.toNat] d.toNat (fun th => (f32Special .rcp (ra th)).1) ∧
    VecGives (.frsq d a st) [a.toNat] d.toNat (fun th => (f32Special .rsq (ra th)).1) ∧
    VecGives (.fex2 d a st) [a.toNat] d.toNat (fun th => (f32Special .ex2 (ra th)).1) ∧
    VecGives (.flg2 d a st) [a.toNat] d.toNat (fun th => (f32Special .lg2 (ra th)).1) ∧
    VecGives (.pkaddF16 d a b st) [a.toNat, b.toNat] d.toNat (fun th => (pkAdd (ra th) (rb th)).1) ∧
    VecGives (.pkmulF16 d a b st) [a.toNat, b.toNat] d.toNat (fun th => (pkMul (ra th) (rb th)).1) ∧
    VecGives (.pkfmaF16 d a b st) [a.toNat, b.toNat] d.toNat (fun th => (pkFma16 (ra th) (rb th) (rd th)).1) ∧
    VecGives (.pkfmaBf16 d a b st) [a.toNat, b.toNat] d.toNat (fun th => (pkFmaBf (ra th) (rb th) (rd th)).1) ∧
    ∀ x y z : Word,
      let u := fun (w : Word) => unitsOf 8 23 w.toNat
      let fin := fun (ws : List Word) => ∀ w ∈ ws, isFinite 8 23 w.toNat = true
      let rne := fun (num : Int) (den : Nat) (r : Word × Flags) => RoundedRne 8 23 num den r.1.toNat
      let one : Int := 2 ^ 149
      let neg0 : Word := 0x80000000
      (fin [x, y] → rne (u x + u y) 1 (f32Add x y) ∧ rne (u x - u y) 1 (f32Sub x y) ∧ rne (u x * u y) (2 ^ 149) (f32Mul x y) ∧
        (u x + u y = 0 → (f32Add x y).1 = if x = neg0 ∧ y = neg0 then neg0 else 0) ∧
        (u x - u y = 0 → (f32Sub x y).1 = if x = neg0 ∧ y = 0 then neg0 else 0) ∧
        (u x * u y = 0 → (f32Mul x y).1 = if x.msb = y.msb then 0 else neg0)) ∧
      (fin [x, y, z] → rne (u x * u y + u z * one) (2 ^ 149) (f32Fma x y z) ∧
        (u x * u y + u z * one = 0 → (f32Fma x y z).1 = if u x * u y = 0 ∧ x.msb ≠ y.msb ∧ z = neg0 then neg0 else 0)) ∧
      (fin [x] → u x ≠ 0 → rne (if x.msb then -one * one else one * one) (u x).natAbs (f32Special .rcp x) ∧
        (x.msb = false → RoundedRoot 8 23 ((u x).toNat * 2 ^ 149) 1 (f32Special .sqrt x).1.toNat ∧
          RoundedRoot 8 23 (2 ^ 447) (u x).toNat (f32Special .rsq x).1.toNat)) ∧
      ∀ k < 2,
        let h := fun (w : Word) => w.toNat / 2 ^ (16 * k) % 2 ^ 16
        let packs := fun (e f : Nat) (ws : List Word) (num : (Word → Int) → Int) (den : Nat) (r : Word × Flags) =>
          (∀ w ∈ ws, isFinite e f (h w) = true) → RoundedRne e f (num fun w => unitsOf e f (h w)) den (h r.1)
        packs 5 10 [x, y] (fun v => v x + v y) 1 (pkAdd x y) ∧ packs 5 10 [x, y] (fun v => v x * v y) (2 ^ 24) (pkMul x y) ∧
        packs 5 10 [x, y, z] (fun v => v x * v y + v z * 2 ^ 24) (2 ^ 24) (pkFma16 x y z) ∧
        packs 8 7 [x, y, z] (fun v => v x * v y + v z * 2 ^ 133) (2 ^ 133) (pkFmaBf x y z)

/-- R131: a result of the arithmetic that is a NaN is the canonical NaN, whatever the operands: 0x7FC00000 of every binary32
instruction, and of the packed ones 0x7E00 in a binary16 half and 0x7FC0 in a bfloat16 half. -/
def Obligations.CanonicalNaN : Prop :=
  ∀ a b d : Word,
    (∀ r ∈ [(f32Add a b).1, (f32Sub a b).1, (f32Mul a b).1, (f32Fma a b d).1, (f32MinMax false a b).1,
      (f32MinMax true a b).1, (f32Special .sqrt a).1, (f32Special .rcp a).1, (f32Special .rsq a).1, (f32Special .ex2 a).1,
      (f32Special .lg2 a).1, (f32Rnd 0 a).1, (f32Rnd 1 a).1, (f32Rnd 2 a).1, (f32Rnd 3 a).1], isNaN32 r = true → r = 0x7FC00000) ∧
    ∀ k < 2, let h := fun (r : Word) => r.toNat / 2 ^ (16 * k) % 2 ^ 16
      (∀ r ∈ [(pkAdd a b).1, (pkMul a b).1, (pkFma16 a b d).1], isNaNCode 5 10 (h r) = true → h r = 0x7E00) ∧
      (isNaNCode 8 7 (h (pkFmaBf a b d).1) = true → h (pkFmaBf a b d).1 = 0x7FC0)

/-- R160 to R163, R165, R166: the conversions and block instructions give each taking thread the words that the model's
narrow arithmetic computes from its operands under the grid's format slot. -/
def Obligations.NarrowResults : Prop :=
  ∀ (d a b sel slot k : Reg7) (st : BitVec 3),
    let f := fun (s : State) (c : Ctx) => s.slot c.q slot.toNat
    VecGives (.cvt d a sel st) [a.toNat] d.toNat (fun th => (cvtWord sel (th.vreg a.toNat)).1) ∧
    VecGives (.scale d a b st) [a.toNat, b.toNat] d.toNat (fun th => (scaleWord (th.vreg a.toNat) (th.vreg b.toNat)).1) ∧
    BlockGives (.qnt d a slot st) (fun s c => span a.toNat (f s c).blockSize) d.toNat (fun s c x =>
      (qntBlock (f s c) (s.teamNo x.quire) (s.tidOf x) ((span a.toNat (f s c).blockSize).map (s.thread x).vreg)).1) ∧
    BlockGives (.dqnt d a slot st) (fun s c => span a.toNat (f s c).packedRegs) d.toNat (fun s c x =>
      (dqntBlock (f s c) ((span a.toNat (f s c).blockWords).map (s.thread x).vreg) ((s.thread x).vreg (a.toNat + (f s c).blockWords))).1) ∧
    BlockGives (.had d a slot st) (fun s c => span a.toNat (f s c).points) d.toNat (fun s c x =>
      (hadBlock ((span a.toNat (f s c).points).map (s.thread x).vreg)).1) ∧
    BlockGives (.fslot d slot k st) (fun _ _ => []) d.toNat (fun s c _ =>
      let z := f s c
      [if !z.bound then 0 else match k.toNat with
        | 0 => z.w0 | 1 => z.seed | 2 => if z.bscale = .none then 0 else BitVec.ofNat 32 z.block
        | 3 => BitVec.ofNat 32 z.points | _ => BitVec.ofNat 32 z.elem.bits])

/-- R164: PACK4 and UNPK4 move 4-bit values between nibbles and bytes, and set no flag. -/
def Obligations.NibbleMoves : Prop :=
  ∀ (d a b sel : Reg7) (st : BitVec 3), sel.toNat < 4 →
    let nib := fun (w : Word) (k : Nat) => w.toNat / 2 ^ k % 16
    let wide := fun (t : Nat) => if sel.getLsbD 1 ∧ t ≥ 8 then t + 240 else t
    VecGives (.pack4 d a b st) [a.toNat, b.toNat] d.toNat (fun th =>
      let ra := th.vreg a.toNat
      let rb := th.vreg b.toNat
      BitVec.ofNat 32 (nib ra 0 + 2 ^ 4 * nib ra 8 + 2 ^ 8 * nib ra 16 + 2 ^ 12 * nib ra 24 +
        2 ^ 16 * nib rb 0 + 2 ^ 20 * nib rb 8 + 2 ^ 24 * nib rb 16 + 2 ^ 28 * nib rb 24)) ∧
    VecGives (.unpk4 d a sel st) [a.toNat] d.toNat (fun th =>
      let g := 16 * (sel.toNat % 2)
      let t := fun k => wide (nib (th.vreg a.toNat) (g + 4 * k))
      BitVec.ofNat 32 (t 0 + 2 ^ 8 * t 1 + 2 ^ 16 * t 2 + 2 ^ 24 * t 3)) ∧
    FlagGives (.pack4 d a b st) [] 0 (fun _ => false) ∧ FlagGives (.unpk4 d a sel st) [] 0 (fun _ => false)

/-- R30, R91: BRA sends its threads to the header at the clause's address plus 4 × sext(IMM32, 48), modulo 2^48; BRQ does so
when its uniform predicate, inverted if it says so, holds, and else sends them to the clause that follows. No other register,
and no memory, changes. A thread that may not fetch from the target traps at the transfer, with the trap that its fetch would
meet, XLATE and PROT among them. -/
def Obligations.Branches : Prop :=
  ∀ (neg : Bool) (qp : BitVec 3) (off : Word) (st : BitVec 3) (s : State) (c : Ctx),
    let target := c.g.hdr + BitVec.ofInt 48 (4 * off.toInt)
    let goes := fun (i : Instr) (a : Addr) => ∃ t, exec i s = .next t ∧ s.sameRest t ∧
      t.quires.map (fun q => (q.q, q.hb, q.qp, q.flags, q.fset)) = s.quires.map (fun q => (q.q, q.hb, q.qp, q.flags, q.fset)) ∧
      (∀ x, (t.thread x).v = (s.thread x).v ∧ (t.thread x).p = (s.thread x).p) ∧
      ∀ x ∈ c.takers, (t.thread x).hdr = a ∧ (t.thread x).pos = 0 ∧ (t.thread x).gov = true ∧ (t.thread x).stat = .ready
    let mayGo := ∀ x ∈ c.takers, ∃ ps, s.checkTarget x target = .ok ps
    (s.ctxOf (.bra off st) = some c → mayGo → goes (.bra off st) target) ∧
    (s.ctxOf (.bra off st) = some c → ∀ x tr, c.takers = [x] → s.checkTarget x target = .trap tr → s.entersAt x →
      ∃ t, exec (.bra off st) s = .next t ∧ s.trapped t x c.g.hdr c.g.pos tr) ∧
    (s.ctxOf (.brq neg qp off st) = some c → (s.quire c.q).hasQp c.now [qp.toNat] = true →
      let taken := (s.quire c.q).qpreg qp.toNat = !neg
      ((taken → mayGo) → goes (.brq neg qp off st) (if taken then target else c.g.nextHdr)) ∧
      (taken → ∀ tr, c.takers.Nodup → (∀ x ∈ c.takers, s.entersAt x ∧ s.checkTarget x target = .trap (tr x)) →
        ∃ t, exec (.brq neg qp off st) s = .next t ∧ s.allTrapped t c tr)) ∧
    ∀ x, s.checkTarget x target = if target.toNat % 4 ≠ 0 then .trap { code := .align, addr := target.toNat } else s.checkG x .fetch target.toNat 4

/-- R92: BRX sends each thread to the address in bits [47:0] of its own pair, when that is a multiple of 4 that the thread may
fetch from. A thread whose address is no multiple of 4 traps ALIGN at the transfer, and one that may not fetch there the trap
that its fetch would meet. -/
def Obligations.IndirectBranches : Prop :=
  ∀ (a : Reg8) (st : BitVec 3) (s : State) (c : Ctx), s.ctxOf (.brx a st) = some c →
    (c.takers.Nodup → (∀ x ∈ c.takers, s.entersAt x ∧ (s.thread x).hasV c.now [a.toNat, a.toNat + 1] = true) → ∀ tr : ThreadId → Trap,
      (∀ x ∈ c.takers, let aim := ((s.thread x).vpair a.toNat).setWidth 48
        if aim.toNat % 4 ≠ 0 then tr x = { code := .align, addr := aim.toNat } else s.checkG x .fetch aim.toNat 4 = .trap (tr x)) →
      ∃ t, exec (.brx a st) s = .next t ∧ s.allTrapped t c tr) ∧
    ((∀ x ∈ c.takers, (s.thread x).hasV c.now [a.toNat, a.toNat + 1] = true ∧
      ∃ ps, s.checkTarget x (((s.thread x).vpair a.toNat).setWidth 48) = .ok ps) → ∃ t, exec (.brx a st) s = .next t ∧ s.sameRest t ∧
      (∀ x, (t.thread x).v = (s.thread x).v ∧ (t.thread x).p = (s.thread x).p) ∧
      ∀ x ∈ c.takers, (t.thread x).hdr = ((s.thread x).vpair a.toNat).setWidth 48 ∧ (t.thread x).pos = 0 ∧ (t.thread x).stat = .ready)

/-- R88, R91 to R93: CALL and CALLX push the address of the clause that follows onto the thread's return stack, whose oldest
entry is spilled when all eight are full, to the eight bytes at PRIVLIM - 8(S + 1) of its private window; RET goes to the
youngest entry, filled from memory when none is left in the thread, and removes it. A thread traps, changing no stack, where
it may not fetch from its target; where a push or pop meets a trap of the private window; and with RSTACK (R89) where a spill
has no room below PRIVLIM and in a RET of an empty stack; a spine's ninth entry kills its gang so (R370). -/
def Obligations.ReturnStack : Prop :=
  ∀ (off : Word) (a : Reg8) (st : BitVec 3) (s : State) (c : Ctx),
    let pushed := fun (t : State) (x : ThreadId) =>
      (t.thread x).rstack = (if (s.thread x).rstack.length < 8 then (s.thread x).rstack else (s.thread x).rstack.tail) ++ [c.g.nextHdr] ∧
      (t.thread x).spilled = (s.thread x).spilled + (if (s.thread x).rstack.length < 8 then 0 else 1)
    let mayPush := ∀ x ∈ c.takers, ∃ ps, s.checkPush x = .ok ps
    (s.ctxOf (.call off st) = some c → mayPush →
      (∀ x ∈ c.takers, ∃ ps, s.checkTarget x (c.g.hdr + BitVec.ofInt 48 (4 * off.toInt)) = .ok ps) → ∃ t, exec (.call off st) s = .next t ∧ t.mem = s.mem ∧
      ∀ x ∈ c.takers, pushed t x ∧ (t.thread x).hdr = c.g.hdr + BitVec.ofInt 48 (4 * off.toInt) ∧ (t.thread x).stat = .ready) ∧
    (s.ctxOf (.callx a st) = some c → mayPush →
      (∀ x ∈ c.takers, (s.thread x).hasV c.now [a.toNat, a.toNat + 1] = true ∧
        ∃ ps, s.checkTarget x (((s.thread x).vpair a.toNat).setWidth 48) = .ok ps) →
      ∃ t, exec (.callx a st) s = .next t ∧ t.mem = s.mem ∧
        ∀ x ∈ c.takers, pushed t x ∧ (t.thread x).hdr = ((s.thread x).vpair a.toNat).setWidth 48 ∧ (t.thread x).stat = .ready) ∧
    (∀ (i : Instr) (aim : ThreadId → Addr), s.ctxOf i = some c →
      (i = .call off st ∧ aim = fun _ => c.g.hdr + BitVec.ofInt 48 (4 * off.toInt)) ∨
        (i = .callx a st ∧ (∀ x ∈ c.takers, (s.thread x).hasV c.now [a.toNat, a.toNat + 1] = true) ∧
          aim = fun x => ((s.thread x).vpair a.toNat).setWidth 48) →
      (∀ x ps, c.takers = [x] → 8 ≤ (s.thread x).rstack.length → (s.quire x.quire).role ≠ .spine → (∃ qs, s.checkTarget x (aim x) = .ok qs) →
        let lim := (s.recordQ x.quire).privLim
        let at_ := 8 * ((s.thread x).spilled + 1)
        at_ ≤ lim → s.checkP x .write ((lim : Int) - at_) 8 = .ok ps → c.g.core < s.cores.length →
        ∃ t, exec i s = .next t ∧ ∀ ch ∈ ps, ∀ pa, ch.place = .g pa → ∀ k < ch.size,
          t.brings c.g.core (pa + k) ((leBytes 8 ((s.thread x).rstack.headD 0).toNat).getD (ch.off + k) 0)) ∧
      ∀ tr : ThreadId → Trap, c.takers.Nodup → (∀ x ∈ c.takers, s.entersAt x) →
        ((∀ x ∈ c.takers, s.checkTarget x (aim x) = .trap (tr x)) ∨ ((∀ x ∈ c.takers, ∃ qs, s.checkTarget x (aim x) = .ok qs) ∧
          ∀ x ∈ c.takers, 8 ≤ (s.thread x).rstack.length ∧ (let lim := (s.recordQ x.quire).privLim
            let at_ := 8 * ((s.thread x).spilled + 1)
            if lim < at_ then tr x = { code := .rstack } else s.checkP x .write ((lim : Int) - at_) 8 = .trap (tr x)))) →
        ∃ t, exec i s = .next t ∧ t.mem = s.mem ∧ s.allTrapped t c tr ∧
          ∀ x ∈ c.takers, (t.thread x).rstack = (s.thread x).rstack ∧ (t.thread x).spilled = (s.thread x).spilled) ∧
    (∀ x qs, s.ctxOf (.call off st) = some c → c.takers = [x] → (s.quire x.quire).role = .spine → 8 ≤ (s.thread x).rstack.length →
      s.checkTarget x (c.g.hdr + BitVec.ofInt 48 (4 * off.toInt)) = .ok qs → ∃ t, exec (.call off st) s = .next t ∧ s.stoppedBy t x .rstack) ∧
    (s.ctxOf (.ret st) = some c → ∀ tr : ThreadId → Trap, c.takers.Nodup → (∀ x ∈ c.takers, s.entersAt x) →
      ((∀ x ∈ c.takers, ∃ a as, (s.thread x).rstack = as ++ [a] ∧ s.checkTarget x a = .trap (tr x)) ∨
        (∀ x ∈ c.takers, (s.thread x).rstack = [] ∧ (if (s.thread x).spilled = 0 then tr x = { code := .rstack }
          else s.checkP x .read (((s.recordQ x.quire).privLim : Int) - 8 * (s.thread x).spilled) 8 = .trap (tr x)))) →
      ∃ t, exec (.ret st) s = .next t ∧ t.mem = s.mem ∧ s.allTrapped t c tr ∧
        ∀ x ∈ c.takers, (t.thread x).rstack = (s.thread x).rstack ∧ (t.thread x).spilled = (s.thread x).spilled) ∧
    (s.ctxOf (.ret st) = some c → ∀ (ps : ThreadId → List Chunk), (∀ x ∈ c.takers, s.checkPop x = .ok (ps x)) →
      s.chunksBusy c.g.core (c.takers.map (fun x => { thread := x, chunks := ps x })) = false →
      let top := fun x => ((s.thread x).rstack.getLast?).getD (BitVec.ofNat 48 (leNat (s.chunkBytes c.g.core (ps x))))
      (∀ x ∈ c.takers, ∃ qs, s.checkTarget x (top x) = .ok qs) →
      ∃ t, exec (.ret st) s = .next t ∧ t.mem = s.mem ∧
        ∀ x ∈ c.takers, (t.thread x).hdr = top x ∧ (t.thread x).stat = .ready ∧
          (t.thread x).rstack = (s.thread x).rstack.dropLast ∧
          (t.thread x).spilled = (s.thread x).spilled - (if (s.thread x).rstack = [] then 1 else 0))

/-- R94, R95, R85: NOP and QSYNC change nothing but clocks and places, YIELD lets its quires be swapped out, and EXIT leaves
its threads exiting. That they stand at the EXIT until they retire, where a pre-emption finds them, is the model's choice: log
entry 106. -/
def Obligations.SimpleControl : Prop :=
  ∀ (i : Instr) (st : BitVec 3) (s : State) (c : Ctx), s.ctxOf i = some c →
    let still := fun (t : State) => (∀ x, (t.thread x).v = (s.thread x).v ∧ (t.thread x).p = (s.thread x).p ∧
        (t.thread x).rest = (s.thread x).rest) ∧ t.mem = s.mem ∧ t.rest = s.rest ∧ t.cores.map Core.rest = s.cores.map Core.rest
    (i = .nop st ∨ i = .qsync st → ∃ t, exec i s = .next t ∧ still t ∧
      t.quires.map (fun q => { q with threads := [] }) = s.quires.map (fun q => { q with threads := [] })) ∧
    (i = .yield st → ∃ t, exec i s = .next t ∧ still t ∧ ∀ r, r < s.quires.length →
      ((t.quire r).yielded = true ↔ (s.quire r).yielded = true ∨ ∃ x ∈ c.takers, x.quire = r)) ∧
    (i = .exit st → ∃ t, exec i s = .next t ∧ still t ∧
      ∀ x ∈ c.takers, (t.thread x).stat = .exiting ∧ (t.thread x).hdr = c.g.hdr ∧ (t.thread x).pos = c.g.pos)

/-- R96 to R98: PLOP and QPLOP look their three predicates up in a table; VOTE, BALLOT and LXCH act on the predicates and
registers of the gathering's own lanes. -/
def Obligations.PredicatesAndVotes : Prop :=
  ∀ (d a b p : BitVec 3) (table : BitVec 8) (kind2 : BitVec 2) (kind : BitVec 3) (rd ra rb : Reg8) (n : BitVec 5) (st : BitVec 3)
    (s : State) (c : Ctx),
    let bit := fun (x y z : Bool) => table.getLsbD ((if x then 4 else 0) + (if y then 2 else 0) + (if z then 1 else 0))
    let qu := s.quire c.q
    let inP := fun (l : Int) => decide (0 ≤ l) && decide (l ≤ 31) && c.takers.contains ⟨c.q, l.toNat⟩
    (s.ctxOf (.plop d a b p table st) = some c → ∃ t, exec (.plop d a b p table st) s = .next t ∧ ∀ x ∈ c.takers,
      (s.thread x).hasP c.now [d.toNat, a.toNat, b.toNat, p.toNat] = true →
      (t.thread x).preg d.toNat =
        (d.toNat == 7 || bit ((s.thread x).preg a.toNat) ((s.thread x).preg b.toNat) ((s.thread x).preg p.toNat))) ∧
    (s.ctxOf (.qplop d a b p table st) = some c → ∃ t, exec (.qplop d a b p table st) s = .next t ∧
      (qu.hasQp c.now [d.toNat, a.toNat, b.toNat, p.toNat] = true → c.q < s.quires.length →
      (t.quire c.q).qpreg d.toNat = (d.toNat == 7 || bit (qu.qpreg a.toNat) (qu.qpreg b.toNat) (qu.qpreg p.toNat)))) ∧
    (s.ctxOf (.vote kind2 d a st) = some c → ∃ t, exec (.vote kind2 d a st) s = .next t ∧
      (qu.hasQp c.now [d.toNat] = true → c.q < s.quires.length →
      (∀ x ∈ c.takers, (s.thread x).hasP c.now [a.toNat] = true) →
      let all := ∀ x ∈ c.takers, (s.thread x).preg a.toNat = true
      let any := ∃ x ∈ c.takers, (s.thread x).preg a.toNat = true
      ((t.quire c.q).qpreg d.toNat = true ↔ d.toNat = 7 ∨ match kind2.toNat with | 0 => all | 1 => any | _ => all ∨ ¬ any))) ∧
    (s.ctxOf (.ballot rd a st) = some c → ∃ t, exec (.ballot rd a st) s = .next t ∧
      (qu.hasQ c.now c.hand [rd.toNat] = true → c.q < s.quires.length →
      (∀ x ∈ c.takers, (s.thread x).hasP c.now [a.toNat] = true) →
      ∀ l < 32, ((t.quire c.q).qreg c.hand rd.toNat).getLsbD l = (inP l && (s.thread ⟨c.q, l⟩).preg a.toNat))) ∧
    (s.ctxOf (.lxch kind rd ra rb p n st) = some c → ∃ t, exec (.lxch kind rd ra rb p n st) s = .next t ∧
      ((∀ x ∈ c.takers, (s.thread x).hasV c.now [rd.toNat, ra.toNat] = true ∧ (s.thread x).hasP c.now [p.toNat] = true ∧
        (kind = 0#3 → (s.thread x).hasV c.now [rb.toNat] = true)) →
      ∀ x ∈ c.takers,
        let j : Int := match kind.toNat with
          | 0 => ((s.thread x).vreg rb.toNat).toNat | 1 => (x.lane : Int) - n.toNat | 2 => x.lane + n.toNat
          | 3 => (x.lane ^^^ n.toNat : Nat) | _ => n.toNat
        (t.thread x).v[rd.toNat]? = some ((s.thread (if inP j then ⟨c.q, j.toNat⟩ else x)).vreg ra.toNat) ∧
        (t.thread x).preg p.toNat = (p.toNat == 7 || inP j)))

/-- R99, R101, Table 4.4: QRED of an integer operation leaves in q[D] the operation over the lanes that take part; QSCAN leaves
in each of them the operation over the lanes up to it, or before it in the exclusive form (over floats, each in the order
of the tree or the doubling steps); MATCH leaves the mask of the lanes whose value equals the thread's own. -/
def Obligations.LaneReductions : Prop :=
  ∀ (op : BitVec 4) (excl wide : Bool) (d a : Reg8) (st : BitVec 3) (s : State) (c : Ctx),
    let f := fun (x y : Word) => match op.toNat with
      | 0 => x + y | 1 => if x.toInt ≤ y.toInt then x else y | 2 => if x.toNat ≤ y.toNat then x else y
      | 3 => if x.toInt ≤ y.toInt then y else x | 4 => if x.toNat ≤ y.toNat then y else x
      | 5 => x &&& y | 6 => x ||| y | _ => x ^^^ y
    let e : Word := match op.toNat with
      | 1 => 0x7FFFFFFF | 2 => 0xFFFFFFFF | 3 => 0x80000000 | 5 => 0xFFFFFFFF
      | 8 => 0x80000000 | 9 => 0x7F800000 | 10 => 0xFF800000 | _ => 0
    let lane := fun (l : Nat) => if c.takers.contains ⟨c.q, l⟩ then (s.thread ⟨c.q, l⟩).vreg a.toNat else e
    let upTo := fun (n : Nat) => ((List.range n).map lane).foldl f e
    let ready := fun (ns : List Nat) => ∀ x ∈ c.takers, (s.thread x).hasV c.now ns = true
    let value := fun (x : ThreadId) => if wide then (s.thread x).vpair a.toNat else ((s.thread x).vreg a.toNat).setWidth 64
    (s.ctxOf (.qred op d a st) = some c → ∃ t, exec (.qred op d a st) s = .next t ∧
      (ready [a.toNat] → (s.quire c.q).hasQ c.now c.hand [d.toNat] = true → c.q < s.quires.length →
        if op.toNat < 8 then (t.quire c.q).qreg c.hand d.toNat = upTo 32
        else op.toNat ≤ 10 → (t.quire c.q).qreg c.hand d.toNat = (redTree op.toNat ((List.range 32).map lane)).1)) ∧
    (s.ctxOf (.qscan op d a excl st) = some c → ∃ t, exec (.qscan op d a excl st) s = .next t ∧
      (ready [d.toNat, a.toNat] → ∀ x ∈ c.takers, x.quire = c.q → x.lane < 32 →
        let k := if excl then x.lane else x.lane + 1
        if op.toNat < 8 then (t.thread x).v[d.toNat]? = some (upTo k)
        else op.toNat ≤ 10 → (t.thread x).v[d.toNat]? =
          some (if k = 0 then e else (scanAll op.toNat ((List.range 32).map lane)).1.getD (k - 1) 0))) ∧
    (s.ctxOf (.match_ wide d a st) = some c → ∃ t, exec (.match_ wide d a st) s = .next t ∧
      (ready (if wide then [d.toNat, a.toNat, a.toNat + 1] else [d.toNat, a.toNat]) → ∀ x ∈ c.takers,
        ∃ w : Word, (t.thread x).v[d.toNat]? = some w ∧
          ∀ l < 32, w.getLsbD l = (c.takers.contains ⟨c.q, l⟩ && value ⟨c.q, l⟩ == value x)))

/-- What the spec gives for reset: hardware partition 0 holds every unit (R22), the QoS registers hold the classes and budgets of
Table 8.6 and WGT 0x01020408 (Table 8.8), all four planes live and bucket b on plane b mod 4 (R209, Table 9.4), both weight
planes of a matrix unit are EMPTY, plane 0 active, every tile and status bit zero (R277), and stations are free (R236). No
byte of memory or chip scratch is listed, so each reads as zero (R392, R411; log entry 5), in canonical form. Main memory is 768
GB, 768 x 10^9 bytes (R7, R19); that its addresses begin at 0, and that every 1 GiB block has interleave scheme 0, is the
model's choice: log entry 3. -/
def Obligations.ResetValues : Prop :=
  let s := State.reset
  s.parts.length = 8 ∧ (s.part 0).units = { clusters := List.range 32, slices := List.range 256, hbm := List.range 12, mem := [(0, 768 * 10 ^ 9)], schemes := [] } ∧
  (∀ p, p ≠ 0 → (s.part p).units = { clusters := [], slices := [], hbm := [], mem := [], schemes := [] }) ∧
  s.cores.length = 256 ∧ s.slices.length = 256 ∧ s.ctrls.length = 12 ∧
  (∀ k < 12, ∃ x, s.ctrls[k]? = some x ∧ x.svc = [0, 2, 1, 2, 1, 0, 3, 3] ∧
    x.budget = [400, 2000, 800, 2000, 800, 300, 8000, 4000] ∧ x.wgt = 0x01020408) ∧
  s.fabric.alive = 0xF ∧ s.fabric.bkt.length = 256 ∧ (∀ b < 256, s.fabric.bkt[b]? = some (BitVec.ofNat 2 (b % 4))) ∧
  (∀ k, (s.core k).unit.planes.map Plane.fmt = [none, none] ∧ (s.core k).unit.active = 0 ∧ (s.core k).unit.tiles = [[], [], [], []] ∧
    (s.core k).unit.status = [0, 0, 0, 0] ∧ (s.core k).unit.holder = none ∧ (s.core k).stations.length = 16 ∧
    ∀ z ∈ (s.core k).stations, z.owner = none ∧ z.signers = []) ∧
  (∀ a, s.memByte a = 0) ∧ (∀ k, cellGet s.kmem k = 0) ∧ s.cellsWf

/-- The canonical form of memory, of chip scratch and of every team's core scratch (addresses strictly rising, no zero byte
listed) holds in every state that a step reaches from a state in which it holds, whichever instruction or event it runs. -/
def Obligations.MemoryInvariant : Prop :=
  ∀ s t : State, s.cellsWf → step s = .next t → t.cellsWf

/-- R4, R176: memory is bytes by address. After a byte is stored at an address that address reads as it, and every other one
as before; two stores of bytes in canonical form that read alike everywhere are the same data; and bytes stored within a line
of physical memory are defined bytes there, but for those that R186, R292 or R340 leave undefined whatever is stored, all
others reading as before. What the model reads into the spec there: log entry 15. -/
def Obligations.MemoryCells : Prop :=
  (∀ (m : List Host.Cell) (a b : Nat) (v : Byte), cellWf m = true →
    cellGet (cellSet m a v) b = if b = a then v else cellGet m b) ∧
  (∀ m n : List Host.Cell, cellWf m = true → cellWf n = true → (∀ a, cellGet m a = cellGet n a) → m = n) ∧
  (∀ (s : State) (a : Nat) (bs : List Byte), cellWf s.mem = true → a % 128 + bs.length ≤ 128 → ∀ b,
    (s.memWrite a bs).memByte b = if a ≤ b ∧ b < a + bs.length ∧ s.isOpen b = false then bs.getD (b - a) 0 else s.memByte b)

/-- Words that chapters 02, 04 to 06, 18, 19, 20 and 21 write out, and the instructions they give for them. -/
def Obligations.DecodeWords : Prop :=
  let is := fun (ws : List Word) (i : Instr) => decode ws = .ok (i, [])
  is [0x10182800] (.add 5 6 8 0) ∧
  is [0x0E182B02] (.addN32Sat 5 6 7 3) ∧
  is [0x06305036] (.leaN32 2 10 12 3 0) ∧
  is [0x0C149024] (.isetI32 2 2 5 6 0) ∧
  is [0x0404244D] (.ffma 1 4 1 2 4) ∧
  is [0x000C285C] (.frcp 5 3 0) ∧
  is [0x06103354] (.fmax 0 6 4 3 3) ∧
  is [0x10188858] (.fset 1 2 6 8 0) ∧
  is [0x02018081, 0xFEC00000] (.uniformAluImm 0 3 4 0x3FB 0) ∧
  is [0x0081009A, 0] (.vote 0 2 1 0) ∧
  is [0x05000091, 0xFFFFFFFD] (.brq true 2 0xFFFFFFFD 0) ∧
  is [0x0787809C, 0x07C40700] (.lxch 4 15 15 0 7 31 0) ∧
  is [0x050450A0, 0x10240003] (.ld ⟨0, true, 2⟩ ⟨8, 10, 3, false, 0, .plain, .none, .g, .w32, 0x40⟩) ∧
  is [0x0607C8B0, 0x4000000E] (.atom ⟨0, true, 1⟩ ⟨15, 12, 14, false, 0, .plain, .none, 0, 0, 0x100⟩) ∧
  is [0x050640B4, 0x000068FF] (.stamp ⟨0, true, 0⟩ false 3 8 0 0 12 10 0xFF) ∧
  is [0x000000B8, 0x00140000] (.fence ⟨0, false, 0⟩ .rel .dv) ∧
  is [0x060440BF, 0x0010040E] (.waitc ⟨0, true, 0⟩ true 0 false .dv 8 12 14) ∧
  is [0x0D0000C0, 0x0000001B] (.mload ⟨0, false, 0⟩ (.imm 0) false 0 26 27) ∧
  is [0x050448D8, 0x00000D0C] (.bagnew ⟨0, true, 1⟩ 8 10 12 13) ∧
  is [0x040A50D9, 0x00000215] (.bagput ⟨0, true, 2⟩ 0 20 8 21 2)

/-- R26, R31 to R33, R43 to R50: for every instruction of the opcode map with admissible fields, the decoder reads back from its
words that instruction with every operand, and leaves the words that follow. -/
def Obligations.RoundTrip : Prop :=
  ∀ (i : Instr) (rest : List Word), i.isInstr = true → i.wf = true → decode (encode i ++ rest) = .ok (i, rest)

/-- R26, R50, R51: the decoder accepts only words that the encoding of an instruction with admissible fields gives, so no
reserved field or combination passes; and every opcode that the opcode map does not assign is refused by that name. -/
def Obligations.DecodeRefuses : Prop :=
  (∀ ws i rest, decode ws = .ok (i, rest) → i.isInstr = true ∧ i.wf = true ∧ ws = encode i ++ rest) ∧
  ∀ (w0 w1 : Word) (rest : List Word), let op := w0.toNat % 256
    op = 0x2F ∨ (0x64 ≤ op ∧ op ≤ 0x6F) ∨ (0x78 ≤ op ∧ op ≤ 0x7F) ∨ (0x86 ≤ op ∧ op ≤ 0x8F) ∨ (0xAB ≤ op ∧ op ≤ 0xAF) ∨
      op = 0xB7 ∨ (0xCA ≤ op ∧ op ≤ 0xCF) ∨ (0xED ≤ op ∧ op ≤ 0xEF) ∨ 0xF8 ≤ op →
    decode (w0 :: w1 :: rest) = .error .unassigned

/-- R26, R28, R53, R54: a step whose turn is a gathering's runs the instruction that the gathering's next words decode to,
when its class is the clause's and its feature is accepted, and else traps ILLOP in the taking threads; a step whose turn is
another agent's runs that agent's step; and a step with no turn listed takes one of the turns that the machine's agents have, or only passes. Each step then notes since
when which threads, quires and reconvergence clauses are ready (R79, R80, R87), and that notes nothing else. What the model
reads into the spec there: log entries 2, 8 and 59. -/
def Obligations.StepRunsDecoded : Prop :=
  ∀ (s : State) (more : List Turn), let s1 : State := { s with tick := s.tick + 1, agenda := more }
    (∀ (gi wait : Nat) (g : Gath) (w0 : Word) (ws rest : List Word) (i : Instr),
      s.agenda = .issue gi wait :: more → s.gaths[gi]? = some g → s1.mayIssue g = true → g.members.any s1.isHalted = false →
      s1.takersOf g ≠ [] → g.words.drop (g.pos - 1) = w0 :: ws → decode (w0 :: ws) = .ok (i, rest) →
      classOf (w0.toNat % 256) = (g.header.toNat / 16) % 8 → s.dev.accepts (featureOf (w0.toNat % 256)) = true →
      step s = match exec i { s1 with cur := some { gath := gi, size := (w0 :: ws).length - rest.length, wait := wait } } with
        | .next t => .next ({ t with cur := none } : State).noteReady
        | .fault r => .fault r
        | .refused r => .refused r) ∧
    (∀ (gi wait : Nat) (g : Gath) (w0 : Word) (ws : List Word),
      s.agenda = .issue gi wait :: more → s.gaths[gi]? = some g → s1.mayIssue g = true → g.members.any s1.isHalted = false →
      s1.takersOf g ≠ [] → (s1.takersOf g).Nodup → g.words.drop (g.pos - 1) = w0 :: ws →
      (∃ e, decode (w0 :: ws) = .error e) ∨ classOf (w0.toNat % 256) ≠ (g.header.toNat / 16) % 8 ∨ s.dev.accepts (featureOf (w0.toNat % 256)) = false →
      (∀ x ∈ s1.takersOf g, s1.entersAt x) →
      ∃ t, step s = .next t ∧ ∀ x ∈ s1.takersOf g, s1.trapped t x g.hdr g.pos { code := .illop }) ∧
    (∀ i : Instr, i.isInstr = false → s.agenda = .event i :: more →
      step s = match exec i s1 with
        | .next t => .next t.noteReady
        | .fault r => .fault r
        | .refused r => .refused r) ∧
    (s.agenda = [] → more = [] → step s = .next s1.noteReady ∨ ∃ t ∈ s1.turns, step s = observed (turn t s1)) ∧
    let plain := fun (q : Quire) =>
      { q with resolved := 0, reconv := [], threads := q.threads.map (fun (th : Thread) => { th with since := none }) }
    ∀ t : State, ({ t.noteReady with quires := [] } : State) = ({ t with quires := [] } : State) ∧ t.noteReady.quires.map plain = t.quires.map plain

/-- R194, R198, R201, R218, R229, R231, R253: LD, LD.sh, ST, ST.sh, LDQ, LDQ.sh, STQ, STQ.sh, CMAINT, ATOM, CAS, RED, ATOMQ,
STAMP, NRED and WAITC (`ld`, `ldSh`, `st`, `stSh`, `ldq`, `ldqSh`, `stq`, `stqSh`, `cmaint`, `atom`, `cas`, `red`, `atomq`,
`stamp`, `nred`, `waitc`) whose accesses pass their checks issue: an operation is outstanding for every taking thread, the
counter that SETD names has risen by one in each of them (R39), and every register it will write is marked pending for it
(R41). One whose checks fail (R195) traps in its threads, with the address of the instruction, and has no other effect. A
PREF issues whatever its address (R200). Nothing in memory at the slices, no register and no special register has changed,
but for CHK in `%flags` after a soft error (R108), and a page that the PREF's own walk is the first to show (R393). What the
model reads into the spec there: log entries 29 and 31. -/
def Obligations.AccessesIssue : Prop :=
  (∀ (i : Instr) (s : State) (c : Ctx) (ps : ThreadId → List Chunk), i.accesses = true → s.ctxOf i = some c → s.goes c i ps →
    ∃ t, exec i s = .next t ∧ s.sameMemory t ∧ s.sameRegs t ∧ (c.upset = none → s.sameSpecial t) ∧
      (∃ o, t.ops = s.ops ++ [o] ∧ o.id = s.nextId ∧ o.threads = c.takers ∧ o.ctr = c.ctr) ∧
      (∀ x, (t.thread x).d = countersAfter c c.takers s x) ∧
      (∀ x ∈ c.takers, ∀ n ∈ i.uses.wv, n < (s.thread x).v.length → ∃ b ∈ (t.thread x).busy, b.reg = .v n ∧ b.op = s.nextId) ∧
      ∀ n ∈ i.uses.wq, ∃ b ∈ (t.quire c.q).busy, b.reg = .q (qName c.hand n) ∧ b.op = s.nextId) ∧
  (∀ (i : Instr) (s : State) (c : Ctx) (tr : ThreadId → Trap), i.accesses = true → s.ctxOf i = some c → c.upset ≠ some false →
    c.takers.Nodup → (∀ x ∈ c.takers, s.entersAt x) → (∀ x ∈ c.accessors i, s.accessOf c x i = .trap (tr x)) →
    ∃ t, exec i s = .next t ∧ s.sameMemory t ∧ s.sameRegs t ∧ t.ops = s.ops ∧
      ∀ x ∈ c.takers, s.trapped t x c.g.hdr c.g.pos (if i.onceAccess then tr c.lead else tr x)) ∧
  ∀ (st : BitVec 3) (level : BitVec 2) (space : Space) (ep : BitVec 2) (a b : Reg8) (imm : BitVec 10) (s : State) (c : Ctx),
    s.ctxOf (.pref st level space ep a b imm) = some c →
    ∃ t, exec (.pref st level space ep a b imm) s = .next t ∧ s.sameRegs t ∧ s.sameSpecial t ∧
      ((∀ x ∈ c.takers, ∀ root va,
          s.checkAccess x .read space (s.baseOf c space a + s.vIdx c x b + imm.toInt) 1 1 ≠ .miss root va) → s.sameMemory t) ∧
      t.ops = s.ops ∧ ∀ x, (t.thread x).d = (s.thread x).d

/-- R195 to R198, R220: the data that a store or atomic brings goes, under the identity of its operation, to the places that
its address gives, piece by piece: for a store the bytes of the access that fall there, for an atomic the whole operand. The
data is that of its registers, low register and low byte first (R4, R5). What the model reads into the spec there: log
entries 14 and 30. -/
def Obligations.StoredBytes : Prop :=
  (∀ (i : Instr) (s : State) (c : Ctx) (ps : ThreadId → List Chunk), bringsData i = true → s.ctxOf i = some c → s.goes c i ps →
    ∃ t, exec i s = .next t ∧
      ∀ x ∈ c.accessors i, ∀ ch ∈ ps x, t.carries s.nextId x ch.place (pieceData i (s.dataOf c x i) ch)) ∧
  (∀ (s : State) (now : Nat) (x : ThreadId) (d n : Nat), (s.thread x).hasV now (span d ((n + 3) / 4)) = true →
    ∀ k < n, (s.vBytes now x d n)[k]? = some (((s.thread x).vreg (d + k / 4) >>> (8 * (k % 4))).setWidth 8)) ∧
  ∀ (s : State) (c : Ctx) (d n : Nat), (s.quire c.q).hasQ c.now c.hand (span d ((n + 3) / 4)) = true →
    ∀ k < n, (s.qBytes c d n)[k]? = some (((s.quire c.q).qreg c.hand (d + k / 4) >>> (8 * (k % 4))).setWidth 8)

/-- R172, R173, R177, R178: a store that is no release acts within its core at once. To core scratch: every byte that a
thread's access covers holds that thread's byte, the last such thread's where several do, and every other byte is as before.
To memory, through `.g` or `.p`: every byte that a thread's access covers, the last such thread's where several do, goes to the
slice with a new store request, or stands dirty in the core's L1, or leaves it with a write-back; to chip scratch, with a
store request of the thread's bytes. What the model reads into the spec there: log entries 14 and 30. -/
def Obligations.CoreStores : Prop :=
  ∀ (i : Instr) (m : MemF) (h : Hdr) (s : State) (c : Ctx) (ps : ThreadId → List Chunk),
    i = .st h m ∨ i = .stSh h m ∨ i = .stq h m ∨ i = .stqSh h m → m.order ≠ .rel → s.ctxOf i = some c → s.goes c i ps →
    ∃ t, exec i s = .next t ∧
      (m.space = .s ∨ m.space = .c → (∀ T, cellWf (s.team T).scratch = true) → ∀ T k,
        let byteOf := fun (x : ThreadId) => (ps x).findSome? fun ch => match ch.place with
          | .scratch T' key => if T' = T ∧ key ≤ k ∧ k < key + ch.size then some ((s.dataOf c x i).getD (ch.off + (k - key)) 0) else none
          | _ => none
        cellGet (t.team T).scratch k = (((c.accessors i).filterMap byteOf).getLast?).getD (cellGet (s.team T).scratch k)) ∧
      (m.space = .g → ∀ x pa, c.accessors i = [x] → (ps x).map (fun ch => (ch.place, ch.off, ch.size)) = [(.g pa, 0, sizeBytes m.size)] →
        pa % 128 + sizeBytes m.size ≤ 128 → c.g.core < s.cores.length →
        (∃ r ∈ t.net, s.nextId < r.id ∧ r.kind = .store ∧ r.line = pa / 128 ∧ ∃ it ∈ r.items,
          it.thread = x ∧ it.off = pa % 128 ∧ it.data = s.dataOf c x i) ∨
        ∃ l ∈ (t.core c.g.core).lines, l.line = pa / 128 ∧ ∀ k < sizeBytes m.size,
          l.dirty.getLsbD (pa % 128 + k) = true ∧ l.valid.getLsbD (pa % 128 + k) = true ∧
          some ((l.data >>> (8 * (pa % 128 + k))).setWidth 8) = (s.dataOf c x i)[k]?) ∧
      (m.space = .g ∨ m.space = .p ∨ m.space = .k → c.g.core < s.cores.length → ∀ x ∈ c.accessors i, ∀ ch ∈ ps x, match ch.place with
        | .scratch .. => True
        | .k a => ∃ r ∈ t.net, s.nextId < r.id ∧ r.kind = .store ∧ r.k = true ∧ r.line = a / 128 ∧
            ∃ it ∈ r.items, it.thread = x ∧ it.off = a % 128 ∧ it.data = ((s.dataOf c x i).drop ch.off).take ch.size
        | .g pa => ∀ b, pa ≤ b → b < pa + ch.size →
            let byteOf := fun (y : ThreadId) => (ps y).findSome? fun z => match z.place with
              | .g p => if p ≤ b ∧ b < p + z.size then some ((s.dataOf c y i).getD (z.off + (b - p)) 0) else none
              | _ => none
            t.brings c.g.core b ((((c.accessors i).filterMap byteOf).getLast?).getD 0))

/-- R239, R241, R243: BARARV, BARSYN (`bararv`, `barsyn`) and the arriving forms of GBAR (`gbar`). With a scope, each thread's arrival
waits for its own release. With none, one at a team barrier counts at once: its threads join the arrival set, which empties and
advances the phase when it holds every live thread of the team; BARARV is answered with the phase that completes it, BARSYN's
threads are parked for that phase; and one at a gang or grid barrier goes to the barrier's unit as a request. What the model
reads into the spec there: log entries 42 and 68. -/
def Obligations.BarrierArrivals : Prop :=
  ∀ (i : Instr) (s : State) (c : Ctx) (kind : BarKind) (n : Nat) (scope : Scope) (dest : Option Nat) (waits : Bool) (T : Nat),
    s.ctxOf i = some c → s.arrivalOf c i = some (kind, n, scope, dest, waits) → s.noneOut →
    (∀ x ∈ c.takers, s.ownerOf kind x = T ∧ (kind = .grid → s.uncommitted x = false)) →
    ∃ t, exec i s = .next t ∧ s.sameMemory t ∧ s.sameRegs t ∧
      (scope ≠ .none → t.bar kind T n = s.bar kind T n ∧
        ∀ x ∈ c.takers, ∃ o ∈ t.ops, s.nextId ≤ o.id ∧ o.phase = .relWait ∧ o.rel = scope ∧ o.threads = [x] ∧
          (waits = true → c.takers.Nodup → (t.thread x).stat = .parked (.op o.id))) ∧
      (scope = .none → kind ≠ .team → ∃ r ∈ t.net, r.op = s.nextId ∧ r.kind = .barrier kind T n false ∧ r.items.map Item.thread = c.takers) ∧
      (scope = .none → kind = .team → n < (s.team T).barriers.length → (s.bar .team T n).carve = none →
        (∀ x ∈ c.takers, x ∈ s.teamLive T) →
        let b := s.bar .team T n
        let b' := barrierAfter b (s.teamLive T) c.takers
        t.bar .team T n = b' ∧
        (∀ d, dest = some d → ∃ r ∈ t.net, r.op = s.nextId ∧ ∀ x ∈ c.takers, ∃ it ∈ r.items, it.thread = x ∧ it.regs = [.v d] ∧
          leNat (it.own.map (·.2)) = (b.ph + 1).toNat) ∧
        (waits = true → b'.ph = b.ph → ∀ x ∈ c.takers, (t.thread x).stat = .parked (.barrier .team n (b.ph + 1) .none s.nextId)))

/-- R241, R242, R182: BARWT and the waiting form of GBAR park each thread until the phase its register names is reached, at
once if it has been, and change no barrier; one 2^31 phases old aside, where the spec leaves it open whether the waiter goes.
CARVE arrives as BARSYN without a scope does, recording its size, and the arrival that completes the phase leaves the new
allotment to be applied when each core has room for it, and else traps SPACE in the waiting threads. What the model reads
into the spec there: log entries 57 and 58. -/
def Obligations.BarrierWaits : Prop :=
  ∀ (s : State) (c : Ctx) (h : Hdr) (f : BarF) (d v : Reg8) (scope : Scope) (num : BitVec 2) (bar : BitVec 4) (T : Nat), s.noneOut →
    (∀ (i : Instr) (kind : BarKind) (n : Nat) (r : Reg8) (sc : Scope),
      (i = .barwt h f ∧ kind = barKind f ∧ n = s.barNum c f ∧ r = f.v ∧ sc = f.scope) ∨
      (i = .gbar h 1 d v scope num ∧ kind = .grid ∧ n = num.toNat ∧ r = v ∧ sc = scope ∧ ∀ x ∈ c.takers, s.uncommitted x = false) →
      s.ctxOf i = some c → (∀ x ∈ c.takers, s.ownerOf kind x = T ∧ x ∈ s.population kind T ∧ (s.thread x).hasV c.now [r.toNat] = true) →
      ∃ t, exec i s = .next t ∧ s.sameMemory t ∧ s.sameRegs t ∧ t.bar kind T n = s.bar kind T n ∧
        ∀ x ∈ c.takers, let e := (s.thread x).vreg r.toNat
          let b := s.bar kind T n
          (b.hold = false → b.reached e → if sc = .none then t.goesOn x
            else ∃ o ∈ t.ops, s.nextId ≤ o.id ∧ o.threads = [x] ∧ o.acq = sc ∧ (t.thread x).stat = .parked (.op o.id)) ∧
          (b.hold = true ∨ b.toCome e → ∃ id, s.nextId ≤ id ∧ (sc = .none → id = s.nextId) ∧ (t.thread x).stat = .parked (.barrier kind n e sc id))) ∧
    (s.ctxOf (.carve h d bar) = some c → (s.quire c.q).hasQ c.now c.hand [d.toNat] = true →
      (∀ x ∈ c.takers, s.ownerOf .team x = T ∧ x ∈ s.teamLive T) → bar.toNat < (s.team T).barriers.length →
      let size := ((s.quire c.q).qreg c.hand d.toNat).toNat
      let b := s.bar .team T bar.toNat
      let b' := barrierAfter b (s.teamLive T) c.takers
      b.carve = none ∨ b.carve = some size →
      ∃ t, exec (.carve h d bar) s = .next t ∧ s.sameMemory t ∧ s.sameRegs t ∧
        (t.bar .team T bar.toNat).ph = b'.ph ∧ (t.bar .team T bar.toNat).arrived = b'.arrived ∧
        (b'.ph = b.ph → (t.bar .team T bar.toNat).carve = some size ∧
          ∀ x ∈ c.takers, (t.thread x).stat = .parked (.barrier .team bar.toNat (b.ph + 1) .none s.nextId)) ∧
        (b'.ph ≠ b.ph → s.carveFits T size = true →
          (t.team T).carving = (s.team T).carving ++ [(bar.toNat, size)] ∧ (t.bar .team T bar.toNat).hold = true) ∧
        (b'.ph ≠ b.ph → s.carveFits T size = false → b.hold = false → c.takers.Nodup → ∀ x ∈ c.takers, s.entersAt x →
          s.trapped t x c.g.hdr c.g.pos { code := .space }))

/-- R255, R226, R376, R303 to R305: the instructions that wait for older operations. FENCE, for each of its threads by itself, and
STAMPSYNC are outstanding, with their scopes, until FENCE_COMPLETE; CTXSV and CTXLD behind a full fence at `.sy`, their threads parked; MWAIT is
outstanding for just those threads that have a matrix operation outstanding; MOPF changes nothing while an access of one of
its threads is outstanding, and else issues; MSTAT with nothing of its tile in the unit replies with the status word (a team
that does not hold the unit reads the reset values: log entry 27), and `.clr` clears NV, OF, UF, NX and CHKR. -/
def Obligations.OutstandingOperations : Prop :=
  ∀ (h : Hdr) (kind : FenceKind) (scope : Scope) (all clr : Bool) (idx : BitVec 6) (unit : BitVec 2) (sel st : BitVec 3) (d : Reg8)
    (s : State) (c : Ctx),
    let still := fun (t : State) => s.sameMemory t ∧ s.sameRegs t ∧ s.sameSpecial t
    let one := fun (i : Instr) (k : OpKind) (rel acq : Scope) => s.ctxOf i = some c → ∃ t, exec i s = .next t ∧ still t ∧
      (∃ o, t.ops = s.ops ++ [o] ∧ o.id = s.nextId ∧ o.kind = k ∧ o.threads = c.takers ∧ o.phase = .relWait ∧ o.rel = rel ∧ o.acq = acq) ∧
      ∀ x, (t.thread x).d = countersAfter c c.takers s x
    (s.ctxOf (.fence h kind scope) = some c → c.takers.Nodup → ∃ t, exec (.fence h kind scope) s = .next t ∧ still t ∧
      t.ops.length = s.ops.length + c.takers.length ∧ (∀ o ∈ s.ops, o ∈ t.ops) ∧ (∀ x ∈ c.takers, ∃ o ∈ t.ops, s.nextId ≤ o.id ∧
        o.kind = .fence kind ∧ o.threads = [x] ∧ o.phase = .relWait ∧ o.rel = scope ∧ o.acq = scope) ∧
      ∀ x, (t.thread x).d = countersAfter c c.takers s x) ∧
    one (.stampsync h all idx) (.stampsync all idx.toNat (s.part (s.partOfCore c.g.core)).units.slices) .dv .none ∧
    (∀ save, let i : Instr := if save then .ctxsv h unit else .ctxld h unit
      s.ctxOf i = some c → ∃ t, exec i s = .next t ∧ still t ∧ ∀ x ∈ c.takers, ∃ o ∈ t.ops, o.kind = .context save unit.toNat ∧
        o.threads = (if unit = 0 then [x] else c.takers) ∧ o.phase = .relWait ∧ o.rel = .sy ∧ o.acq = .sy ∧
        (t.thread x).stat = .parked (.op o.id)) ∧
    (s.ctxOf (.mwait h) = some c → s.opsOk → ∃ t, exec (.mwait h) s = .next t ∧ still t ∧ ∀ x ∈ c.takers,
      ((∃ o ∈ t.ops, o.kind = .mwait ∧ o.id = s.nextId ∧ x ∈ o.threads) ↔ ∃ o ∈ s.ops, o.kind = .matrix ∧ x ∈ o.threads)) ∧
    (s.ctxOf (.mopf st) = some c →
      let late := ∃ x ∈ c.takers, ∃ o ∈ s.ops, x ∈ o.threads ∧ (o.kind = .mem ∨ o.kind = .stamp ∨ o.kind = .waitc ∨ o.kind = .nred)
      (late → exec (.mopf st) s = .next s) ∧
      (¬ late → c.g.core < s.cores.length → ∃ t, exec (.mopf st) s = .next t ∧ still t ∧ t.ops = s.ops ∧ (t.core c.g.core).clock = c.now)) ∧
    (s.ctxOf (.mstat h clr sel d) = some c → s.opsOk → (∀ o ∈ s.ops, ∀ k b n rs, o.kind ≠ .mstat k b n rs) → sel.toNat ≤ 4 →
      c.g.core < s.cores.length → (s.unit c.g.core).status.length = 4 →
      (sel = 0 ∨ ∀ r ∈ (s.unit c.g.core).ops, r.what.tile? ≠ some (sel.toNat - 1)) →
      let u := s.unit c.g.core
      let mine := u.holder = some (s.quire c.q).team
      let old := u.status.getD (sel.toNat - 1) 0
      ∃ t, exec (.mstat h clr sel d) s = .next t ∧ s.sameMemory t ∧ s.sameRegs t ∧
        (∃ r ∈ t.net, r.op = s.nextId ∧ ∃ it ∈ r.items, it.thread = c.lead ∧ it.regs = [.q (qName c.hand d.toNat)] ∧
          leNat (it.own.map (·.2)) = if sel = 0 then (if mine then u.word else 0xFF0).toNat else if mine then old.toNat else 0) ∧
        (sel ≠ 0 → ((t.unit c.g.core).status)[sel.toNat - 1]? = some (if clr = true ∧ mine then old &&& 0x62 else old)))

/-- R245, R287 to R290: STDEF defines a free station, or one of its own team without a signer, or frees it when the count is
0; one that a round has begun to sign it leaves alone. A signing instruction (MLOAD, MSWAP, MSTREAM, MZERO, MFILL, MDRAIN,
MDRAINV: `mload`, `mswap`, `mstream`, `mzero`, `mfill`, `mdrain`, `mdrainv`) whose team owns the station and holds the unit
adds its threads to the signers, who wait; the one that makes the round complete passes the operation that the round's checks
give to the unit, in unit order, frees the signers of the station and lets its threads go on. What the model reads into the
spec there: log entries 40 and 45. -/
def Obligations.Stations : Prop :=
  ∀ (s : State) (c : Ctx), c.g.core < s.cores.length → (s.core c.g.core).stations.length = 16 →
    let core := c.g.core
    let team := (s.quire c.q).team
    (∀ (st : BitVec 3) (a : Reg8) (num : ObjName), s.ctxOf (.stdef st a num) = some c → s.qReady c (.stdef st a num) →
      let n := s.qn c a
      let sn := s.numOf c num % 16
      let z := (s.core core).stations.getD sn Station.reset
      n ≤ 3072 → (z.owner = none ∨ z.owner = some team) → (z.signers = [] ∨ n = z.n) →
      ∃ t, exec (.stdef st a num) s = .next t ∧ s.sameMemory t ∧ s.sameRegs t ∧
        (t.core core).stations.getD sn Station.reset =
          if z.signers ≠ [] then z else if n = 0 then Station.reset else { owner := some team, n := n, signers := [], set := none }) ∧
    ∀ (i : Instr) (name : ObjName), i.station? = some name → s.ctxOf i = some c → s.qReady c i →
      let sn := s.numOf c name % 16
      let z := (s.core core).stations.getD sn Station.reset
      let set := (opcodeSet i, i.uses.rq.map ((s.quire c.q).qreg c.hand))
      let now := z.signers ++ c.takers.map (fun x => (x, s.nextId))
      z.owner = some team → (s.unit core).holder = some team → z.set = none ∨ z.set = some set → s.opsOk →
      (now.length < z.n → ∃ t, exec i s = .next t ∧ s.sameMemory t ∧ s.sameRegs t ∧ t.unit core = s.unit core ∧
        (t.core core).stations.getD sn Station.reset = { z with signers := now, set := some set } ∧
        ∀ x ∈ c.takers, (t.thread x).stat = .parked (.station sn s.nextId)) ∧
      (now.length = z.n → ∀ what rows, s.roundCheck core (s.quire ((now.headD (c.lead, 0)).1).quire).team (now.headD (c.lead, 0)).1
          (now.all (fun y => (s.thread y.1).hand)) set.1 set.2 = .ok (what, rows) →
        ∃ t, exec i s = .next t ∧ (s.pagesSettled → s.sameMemory t) ∧ s.sameRegs t ∧
          (∃ r, (t.unit core).ops = (s.unit core).ops ++ [r] ∧ r.what = what ∧ r.rows = rows ∧ r.signers = now ∧ r.started = false) ∧
          ((t.core core).stations.getD sn Station.reset).signers = [] ∧ ∀ x ∈ c.takers, t.goesOn x)

/-- R237, R247 to R250, Tables 10.5 and 10.6: a handle instruction without an earlier waiter of its handle. HACQ of a FREE
handle makes it FILLING with its buffer and the carried expectation; HEXP raises the expectation, and the handle is FULL, its
parity turned, when the deliveries meet it; HTAKE of a FULL handle of its parity makes it DRAINING and replies with BASE;
HFREE frees a DRAINING handle, or one in error, whose error and carry it clears. HACQ and HTAKE in any other state wait, the
handle as it is; a HEXP of a handle in error, or of one that is not FILLING, with no HACQ of it waiting and not in the clock
that filled it, traps HANDLE. What the model reads into the spec there: log entry 13. -/
def Obligations.Handles : Prop :=
  ∀ (h : Hdr) (hw : HWord) (a b : Reg8) (s : State) (c : Ctx),
    let team := (s.quire c.q).team
    let tm := s.team team
    let hn := s.wordOf c hw % 32
    let x := s.handle team hn
    hn < tm.handles.length → (∀ w ∈ tm.hwait, w.h ≠ hn) → s.opsOk →
    let runs := fun (i : Instr) (y : Handle) (reply : State → Prop) => ∃ t, exec i s = .next t ∧ s.sameMemory t ∧ s.sameRegs t ∧
      t.handle team hn = y ∧ reply t ∧ (∃ r ∈ t.net, r.op = s.nextId ∧ r.stage = .replied) ∧ ∀ z ∈ c.takers, t.goesOn z
    let waits := fun (i : Instr) => ∃ t, exec i s = .next t ∧ s.sameMemory t ∧ s.sameRegs t ∧ t.handle team hn = x ∧
      (∃ w, (t.team team).hwait = tm.hwait ++ [w] ∧ w.op = s.nextId ∧ w.h = hn ∧ w.threads = c.takers) ∧
      ∀ z ∈ c.takers, (t.thread z).stat = .parked (.handle s.nextId)
    (s.ctxOf (.hacq h hw a b) = some c → s.qReady c (.hacq h hw a b) → x.err = false → s.qn c a % 128 = 0 → s.qn c b % 128 = 0 →
      s.qn c b ≠ 0 → s.qn c a + s.qn c b ≤ tm.allot * 65536 →
      if x.state = .free then
        runs (.hacq h hw a b) { x with base := s.qn c a, size := s.qn c b, exp := x.carry, carry := 0, dlv := 0, state := .filling } (fun _ => True)
      else waits (.hacq h hw a b)) ∧
    (s.ctxOf (.hexp h hw a) = some c → s.qReady c (.hexp h hw a) → x.err = false → x.state = .filling →
      let e := x.exp + s.qn c a
      e ≤ x.size →
      runs (.hexp h hw a) (if s.qn c a = 0 then x else if x.dlv = e then { x with exp := e, state := .full, ph := !x.ph }
        else { x with exp := e, err := decide (x.dlv > e) }) (fun _ => True)) ∧
    (s.ctxOf (.hexp h hw a) = some c → s.qReady c (.hexp h hw a) →
      x.err = true ∨ (x.state ≠ .filling ∧ (x.state = .full → x.fullAt + 1 ≠ s.tick)) → c.takers.Nodup → (∀ z ∈ c.takers, s.entersAt z) →
      ∃ t, exec (.hexp h hw a) s = .next t ∧ s.sameMemory t ∧ s.sameRegs t ∧ t.handle team hn = x ∧
        ∀ z ∈ c.takers, s.trapped t z c.g.hdr c.g.pos { code := .handle }) ∧
    (s.ctxOf (.htake h hw a) = some c → s.qReady c (.htake h hw a) → x.err = false →
      if x.state = .full ∧ x.ph = (s.wordOf c hw).testBit 5 then
        runs (.htake h hw a) { x with state := .draining } (fun t => ∃ r ∈ t.net, r.op = s.nextId ∧ ∃ it ∈ r.items,
          it.regs = [.q (qName c.hand a.toNat)] ∧ leNat (it.own.map (·.2)) = x.base % 2 ^ 32)
      else waits (.htake h hw a)) ∧
    (s.ctxOf (.hfree h hw) = some c → s.qReady c (.hfree h hw) → x.state = .draining ∨ x.err = true →
      runs (.hfree h hw) (if x.err then { x with state := .free, err := false, carry := 0 } else { x with state := .free }) (fun _ => True))

/-- R309, R318, R321 to R330: a copy command that finds a place in flight and its slot loaded, and whose checks all pass, is
handed to the streamer with the handles it delivers to and the pieces that its box, its gathered rows, its word or its
descriptor gives, and is outstanding for its thread. No byte has moved yet, and no register changed; what memory reads as can
change only where the command's translations are the first to show a page (R186, R393). What the model reads into the spec
there: log entries 18, 46 and 47. -/
def Obligations.CopyCommands : Prop :=
  ∀ (h : Hdr) (slot : BitVec 4) (hw : HWord) (d a b : Reg8) (s : State) (c : Ctx),
    let core := c.g.core
    let team := (s.quire c.q).team
    let hn := s.wordOf c hw % 32
    let x := s.handle team hn
    let off := s.qn c d
    let fits := fun (y : Handle) (n : Nat) => y.state ≠ .free ∧ off % 16 = 0 ∧ off + n ≤ y.size
    let coords := fun k => ((s.quire c.q).qreg c.hand (a.toNat + k)).toInt
    let bytes := fun (kind : AccKind) (ds : Desc) (vs : List (Option Nat)) => s.elemBytes team core kind ds.e vs
    let sound := fun (kind : AccKind) (ds : Desc) (vs : List (Option Nat)) => s.elemFault team core kind ds.e (vs.filterMap id) = none
    let allotted := (s.team team).allot * 65536
    core < s.cores.length → s.inFlight core < 16 → c.upset ≠ some false →
    let goes := fun (i : Instr) (kind : CopyKind) (dests : List (Nat × Nat × Nat)) (pieces : List Piece) (prio : Nat) =>
      s.ctxOf i = some c → s.qReady c i → ∃ t, exec i s = .next t ∧ (s.pagesSettled → s.sameMemory t) ∧ s.sameRegs t ∧
        (∃ y, (t.core core).copies = (s.core core).copies ++ [y] ∧ y.id = s.nextId ∧ y.team = team ∧ y.kind = kind ∧ y.dests = dests ∧
          y.pieces = pieces ∧ y.prio = prio ∧ y.started = false) ∧
        ∃ o, t.ops = s.ops ++ [o] ∧ o.id = s.nextId ∧ o.kind = .copy ∧ o.threads = c.takers
    (∀ pa, let va := ((s.quire c.q).qreg c.hand (a.toNat + 1)).toNat % 2 ^ 16 * 2 ^ 32 + s.qn c a
      a ≠ 0xFF#8 → va % 128 = 0 → s.translateNow team core false .read va 128 = .ok pa → (Desc.parse (s.memBytes pa 128)).ok = true →
      goes (.cpdesc h slot a) (.desc slot.toNat) [] [{ off := 0, src := [], from_ := [], data := s.memBytes pa 128, done := true }] 0) ∧
    (∀ ds, s.descBusy core team slot.toNat = false → s.descOf team slot.toNat = some ds → ds.dims ≤ 5 →
      let vs := ds.boxAddrs coords
      (fits x ds.bytes → sound .read ds vs →
        goes (.cpload h slot hw d a) .load [(team, hn, x.base)] (cutPieces off (bytes .read ds vs) []) ds.pri) ∧
      (off % 16 = 0 → off + ds.bytes ≤ allotted → sound .write ds vs →
        goes (.cpstore h slot d a) .store []
          (linePieces ((bytes .write ds vs).zipIdx.filterMap (fun z => z.1.map (fun pa => (pa, off + z.2))))) ds.pri) ∧
      (let n := s.qn c b; let lst := s.qn c a
        let idx := (List.range n).map (fun l => (BitVec.ofNat 32 (leNat (s.scratchBytes team (scratchKey 0 (lst + 4 * l)) 4))).toInt)
        1 ≤ n → n ≤ 256 → 2 ≤ ds.dims → fits x (n * ds.e * ds.b 0) → lst % 4 = 0 → lst + 4 * n ≤ allotted → sound .read ds (ds.gatherAddrs idx) →
        goes (.cpgather h slot hw d a b) .gather [(team, hn, x.base)] (cutPieces off (bytes .read ds (ds.gatherAddrs idx)) []) ds.pri) ∧
      (let teams := (s.gang (s.team team).gang).teams; let mask := s.qn c b % 256
        let aims := (teams.zipIdx.filter (fun z => mask.testBit z.2)).map (·.1)
        mask ≠ 0 → mask < 2 ^ teams.length → (∀ z ∈ aims, fits (s.handle z hn) ds.bytes) → sound .read ds vs →
        goes (.cpmcast h slot hw d a b) .mcast (aims.map (fun z => (z, hn, (s.handle z hn).base))) (cutPieces off (bytes .read ds vs) []) ds.pri)) ∧
    (let n := s.qn c b; n % 4 = 0 → 4 ≤ n → fits x n →
      goes (.cpfill h hw d a b) .fill [(team, hn, x.base)] (cutPieces off [] ((List.range (n / 4)).flatMap (fun _ => leBytes 4 (s.qn c a)))) 0) ∧
    (fits x 16 → goes (.fetchw h hw d) .fetchw [(team, hn, x.base)] (cutPieces off [] (List.replicate 16 0)) 0)

/-- R318, R331, R332: GROWG of whole gangs in a grid that is not co-resident goes to the distributor behind a release at `.dv`; SPEND ORs
its status into the grid's and ends the spine once the spine's copies are over, `.g` withdrawing the gangs that are not
placed, which an enforced replay order may hold back (R333); until then the spine is held. -/
def Obligations.WorkCreation : Prop :=
  ∀ (h : Hdr) (grid : Bool) (d a : Reg8) (s : State) (c : Ctx), c.g.core < s.cores.length → s.opsOk →
    let core := c.g.core
    let team := (s.quire c.q).team
    let gi := s.gridOf c.q
    let g := s.grid gi
    (s.ctxOf (.growg h d a) = some c → s.qReady c (.growg h d a) → s.inFlight core < 16 → c.upset ≠ some false → g.record.cor = false → s.qn c a % g.record.gangN = 0 →
      ∃ t, exec (.growg h d a) s = .next t ∧ s.sameMemory t ∧ s.sameRegs t ∧
        (∃ o, t.ops = s.ops ++ [o] ∧ o.id = s.nextId ∧ o.kind = .growg (s.qn c a) (qName c.hand d.toNat) ∧ o.phase = .relWait ∧ o.rel = .dv) ∧
        ∃ y, (t.core core).copies = (s.core core).copies ++ [y] ∧ y.kind = .growg ∧ y.op = s.nextId ∧ y.team = team) ∧
    (s.ctxOf (.spend h grid a) = some c → s.qReady c (.spend h grid a) → (∀ o ∈ s.ops, ∀ k w, o.kind ≠ .spend k w) → gi < s.grids.length →
      (grid = true → s.replayOn c.q ≠ 2) →
      ∃ t, exec (.spend h grid a) s = .next t ∧ s.sameMemory t ∧ s.sameRegs t ∧
        if ∃ y ∈ (s.core core).copies, y.team = team then
          t.grid gi = g ∧ (∃ o ∈ t.ops, o.id = s.nextId ∧ o.kind = .spend grid (s.qv c a)) ∧
          ∀ x ∈ c.takers, (t.thread x).stat = .parked (.op s.nextId)
        else
          t.grid gi = (if grid then { g with status := g.status ||| s.qv c a, ended := g.ended + g.pending.length * g.record.gangN,
                                             pending := [], max := g.count }
            else { g with status := g.status ||| s.qv c a }) ∧
          ∀ x ∈ c.takers, (t.thread x).stat = .exiting)

/-- R340, R342, R353 to R359, R362: BAGNEW whose checks pass makes an empty bag of the shape and capacity asked for and
replies with its word, and only the bytes of its frames read otherwise than before; every other bag instruction sends its
operation to the placer of the stack its word names, BAGPUT with the key and record of each thread, and holds its threads
until the verdict. What the model reads into the spec there: log entries 31 and 52. -/
def Obligations.BagInstructions : Prop :=
  ∀ (h : Hdr) (d a b cc : Reg8) (rsz : BitVec 2) (p : BitVec 3) (all : Bool) (s : State) (c : Ctx),
    let ready := fun (i : Instr) => s.ctxOf i = some c ∧ s.qReady c i ∧ ∀ x ∈ c.takers, (s.thread x).hasV c.now i.uses.rv = true
    let w := s.qv c a
    let key := fun (o : BagOp) => (o.bag, o.part, o.stack, o.core, o.what, o.threads, o.stage)
    let entry := fun (what : BagWhat) (ts : List ThreadId) =>
      (w, s.partOfCore c.g.core, (w.toNat / 4096 % 16) % 12, c.g.core, what, ts, BagStage.sent)
    let sends := fun (i : Instr) (what : BagWhat) => ready i → ∃ t, exec i s = .next t ∧ s.sameMemory t ∧ s.sameRegs t ∧
      t.bags = s.bags ∧ t.bagOps.map key = s.bagOps.map key ++ [entry what c.takers] ∧
      ∀ x ∈ c.takers, (t.thread x).stat = .parked (.op s.nextId)
    let each := fun (i : Instr) (what : ThreadId → BagWhat) => ready i → ∃ t, exec i s = .next t ∧ s.sameMemory t ∧ s.sameRegs t ∧
      t.bags = s.bags ∧ t.bagOps.map key = s.bagOps.map key ++ c.takers.map (fun x => entry (what x) [x]) ∧
      ∀ x ∈ c.takers, ∃ o, (t.thread x).stat = .parked (.op o)
    (∀ bag, ready (.bagnew h d a b cc) → a ≠ 0xFF#8 →
      s.newBag c (((s.quire c.q).qreg c.hand (a.toNat + 1)).toNat % 2 ^ 16 * 2 ^ 32 + w.toNat) (s.qv c b) (s.qv c cc) = .ok bag →
      ∃ t, exec (.bagnew h d a b cc) s = .next t ∧ s.sameRegs t ∧ t.bags = s.bags ++ [bag] ∧
        (s.pagesSettled → (∀ k, cellGet t.kmem k = cellGet s.kmem k) ∧
          ∀ x, (∀ f ∈ bag.frames, x < f ∨ f + 65536 ≤ x) → t.memByte x = s.memByte x) ∧
        bag.shape = s.qv c b ∧ bag.cap = s.qn c cc ∧ bag.n = 0 ∧ bag.groups = [] ∧
        bag.r = List.replicate (shapeB (s.qv c b)) 0 ∧ bag.fp = bag.r ∧ bag.cut = bag.r ∧
        ∃ r ∈ t.net, r.op = s.nextId ∧ ∃ it ∈ r.items, it.regs = [.q (qName c.hand d.toNat)] ∧ leNat (it.own.map (·.2)) = bag.word.toNat) ∧
    sends (.bagput h rsz d a b p) (.put (c.takers.map (fun x => (x, ((s.thread x).vreg b.toNat).setWidth 8,
      (List.range (recordRegs rsz)).map (fun k => (s.thread x).vreg (d.toNat + k))))) p.toNat) ∧
    sends (.bagcut h a) .cut ∧ sends (.bagdrn h a) .drn ∧ sends (.bagfree h a) .free ∧ sends (.baggrow h a b) (.grow (s.qv c b)) ∧
    each (.bagcnt h all d a b) (fun x => .cnt (if all then none else some ((s.thread x).vreg b.toNat).toNat) d.toNat) ∧
    each (.bagmap h d a b) (fun x => .map ((s.thread x).vreg b.toNat).toNat d.toNat)

/-- R367, R368, R373, R390: TRAP, SVC and BRK enter the handler in every taking thread, with cause TRAP and detail N, TRAP and detail
0x100 + N, and BRK and detail N, and the word after the instruction as resume address; with debug enabled in the partition,
BRK halts the gangs of its threads instead. A thread in handler mode, a spine's, or one whose partition has no trap vector stops
there, and its gang is to be killed with the trap code as cause (R370). -/
def Obligations.TrapInstructions : Prop :=
  ∀ (h : Hdr) (st : BitVec 3) (n : BitVec 8) (s : State) (c : Ctx),
    let dbg := (s.part (s.partOfCore c.g.core)).dbg.getLsbD 0
    let traps := fun (i : Instr) (tr : Trap) => s.ctxOf i = some c → c.takers.Nodup → (∀ x ∈ c.takers, s.entersAt x) →
      ∃ t, exec i s = .next t ∧ s.sameMemory t ∧ s.sameRegs t ∧ ∀ x ∈ c.takers, s.trapped t x c.g.hdr (c.g.pos + c.size) tr
    traps (.trap h n) { code := .trap, detail := n.toNat } ∧
    traps (.svc h n) { code := .trap, detail := 256 + n.toNat } ∧
    (dbg = false → traps (.brk st n) { code := .brk, detail := n.toNat }) ∧
    (∀ x, c.takers = [x] → s.entersNone x →
      (∀ i, i = .trap h n ∨ i = .svc h n → s.ctxOf i = some c → ∃ t, exec i s = .next t ∧ s.sameMemory t ∧ s.sameRegs t ∧ s.stoppedBy t x .trap) ∧
      (dbg = false → s.ctxOf (.brk st n) = some c → ∃ t, exec (.brk st n) s = .next t ∧ s.sameMemory t ∧ s.sameRegs t ∧ s.stoppedBy t x .brk)) ∧
    (dbg = true → s.ctxOf (.brk st n) = some c → ∃ t, exec (.brk st n) s = .next t ∧ s.sameRegs t ∧
      ∀ x ∈ c.takers, t.goesOn x ∧ (s.gangOf x.quire < s.gangs.length → (s.gang (s.gangOf x.quire)).dead = false →
        (t.gang (s.gangOf x.quire)).halted = true))

/-- R364, R374, R380: TRET leaves handler mode: it continues at `%tpc` within the clause at `%thdr` when that lies inside it,
else at `%tpc` as a clause; a thread whose cause is PREEMPT with detail 0 has ended its save, and one with detail 1 waits
while its team is being restored (no write of its trap registers being under way). A privileged instruction outside handler
mode traps PRIV in its threads, with the address of the instruction as resume address, and has no other effect. What the
model reads into the spec there: log entry 55. -/
def Obligations.TrapReturn : Prop :=
  ∀ (h : Hdr) (s : State) (c : Ctx),
    (s.ctxOf (.tret h) = some c → s.noneOut → ∃ t, exec (.tret h) s = .next t ∧ s.sameMemory t ∧ s.sameRegs t ∧
      ∀ x ∈ c.takers, let th := s.thread x
        th.tset = [] →
        let cause := th.tcause.toNat % 2 ^ 24
        if cause = 0x18 then (t.thread x).stat = .saved
        else if cause = 0x118 ∧ (s.team (s.quire x.quire).team).phase = .restoring then (t.thread x).stat = .parked .restore
        else th.preempt = false → th.waitK = none → ∀ w, s.codeWord? x (th.thdr.toNat % 2 ^ 48) = some w →
          let a := th.tpc.setWidth 48
          let hd := th.thdr.setWidth 48
          let inside := hd.toNat < a.toNat ∧ a.toNat < hd.toNat + 4 * (1 + w.toNat % 16) ∧ (a.toNat - hd.toNat) % 4 = 0
          (t.thread x).hand = false ∧ (t.thread x).stat = .ready ∧
          (t.thread x).hdr = (if inside then hd else a) ∧ (t.thread x).pos = if inside then (a.toNat - hd.toNat) / 4 else 0) ∧
    ∀ (i : Instr) (cur : Cur) (g : Gath), i.privileged = true → i.wf = true → s.cur = some cur → s.gaths[cur.gath]? = some g →
      s.takersOf g ≠ [] → (s.takersOf g).Nodup → (∀ x ∈ s.takersOf g, s.entersAt x) →
      ∃ t, exec i s = .next t ∧ s.sameMemory t ∧ s.sameRegs t ∧
        ∀ x ∈ s.takersOf g, s.trapped t x g.hdr g.pos { code := .priv }

/-- R364 to R366, R375, Table 15.1: MOVS gives each taking thread, or its quire, the register's value, that of a handler
register only in handler mode, else 0, when the writes of its T registers have taken effect; MOVSW in handler mode writes the
trap registers of its threads, each its own and 4 clocks later, and the q152 to q159 of its quire, and in any mode clears the
flags that the operand names in `%flags`, 4 clocks later too. What the model reads into the spec there: log entries 16, 48,
85 and 89. -/
def Obligations.SystemRegisters : Prop :=
  ∀ (st : BitVec 3) (d a : Reg8) (n : BitVec 8) (wide : Bool) (s : State) (c : Ctx),
    let value : ThreadId → Option DWord := fun x =>
      let th := (s.thread x).applyT
      let q := s.quire x.quire
      let spine := decide (q.role = .spine)
      let priv := fun (v : DWord) => if th.hand then v else 0
      let bit := fun (b : Bool) (k : Nat) => if b then 2 ^ k else 0
      match n.toNat with
      | 0 => some (if spine then 0xFFFFFFFF else BitVec.ofNat 64 ((32 * q.qid + x.lane) % 2 ^ 32))
      | 1 => some (BitVec.ofNat 64 (x.lane % 2 ^ 32))
      | 2 => some (if spine then 0xFFFFFFFF else BitVec.ofNat 64 (q.qid % 2 ^ 32))
      | 3 => some (BitVec.ofNat 64 ((s.team q.team).index % 2 ^ 32))
      | 4 => some (BitVec.ofNat 64 ((s.gang (s.gangOf x.quire)).number % 2 ^ 32))
      | 5 => some (BitVec.ofNat 64 ((if th.hand then q.core else q.core % 8) % 2 ^ 32))
      | 6 => some (BitVec.ofNat 64 ((if th.hand then q.core / 8
          else (s.part (s.partOfCore q.core)).units.clusters.countP (fun k => decide (k < q.core / 8))) % 2 ^ 32))
      | 7 => some (BitVec.ofNat 64 c.now)
      | 8 => if q.fset.all (fun e => decide (e.hold ≤ c.now)) then some (q.flagsAll.setWidth 64) else none
      | 9 => some (BitVec.ofNat 64 ((s.gang (s.gangOf x.quire)).relaunch % 2 ^ 32))
      | 10 => some (BitVec.ofNat 64 (s.partOfCore q.core % 2 ^ 32))
      | 11 => some ((s.dev.featAcc.getD 0 0).setWidth 64) | 12 => some ((s.dev.featAcc.getD 1 0).setWidth 64)
      | 13 => some ((s.dev.featAcc.getD 2 0).setWidth 64) | 14 => some ((s.dev.featAcc.getD 3 0).setWidth 64)
      | 16 => some (BitVec.ofNat 64 (bit th.hand 0 + bit th.hand 1 + bit (s.grid (s.gridOf x.quire)).chk 2 +
          bit (s.recordQ x.quire).strict 3 + bit th.dbg 4))
      | 17 => some (priv (th.tcause.setWidth 64)) | 18 => some (priv th.tpc) | 19 => some (priv th.thdr) | 20 => some (priv th.taddr)
      | 21 => some (priv ((th.tsc.getD 0 0).setWidth 64)) | 22 => some (priv ((th.tsc.getD 1 0).setWidth 64))
      | 23 => some (priv ((th.tsc.getD 2 0).setWidth 64)) | 24 => some (priv ((th.tsc.getD 3 0).setWidth 64))
      | 25 => some (priv (BitVec.ofNat 64 (match (s.team q.team).area with
          | none => 0
          | some k => ((s.part (s.grid (s.gang (s.gangOf x.quire)).grid).part).ctxpool + k * 2 ^ 24) % 2 ^ 48)))
      | 26 => some (priv (s.part (s.partOfCore q.core)).tvec) | 27 => some (priv (s.part (s.partOfCore q.core)).svec)
      | 28 => some (priv (s.part (s.partOfCore q.core)).rvec)
      | _ => none
    let inEffect := fun (x : ThreadId) => ∀ w ∈ (s.thread x).tset, w.at_ ≤ c.now
    (s.ctxOf (.movs st wide false d n) = some c → ∃ t, exec (.movs st wide false d n) s = .next t ∧ s.sameMemory t ∧
      ∀ x ∈ c.takers, inEffect x → ∀ v, value x = some v → (s.thread x).hasV c.now (span d.toNat (if wide then 2 else 1)) = true →
        (t.thread x).v[d.toNat]? = some (v.setWidth 32) ∧ (wide = true → (t.thread x).v[d.toNat + 1]? = some ((v >>> 32).setWidth 32))) ∧
    (s.ctxOf (.movs st wide true d n) = some c → ∃ t, exec (.movs st wide true d n) s = .next t ∧ s.sameMemory t ∧
      inEffect c.lead → ∀ v, value c.lead = some v → (s.quire c.q).hasQ c.now c.hand (span d.toNat (if wide then 2 else 1)) = true →
        (t.quire c.q).qreg c.hand d.toNat = v.setWidth 32 ∧
        (wide = true → (t.quire c.q).qreg c.hand (d.toNat + 1) = (v >>> 32).setWidth 32)) ∧
    (s.ctxOf (.movsw st wide false a n) = some c →
      (∀ x ∈ c.takers, (s.thread x).hasV c.now (span a.toNat (if wide then 2 else 1)) = true) →
      ∃ t, exec (.movsw st wide false a n) s = .next t ∧ s.sameMemory t ∧ s.sameRegs t ∧ ∀ x ∈ c.takers,
        let v : DWord := pairOf ((s.thread x).vreg a.toNat) (if wide then (s.thread x).vreg (a.toNat + 1) else 0)
        let put := fun (old : DWord) => if wide then v else (old.extractLsb' 32 32 ++ v.setWidth 32 : BitVec (32 + 32))
        let th := (s.thread x).applyT
        let th' := (t.thread x).applyT
        (∃ e, (t.thread x).tset.getLast? = some e ∧ e.at_ = c.now + 4 ∧ e.reg = n.toNat) ∧
        th'.dbg = (if n.toNat = 16 then v.getLsbD 4 else th.dbg) ∧ th'.hand = th.hand ∧
        th'.tcause = (if n.toNat = 17 then v.setWidth 32 else th.tcause) ∧ th'.tpc = (if n.toNat = 18 then put th.tpc else th.tpc) ∧
        th'.thdr = (if n.toNat = 19 then put th.thdr else th.thdr) ∧ th'.taddr = (if n.toNat = 20 then put th.taddr else th.taddr) ∧
        th'.tsc = if 21 ≤ n.toNat ∧ n.toNat ≤ 24 then th.tsc.set (n.toNat - 21) (v.setWidth 32) else th.tsc) ∧
    (s.ctxOf (.movsw st wide true a n) = some c → (s.quire c.q).hasQ c.now c.hand [a.toNat] = true →
      ∃ t, exec (.movsw st wide true a n) s = .next t ∧ s.sameMemory t ∧
        (∀ x, (t.thread x).special = (s.thread x).special) ∧
        (n = 8 → c.q < s.quires.length → (∀ e ∈ (s.quire c.q).fset, e.hold ≤ c.now) →
          (t.quire c.q).flagsAt (c.now + 3) = (s.quire c.q).flagsAll ∧
          (t.quire c.q).flagsAt (c.now + 4) = (s.quire c.q).flagsAll &&& ~~~ s.qv c a) ∧
        (32 ≤ n.toNat → n.toNat ≤ 39 → (s.quire c.q).hasQ c.now false [120 + n.toNat] = true →
          (t.quire c.q).qreg false (120 + n.toNat) = s.qv c a))

/-- R28 to R30, R79 to R83, R86, R87, R94, R240, R367: the schedulers' steps. The threads that the picker names start the
clause they stand at, whose words are those that a fetch finds, each with the governing value that the header names; a quire
leaves the active set when none of its threads can run and no reconvergence clause of it is ready, or after a YIELD; the
oldest resolved pending quire enters while fewer than eight are active; the reconvergence clause of an active quire that
became ready first issues for the threads held at it, every other live thread of the quire being out of the way; a thread
with its counters at zero retires; and a trap enters its handler once older writes are over. What the model reads into the
spec there: log entries 9, 59, 60, 61 and 79. -/
def Obligations.SchedulerSteps : Prop :=
  ∀ s : State,
    let reads := fun (ms : List ThreadId) (a : Addr) (w : Word) (ws : List Word) => ∃ ps qs,
      (∀ x ∈ ms, s.fetchCheck x a 0 1 = .ok ps ∧ s.fetchCheck x a 1 (hdrCount w) = .ok qs) ∧
      ∀ x ∈ ms, (s.fetchWords (s.quire x.quire).core ps).head? = some w ∧ s.fetchWords (s.quire x.quire).core qs = ws
    let starts := fun (i : Instr) (ms : List ThreadId) (x0 : ThreadId) (a : Addr) (pos : Nat) (w : Word) (ws : List Word) =>
      ∃ t, exec i s = .next t ∧ s.sameMemory t ∧ s.sameRegs t ∧ s.sameSpecial t ∧
        t.gaths = s.gaths ++ [{ core := (s.quire x0.quire).core, ip := (s.quire x0.quire).ip, hdr := a, header := w, words := ws,
                                pos := max 1 pos, members := ms }] ∧
        ∀ x ∈ ms, (t.thread x).stat = .gathered ∧
          (pos = 0 → (s.quire x.quire).role ≠ .spine → (s.thread x).pend = [] → (s.thread x).busy = [] →
            (t.thread x).gov = ((s.thread x).preg (hdrPred w) != hdrNeg w))
    (∀ (ms : List ThreadId) (x0 : ThreadId) (w : Word) (ws : List Word), let a := (s.thread x0).hdr; let pos := (s.thread x0).pos
      ms.head? = some x0 → s.mayGather ms = true → reads ms a w ws → headerBad w = false → wordsBad (ws.drop (pos - 1)) = false →
      (pos = 0 → (∀ i ∈ clauseInstrs ws, i.quireWide = false) ∧ ∀ x ∈ ms, (s.thread x).waitOk (hdrWait w) = true) →
      (quiresOf ms).length ≤ 1 ∨ manyQuires (clauseInstrs (ws.drop (pos - 1))) = true →
      starts (.clauseStart ms) ms x0 a pos w ws) ∧
    (∀ q, (s.quire q).active = true → (s.quire q).role ≠ .spine →
      ((∀ x ∈ s.liveOf q, let st := (s.thread x).stat
          (st = .ready → s.waitsCounter x = true ∨ s.onWalk x = true) ∧ (st = .gathered → s.onWalk x = true)) ∧ s.reconvReady q = []) ∨
        ((∀ x ∈ s.liveOf q, (s.thread x).stat ≠ .gathered) ∧ (s.quire q).yielded = true ∧
          ∃ r ∈ s.sameIp q, (s.quire r).active = false ∧ s.resolvedQuire r = true) →
      ∃ t, exec (.quireSwapOut q) s = .next t ∧ s.sameMemory t ∧ s.sameRegs t ∧ s.sameSpecial t ∧
        (t.quire q).active = false ∧ ∀ r, r ≠ q → (t.quire r).active = (s.quire r).active) ∧
    (∀ q, q < s.quires.length → (s.quire q).active = false → (s.quire q).resolved ≠ 0 → (s.quire q).resolved ≤ s.tick + 1 →
      ((s.sameIp q).filter (fun r => (s.quire r).active)).length < 8 →
      (∀ r ∈ s.sameIp q, (s.quire r).active = true ∨ (s.quire r).resolved = 0 ∨ (s.quire q).resolved ≤ (s.quire r).resolved) →
      ∃ t, exec (.quireActivate q) s = .next t ∧ s.sameMemory t ∧ s.sameRegs t ∧ s.sameSpecial t ∧
        (t.quire q).active = true ∧ ∀ r, r ≠ q → (t.quire r).active = (s.quire r).active) ∧
    (∀ (q : Nat) (a : Addr) (hand : Bool) (x0 : ThreadId) (w : Word) (ws : List Word), let ms := s.heldAt q a hand
      ms.head? = some x0 → (s.quire q).active = true → (s.quire q).reconv.head? = some (a, hand) → (∀ x ∈ ms, s.mayRun x = true) →
      (∀ x ∈ s.liveOf q, let th := s.thread x
        th.hand ≠ hand ∨ th.stat = .held ∨ th.stat = .saved ∨ (∃ tr, th.stat = .trapping tr) ∨ ∃ k, th.stat = .parked k ∧ s.parkedFor k = true) →
      reads ms a w ws → headerBad w = false → wordsBad ws = false → (∀ x ∈ ms, (s.thread x).waitOk (hdrWait w) = true) →
      starts (.reconvergenceIssue q a) ms x0 a 0 w ws) ∧
    (∀ x, (s.thread x).stat = .exiting → (∀ n ∈ (s.thread x).d, n = 0) → s.noneOut →
      ∃ t, exec (.threadRetire x) s = .next t ∧ s.sameMemory t ∧ s.sameRegs t ∧ (t.thread x).stat = .retired ∧
        ((s.quire x.quire).role ≠ .spine →
          (∀ n < 16, x ∉ (t.bar .team (s.quire x.quire).team n).arrived) ∧ ((∀ y ∈ s.liveOf x.quire, y = x) → (t.quire x.quire).active = false))) ∧
    ∀ x tr, s.olderWrites x = false →
      ((s.thread x).stat = .trapping tr → ¬ (tr.code = .preempt ∧ tr.detail = 0) → tr.detail < 2 ^ 16 →
        ∃ t, exec (.trapEntry x) s = .next t ∧ s.sameMemory t ∧ s.sameRegs t ∧ s.trapped t x (s.thread x).hdr (s.thread x).pos tr) ∧
      let vec := (s.part (s.partOfCore (s.quire x.quire).core)).svec
      ((s.thread x).stat = .ready ∨ (s.thread x).stat = .held → (s.thread x).preempt = true → (s.thread x).hand = false →
        (s.quire x.quire).role ≠ .spine → vec ≠ 0 →
        ∃ t, exec (.trapEntry x) s = .next t ∧ s.sameMemory t ∧ s.sameRegs t ∧ (t.thread x).tcause = 0x18 ∧
          (t.thread x).tpc = ((s.thread x).hdr + BitVec.ofNat 48 (4 * (s.thread x).pos)).setWidth 64 ∧
          (t.thread x).hand = true ∧ (t.thread x).stat = .ready ∧ (t.thread x).hdr = vec.setWidth 48 ∧ (t.thread x).preempt = false)

/-- R73 to R77, R170, R182, R311 to R314, R380, R383, R391, R403: the distributor's steps. The next launch entry's record
becomes a grid with its gangs pending, logged with the digests of its buffers when it replays, or is refused by event 2 with
the first violated item, or because an enforced log holds another; the pending gang whose turn it is, placed where it fits,
has its teams, quires and threads as at reset, and a free private slot; a gang whose threads have all ended their save leaves
its units, with every dirty byte of their L1s written back, and waits as saved; a team whose spine, quires and copies are
over ends, the last of its grid with event 1 and the grid's status; and a completed CARVE takes effect, its waiters going on.
That the host declares a launch's buffers, that their digests stand in the log, and that an enforced log refuses any record other
than its next one, is the model's choice, log entry 56 (R391 refuses where a digest differs). What else it reads into the spec
there: log entries 2, 11, 62, 63, 64 and 103. -/
def Obligations.DistributorSteps : Prop :=
  ∀ s : State,
    (∀ p, let P := s.part p
      let at_ := P.lqBase + 16 * (P.lqHead % P.lqSize)
      let entry := s.memBytes at_ 16
      let ra := leNat (entry.take 6)
      let r := LaunchRec.parse (s.memBytes ra 256)
      let number := BitVec.ofNat 32 (leNat ((entry.drop 8).take 4))
      ∀ buffers : List (Nat × Nat), let logged := (s.memBytes ra 256, buffers.map (fun b => Crypto.sha256 (s.memBytes b.1 b.2)))
      s.dev.enok = true → s.dev.fatal = false → p < s.parts.length → p < 8 → P.lqSize ≠ 0 → P.lqHead ≠ P.lqTail → s.memWf →
      s.partOfPa at_ = p → s.partOfPa (at_ + 15) = p → s.partOfPa ra = p → s.partOfPa (ra + 255) = p →
      (∀ b ∈ buffers, s.partOfPa b.1 = p ∧ s.partOfPa (b.1 + b.2 - 1) = p) →
      ∃ t, exec (.launchAccept ⟨p, buffers⟩) s = .next t ∧ s.sameRegs t ∧ (t.part p).lqHead = (P.lqHead + 1) % 2 ^ 32 ∧
        match r.refusal (P.units.slices.length * 2 ^ 19) with
        | some n => t.grids = s.grids ∧ s.eventPut t p 2 number n
        | none =>
          if r.replay = true ∧ P.replay.toNat = 2 ∧ P.launches.head? ≠ some logged then t.grids = s.grids
          else (r.replay = true → P.replay.toNat = 1 → (t.part p).launches = P.launches ++ [logged]) ∧ s.sameMemory t ∧ ∃ g, t.grids = s.grids ++ [g] ∧ g.part = p ∧ g.number = number ∧ g.record = r ∧
            g.pending = List.range (r.teams / r.gangN) ∧ g.count = r.teams ∧ g.max = r.maxTeams ∧ g.status = 0 ∧ g.ended = 0 ∧
            g.chk = (r.attr.getLsbD 1 || P.compulsory)) ∧
    (∀ p gi n f, let g := s.grid gi
      let r := g.record
      s.dev.enok = true → s.dev.fatal = false → (s.part p).ckSaving = false → s.firstGrid p = some gi → g.reserved = [] → r.replay = false →
      r.cor = false → g.multi = .none → s.firstOf gi = some (.new n) → s.gangFits gi (.new n) f = true →
      (∀ c ∈ span f (r.gangN * r.coresN), s.cleanReady c = true) → (∀ o ∈ s.ops, ∀ k w, o.kind ≠ .spend k w) →
      ∃ t, exec (.placementStep p [f]) s = .next t ∧
        ((∀ c ∈ span f (r.gangN * r.coresN), (∀ l ∈ (s.core c).lines, l.dirty = 0) ∧ ∀ y ∈ (s.unit c).ops, ∀ w ∈ s.watch, w.owner ≠ y.id) → s.sameMemory t) ∧
        (∀ q < s.quires.length, t.quire q = s.quire q) ∧
        (t.grid gi).pending = g.pending.filter (· ≠ n) ∧ (t.grid gi).admitted = true ∧
        t.gangs.length = s.gangs.length + 1 ∧ t.teams.length = s.teams.length + r.gangN ∧
        (let x := t.gang s.gangs.length; x.grid = gi ∧ x.number = n + g.team0 / r.gangN ∧ x.teams = span s.teams.length r.gangN ∧ x.resident = true ∧ x.dead = false ∧
          x.halted = false ∧ ∀ b < 4, x.barriers[b]? = some Barrier.reset) ∧
        ∀ k < r.gangN, let T := t.team (s.teams.length + k)
          T.gang = s.gangs.length ∧ T.rank = k ∧ T.cores = span (f + k * r.coresN) r.coresN ∧
          T.index = (n + g.team0 / r.gangN) * r.gangN + k + g.team0 % r.gangN ∧ T.ended = false ∧ T.scratch = [] ∧
          T.allot = (r.scratch + 65535) / 65536 ∧ (r.privLim ≠ 0 → ∃ z, T.ps = some z ∧ z < r.pslots ∧ z ∉ s.slotsHeld gi) ∧ (∀ b < 16, T.barriers[b]? = some Barrier.reset) ∧
          (∀ h < 32, T.handles[h]? = some Handle.reset) ∧ T.queues = List.replicate 6 [] ∧ T.quires.length = r.quires ∧
          (∀ j < r.quires, let q := t.quire (T.quires.getD j 0)
            q.team = s.teams.length + k ∧ q.qid = j ∧ q.core = T.cores.getD (j % r.coresN) 0 ∧ q.ip = j / r.coresN % 8 ∧
            q.role = (if j < r.mquires then .matrix else .vector) ∧ q.q = List.replicate 160 0 ∧ q.qp = 0 ∧ q.flags = 0 ∧
            q.threads = List.replicate 32 (Thread.placed (if j < r.mquires then r.entryM else r.entryV) r.regs)) ∧
          (t.quire T.spine).role = .spine ∧ (t.quire T.spine).team = s.teams.length + k ∧
          ((t.thread ⟨T.spine, 0⟩).stat = if r.entryS = 0 then .retired else .ready) ∧ (t.thread ⟨T.spine, 0⟩).hdr = r.entryS) ∧
    (∀ g, let gi := (s.gang g).grid
      s.gangSaved g = true → gi < s.grids.length →
      let cores := ((s.gang g).teams.filter (fun T => !(s.team T).ended)).flatMap (fun T => (s.team T).cores)
      ∃ t, exec (.preemptUnitsFree g) s = .next t ∧ s.sameRegs t ∧ (t.gang g).resident = false ∧
        ((∀ c ∈ cores, ∀ l ∈ (s.core c).lines, l.dirty = 0) → s.sameMemory t) ∧
        (∀ c ∈ cores, ∀ l ∈ (s.core c).lines, (∀ c' ∈ cores, ∀ l' ∈ (s.core c').lines, l'.line = l.line → c' = c ∧ l' = l) → s.memWf →
          ∀ k < 128, l.dirty.getLsbD k = true → s.isOpen (l.line * 128 + k) = false →
            t.memByte (l.line * 128 + k) = (l.data >>> (8 * k)).setWidth 8) ∧
        (t.grid gi).saved = (s.grid gi).saved ++ [g] ∧
        ∀ T ∈ (s.gang g).teams, (s.team T).ended = false → (t.team T).phase = .saved ∧
          ∀ c ∈ (s.team T).cores, (t.core c).lines = [] ∧ (∀ z ∈ (t.core c).stations, z.owner ≠ some T) ∧ (t.core c).unit.holder ≠ some T) ∧
    (∀ T, let m := s.team T
      let gi := (s.gang m.gang).grid
      let g := s.grid gi
      m.ended = false → m.phase = .none → (s.gang m.gang).dead = false → (∀ k ∈ s.kills, k.gang ≠ m.gang) →
      (∀ q ∈ m.spine :: m.quires, ∀ th ∈ (s.quire q).threads, th.stat = .retired) →
      (∀ c ∈ m.cores, ∀ y ∈ (s.core c).copies, y.team ≠ T) → gi < s.grids.length → s.memWf → g.part < s.parts.length →
      ∃ t, exec (.teamEnd T) s = .next t ∧ s.sameRegs t ∧ (t.team T).ended = true ∧ (t.grid gi).ended = g.ended + 1 ∧
        (∀ c ∈ m.cores, (∀ z ∈ (t.core c).stations, z.owner ≠ some T) ∧ (t.core c).unit.holder ≠ some T) ∧
        (if g.pending = [] ∧ g.saved = [] ∧ g.count ≤ g.ended + 1 ∧ g.dead = false ∧ g.reported = false then
          s.eventPut t g.part 1 g.number g.status.toNat else s.sameMemory t)) ∧
    ∀ T n size more, let m := s.team T
      m.carving = (n, size) :: more → s.scratchBusy T = false → (m.allot < size → ∀ c ∈ m.cores, s.cleanReady c = true) →
      n < m.barriers.length → s.noneOut → cellWf m.scratch = true →
      ∃ t, exec (.carveApply T) s = .next t ∧ s.sameRegs t ∧ (t.team T).allot = size ∧ (t.team T).carving = more ∧
        ((m.allot < size → ∀ c ∈ m.cores, ∀ l ∈ (s.core c).lines, l.dirty = 0) → s.sameMemory t) ∧
        (t.bar .team T n).hold = false ∧
        (∀ k < m.cores.length, ∀ off < 2 ^ 24, cellGet (t.team T).scratch (scratchKey k off) =
          if off < size * 65536 then cellGet m.scratch (scratchKey k off) else 0) ∧
        ∀ x ∈ s.teamLive T, ∀ e op, (s.thread x).stat = .parked (.barrier .team n e .none op) →
          0 ≤ ((s.bar .team T n).ph - e).toInt → t.goesOn x

/-- R176, R197, R206, R219, R220, R225 to R230: updates at a home slice. A store gives the bytes that its items bring, the
last item winning where they overlap; a RED, ATOM or CAS gives the bytes of Table 9.6 from the old ones, and a CAS only where
they equal its comparand, the old bytes going back; a stamp gives the line that its run commits, and nothing when it discards
or faults; a write-back gives just its dirty bytes. Every other byte, and one that reads as undefined whatever is stored
(R186, R292, R340), reads as before, the slice's tag rises by one for each update, and the request's reply is on its way.
What the model reads into the spec there: log entries 39 and 101. -/
def Obligations.SliceUpdates : Prop :=
  ∀ (s : State) (id : Nat) (r : Req), s.memWf → s.req? id = some r → s.atSlice r = true → (∀ q, r.quire? = some q → s.replayOn q = 0) →
    r.slice < s.slices.length →
    let P := s.part r.part
    let byte := fun (t : State) (a : Nat) => if r.k then t.kByteAt r.part a else t.memByte a
    let free := fun (a : Nat) => if r.k then s.hides (kAt r.part a) = true else s.isOpen a = true
    let there := fun (a : Nat) => r.k = false ∨ a < P.units.slices.length * 2 ^ 19
    let at_ := r.line * 128
    let ord := fun (t : State) => (t.slices.getD r.slice Slice.reset).ord
    (r.kind = .store → (∀ it ∈ r.items, it.off + it.data.length ≤ 128) → there (at_ + 127) →
      ∃ t, exec (.sliceUpdateApply id) s = .next t ∧ s.sameRegs t ∧
        (∃ r', t.req? id = some r' ∧ r'.stage = .replied ∧ r'.items = r.items ∧ r'.fault = none) ∧ ord t = ord s + 1 ∧
        (∀ a, there a → ¬ free a → byte t a = ((r.items.filterMap (fun it =>
          if at_ + it.off ≤ a ∧ a < at_ + it.off + it.data.length then it.data[a - (at_ + it.off)]? else none)).getLast?).getD (byte s a))) ∧
    (∀ (op : Nat) (reply : Bool) (it : Item) (b : Word), r.kind = .atomic op 0 false reply → op ≤ 11 → r.items = [it] → it.size = 4 →
      it.data = leBytes 4 b.toNat → it.off + 4 ≤ 128 → there (at_ + 127) →
      let old : Word := BitVec.ofNat 32 (leNat ((List.range 4).map (fun i => byte s (at_ + it.off + i))))
      let new : Word := match op with
        | 0 => old + b | 1 => old - b
        | 2 => if old.slt b then old else b | 3 => if old < b then old else b
        | 4 => if old.slt b then b else old | 5 => if old < b then b else old
        | 6 => old &&& b | 7 => old ||| b | 8 => old ^^^ b | 9 => b
        | 10 => if b ≤ old then 0 else old + 1
        | _ => if old = 0 ∨ b < old then b else old - 1
      ∃ t, exec (if reply then .sliceAtomicApply id else .sliceUpdateApply id) s = .next t ∧ s.sameRegs t ∧
        (∃ r', t.req? id = some r' ∧ r'.stage = .replied ∧ r'.items.map Item.res = [leBytes 4 old.toNat]) ∧ ord t = ord s + 1 ∧
        (∀ a, there a → ¬ free a → byte t a = if at_ + it.off ≤ a ∧ a < at_ + it.off + 4 then (leBytes 4 new.toNat).getD (a - (at_ + it.off)) 0 else byte s a)) ∧
    (∀ (op w n : Nat) (it : Item) (cmp new : List Byte), r.kind = .atomic op w true true → r.items = [it] → it.size = n → it.data = cmp ++ new →
      cmp.length = n → new.length = n → it.off + n ≤ 128 → there (at_ + 127) →
      let old := (List.range n).map (fun i => byte s (at_ + it.off + i))
      ∃ t, exec (.sliceAtomicApply id) s = .next t ∧ s.sameRegs t ∧
        (∃ r', t.req? id = some r' ∧ r'.stage = .replied ∧ r'.items.map Item.res = [old]) ∧
        (∀ a, there a → ¬ free a → byte t a = if old = cmp ∧ at_ + it.off ≤ a ∧ a < at_ + it.off + n then new.getD (a - (at_ + it.off)) 0 else byte s a)) ∧
    (∀ (idx reply first : Nat) (it : Item) (e : StampEntry), r.kind = .stamp idx reply first → r.items = [it] → it.data.length ≤ 64 → r.k = false →
      s.stampFetch r.part r.slice idx = .ok e →
      let pre := bytesWords ((List.range 128).map (fun i => byte s (at_ + i)))
      let payload := bytesWords it.data ++ List.replicate (16 - it.data.length / 4) 0
      let image := fun (l : List Word) => (((if e.entry.getLsbD 53 then l else pre).drop first).take (stampWords reply)).flatMap (fun w => leBytes 4 w.toNat)
      ∃ t, exec (.stampRun id) s = .next t ∧ s.sameRegs t ∧ ∃ r', t.req? id = some r' ∧ r'.stage = .replied ∧
        match (StampSt.entry pre payload).run e.code with
        | .commit l => r'.fault = none ∧ r'.items.map Item.res = [image l] ∧
            ∀ a, t.memByte a = if at_ ≤ a ∧ a < at_ + 128 ∧ s.isOpen a = false then (l.flatMap (fun w => leBytes 4 w.toNat)).getD (a - at_) 0 else s.memByte a
        | .discard => r'.fault = none ∧ r'.items.map Item.res = [image pre] ∧ ∀ a, t.memByte a = s.memByte a
        | .fault sub => r'.fault = some { code := .stampf, detail := sub } ∧ ∀ a, t.memByte a = s.memByte a) ∧
    (s.net.find? (fun x => x.core == r.core && x.line == r.line && x.kind == .writeback && s.atSlice x) = some r →
      ∃ t, exec (.writebackMerge r.core r.line) s = .next t ∧ s.sameRegs t ∧ ord t = ord s + 1 ∧
        (if r.op = 0 then t.req? id = none else ∃ r', t.req? id = some r' ∧ r'.stage = .replied) ∧
        ∀ a, t.memByte a = if at_ ≤ a ∧ a < at_ + 128 ∧ r.mask.getLsbD (a - at_) = true ∧ s.isOpen a = false then (r.data >>> (8 * (a - at_))).setWidth 8 else s.memByte a)

/-- R180, R183 to R187, R196, R199, R211 to R216, R226: steps of requests and of the fabric. A load is served the line's
bytes as its home slice holds them (and a last-use load leaves them undefined); prefetches end; a refused request is sent
again on its plane; a reply writes its registers, and its operation is over; a slice drops its copies of stamp entries for
STAMPSYNC; a page walk that finds a leaf enters it in the TLB, and one that finds none traps XLATE, or PROT where an entry
lies in another partition's memory (R24); a leaf reports a plane; a plane declared dead has its requests replayed on a live
one; and when all is delivered the dead plane's buckets pass in turn to the live ones. What the model reads into the spec
there: log entries 15, 17, 28, 93 and 94. -/
def Obligations.RequestSteps : Prop :=
  ∀ (s : State) (id : Nat),
    let onPlane := fun (r : Req) => let p := s.planeOf (r.line * 128)
      { r with plane := p, stage := if s.fabric.busy then .leaf else if s.fabric.alive.getLsbD p then .sent else .replay false }
    (∀ r, s.req? id = some r → s.atSlice r = true →
      (r.kind = .load ∨ r.kind = .fetch 0 → ∃ t, exec (.sliceLoadServe id) s = .next t ∧ s.sameRegs t ∧
        (∃ r', t.req? id = some r' ∧ r'.stage = .replied ∧ ∀ i < 128, some ((r'.data >>> (8 * i)).setWidth 8) =
          (s.sliceBytes r.part r.k (r.line * 128) 128)[i]?) ∧
        (if r.lu = true ∧ r.k = false then t.undefMask r.line = BitVec.allOnes 128 ∧ ∀ a, a / 128 ≠ r.line → t.memByte a = s.memByte a
          else s.sameMemory t)) ∧
      (∀ n, r.kind = .fetch (n + 1) → ∃ t, exec (.sliceLoadServe id) s = .next t ∧ s.sameMemory t ∧ s.sameRegs t ∧ t.req? id = none)) ∧
    (∀ r, s.req? id = some r → r.stage = .refused → s.fabric.busy = false →
      ∃ t, exec (.waitQueueResend id) s = .next t ∧ s.sameMemory t ∧ s.sameRegs t ∧ t.req? id = some (onPlane r)) ∧
    (∀ (r : Req) (o : Op) (x : ThreadId) (d : Nat) (it : Item) (bs : List Byte), s.net.filter (fun z => z.op == r.op) = [r] → s.req? id = some r →
      r.stage = .replied → (r.kind = .load ∨ r.kind = .local_) → r.fault = none → (∀ b ∈ s.bagOps, b.op ≠ r.op) →
      s.op? r.op = some o → o.threads = [x] → o.acq = .none → o.uniform = false →
      r.items = [it] → it.thread = x → it.regs = [.v d] → it.ext = .w32 → it.size = 4 → d < (s.thread x).v.length →
      (∀ b ∈ (s.thread x).busy, b.reg = .v d → b.op = o.id → b.laps = []) → s.noneOut →
      bs = (List.range 4).map (fun i => ((it.own.find? (fun z => z.1 == i)).map (·.2)).getD ((r.data >>> (8 * (it.off + i))).setWidth 8)) →
      ∃ t, exec (.memoryReply id) s = .next t ∧ s.sameMemory t ∧ t.req? id = none ∧ t.op? o.id = none ∧ s.counted t o x ∧
        (t.thread x).v[d]? = some (BitVec.ofNat 32 (leNat bs)) ∧ (∀ n, n ≠ d → (t.thread x).v[n]? = (s.thread x).v[n]?) ∧
        (∀ y, y ≠ x → (t.thread y).v = (s.thread y).v) ∧ (∀ b ∈ (t.thread x).busy, b.op ≠ o.id)) ∧
    (∀ (o : Op) (all : Bool) (idx : Nat) (left : List Nat) (sl : Nat), s.op? id = some o → o.kind = .stampsync all idx left → o.phase = .active →
      sl ∈ left → s.noneOut →
      ∃ t, exec (.stampCacheDrop id sl) s = .next t ∧ s.sameMemory t ∧ s.sameRegs t ∧
        (∀ e ∈ (t.slices.getD sl Slice.reset).stamps, ¬ (e.part = s.partOfCore o.core ∧ (all = true ∨ e.index = idx))) ∧
        (if left.filter (· ≠ sl) = [] then t.op? id = none else ∃ o', t.op? id = some o' ∧ o'.kind = .stampsync all idx (left.filter (· ≠ sl)))) ∧
    (∀ (c : Nat) (w : Walk), s.fabric.busy = false → (s.core c).walks.find? (fun z => z.id == id) = some w → c < s.cores.length →
      let part := s.partOfCore c
      let end_ := s.walkSteps part w.va 4 w.come
      (∀ e sz, end_ = .leaf e sz →
        ∃ t, exec (.pageWalkComplete c id) s = .next t ∧ ((∀ a, (s.useLeaf part w.root w.va e sz).memByte a = s.memByte a) → s.sameMemory t) ∧ s.sameRegs t ∧
          (∀ z ∈ (t.core c).walks, z.id ≠ id) ∧ (t.core c).tlb.head? = some { root := w.root, page := w.va / 2 ^ sz, pte := e, size := sz }) ∧
      (∀ x va, end_ = .xlate ∨ end_ = .prot → w.waiters = [(x, va)] → (s.thread x).stat = .ready → s.entersAt x →
        ∃ t, exec (.pageWalkComplete c id) s = .next t ∧ s.sameMemory t ∧ s.sameRegs t ∧
          s.trapped t x (s.thread x).hdr (s.thread x).pos { code := if end_ = .prot then .prot else .xlate, addr := va })) ∧
    (∀ leaf plane r, r ∈ s.net → leafOf r.core = leaf → r.plane = plane → r.kind ≠ .local_ → r.stage ≠ .held → plane < 4 →
      ∃ t, exec (.leafNoProgress leaf plane) s = .next t ∧ s.sameMemory t ∧ s.sameRegs t ∧ t.fabric.reported.getLsbD plane = true) ∧
    (∀ plane, plane < 4 → s.fabric.alive.getLsbD plane = true → s.fabric.alive &&& ~~~ BitVec.twoPow 4 plane ≠ 0 →
      ∃ t, exec (.planeDeclareDead plane) s = .next t ∧ s.sameMemory t ∧ s.sameRegs t ∧ t.fabric.alive = s.fabric.alive &&& ~~~ BitVec.twoPow 4 plane ∧
        t.fabric.busy = true ∧ t.fabric.bkt = s.fabric.bkt ∧ ∀ r, s.req? id = some r → r.plane = plane → r.kind ≠ .local_ →
          ∃ r', t.req? id = some r' ∧ (r.stage = .sent → r'.stage = .replay false) ∧ (r.stage = .replied → r'.stage = .replay true)) ∧
    (∀ r kept, s.req? id = some r → r.stage = .replay kept → s.fabric.alive ≠ 0 →
      ∃ t, exec (.sliceReplayRequest id) s = .next t ∧ s.sameMemory t ∧ s.sameRegs t ∧ ∃ r', t.req? id = some r' ∧
        r'.stage = (if kept then .replied else .sent) ∧ s.fabric.alive.getLsbD r'.plane = true) ∧
    (s.fabric.busy = true → s.fabric.alive ≠ 0 → (∀ r ∈ s.net, r.kind = .local_ ∨ (r.stage ≠ .sent ∧ r.stage ≠ .replied ∧ ∀ b, r.stage ≠ .replay b)) →
      ∃ t, exec .rehashResume s = .next t ∧ s.sameMemory t ∧ s.sameRegs t ∧ t.fabric.busy = false ∧ t.fabric.alive = s.fabric.alive ∧
        t.fabric.bkt.length = s.fabric.bkt.length ∧
        (∀ (b : Nat) (x : BitVec 2), s.fabric.bkt[b]? = some x → s.fabric.alive.getLsbD x.toNat = true → t.fabric.bkt[b]? = some x) ∧
        (∀ x ∈ t.fabric.bkt, s.fabric.alive.getLsbD x.toNat = true) ∧
        (t.fabric.rehash = if s.fabric.rehash = 0xFFFF then 0xFFFF else s.fabric.rehash + 1) ∧ ∀ r ∈ t.net, r.stage ≠ .leaf)

/-- R232 to R234, R239, R240, R248, R249, R251, R253 to R255: steps of barriers, handles, ports, reductions, monitors and
fences. An arrival counted at a gang's or grid's barrier unit joins the set, which empties and advances the phase when it
holds every live thread; the first waiter of a handle whose state allows it executes; a gathering whose ports have become
ready goes on; a fence is over once no older operation of its threads, and no older write-through of its core, is left, an
acquire dropping the core's shared lines; the last arrival of a reduction round, at once where N is 1, answers every party
with the values folded in cluster order; a registration is answered, recorded, or told to poll; and the answers write their
registers and let the threads go on. What the model reads into the spec there: log entries 2, 68 and 95. -/
def Obligations.SynchronisationSteps : Prop :=
  ∀ (s : State) (id : Nat), s.noneOut →
    (∀ (r : Req) (kind : BarKind) (own n : Nat) (retire : Bool), s.req? id = some r → s.atSlice r = true → id < s.nextId →
      r.kind = .barrier kind own n retire →
      (kind = .gang ∧ n < (s.gang own).barriers.length ∨ kind = .grid ∧ n < (s.grid own).barriers.length ∧ (s.grid own).chips ≤ 1) →
      (s.bar kind own n).carve = none → s.population kind own ≠ [] →
      let b := s.bar kind own n
      let pop := s.population kind own
      if retire then ∃ t, exec (.barrierUnitArrival id) s = .next t ∧ s.sameMemory t ∧ s.sameRegs t ∧ t.req? id = none ∧
          t.bar kind own n = barrierAfter { b with arrived := b.arrived.filter (fun x => !r.items.any (fun it => it.thread == x)) } pop []
      else ∀ (o : Op) (k : BarKind) (m : Nat) (dest : Option Nat) (waits : Bool), s.op? r.op = some o → o.kind = .barrier k m dest waits →
        (∀ x ∈ o.threads, x ∈ pop) →
        ∃ t, exec (.barrierUnitArrival id) s = .next t ∧ s.sameMemory t ∧ s.sameRegs t ∧ t.req? id = none ∧
          t.bar kind own n = barrierAfter b pop o.threads ∧
          (waits = true → (t.bar kind own n).ph = b.ph → ∀ x ∈ o.threads, (t.thread x).stat = .parked (.barrier kind n (b.ph + 1) o.acq o.id)) ∧
          (waits = true → o.acq = .none → (t.bar kind own n).ph ≠ b.ph → b.hold = false → ∀ x ∈ o.threads, t.goesOn x)) ∧
    (∀ (T h : Nat) (w : HWaiter) (o : Op), (s.team T).hwait.find? (fun z => z.h == h) = some w → s.op? w.op = some o → h < (s.team T).handles.length →
      (∀ x ∈ w.threads, (s.thread x).stat = .parked (.handle w.op)) →
      let x := s.handle T h
      let done := fun (y : Handle) => ∃ t, exec (.handleWaiterExecute T h) s = .next t ∧ s.sameMemory t ∧ s.sameRegs t ∧ t.handle T h = y ∧
        (t.team T).hwait = (s.team T).hwait.filter (fun z => z.op != w.op) ∧ (∀ z ∈ w.threads, t.goesOn z) ∧ ∃ r ∈ t.net, r.op = o.id ∧ r.stage = .replied
      (∀ base size, w.what = .acq base size → x.state = .free → x.err = false → base % 128 = 0 → size % 128 = 0 → size ≠ 0 →
        base + size ≤ (s.team T).allot * 65536 →
        done { x with base := base, size := size, exp := x.carry, carry := 0, dlv := 0, state := .filling }) ∧
      (∀ ph d, w.what = .take ph d → x.state = .full → x.err = false → x.ph = ph → done { x with state := .draining }) ∧
      (∀ n, w.what = .exp n → x.state = .filling → x.err = false → n ≠ 0 → x.exp + n ≤ x.size → x.dlv < x.exp + n → done { x with exp := x.exp + n })) ∧
    (∀ (x : ThreadId) (g : Gath) (i : Instr), (s.thread x).stat = .parked .port → s.gaths.find? (fun g => g.members.contains x) = some g →
      g.instr? = some i → s.portsReady (s.quire x.quire).team i.uses = true →
      ∃ t, exec (.portWaiterIssue x) s = .next t ∧ s.sameMemory t ∧ s.sameRegs t ∧ s.sameSpecial t ∧
        ∀ y ∈ g.members, (s.thread y).stat = .parked .port → (t.thread y).stat = .gathered) ∧
    (∀ (o : Op) (kind : FenceKind), s.op? id = some o → o.kind = .fence kind → o.threads.Nodup →
      (∀ y ∈ s.opsBefore o, (s.opIsMem y = true → ∀ x ∈ y.threads, x ∉ o.threads) ∧ (y.wrThru = true → y.core ≠ o.core)) →
      (∀ r ∈ s.net, r.core = o.core → r.kind = .store → r.op = 0 → o.id ≤ r.id) →
      ∃ t, exec (.fenceComplete id) s = .next t ∧ s.sameMemory t ∧ s.sameRegs t ∧ t.op? id = none ∧ (∀ x ∈ o.threads, s.counted t o x) ∧
        (kind ≠ .rel → (o.acq = .cl ∨ o.acq = .dv ∨ o.acq = .sy) → ∀ l ∈ (t.core o.core).lines, l.shared = false)) ∧
    (∀ (r : Req) (o : Op) (sub n : Nat), s.req? id = some r → s.atSlice r = true → r.kind = .nred sub n → s.op? r.op = some o →
      1 ≤ n → n ≤ (s.part r.part).units.clusters.length → r.slice < s.slices.length →
      let rounds := (s.slices.getD r.slice Slice.reset).rounds
      let mine := (r.core / 8, r.nredValue, id)
      let goOn := fun (t : State) => ∀ x ∈ o.threads, (s.thread x).stat = .parked (.op r.op) → t.goesOn x
      ((∀ d ∈ rounds, d.line ≠ r.line) → n = 1 →
        ∃ t, exec (.nredArrival id) s = .next t ∧ s.sameMemory t ∧ s.sameRegs t ∧ goOn t ∧ (t.slices.getD r.slice Slice.reset).rounds = rounds ∧
          ∃ r', t.req? id = some r' ∧ r'.stage = .replied ∧ ∀ it ∈ r'.items, it.res = leBytes 4 r.nredValue.toNat) ∧
      ((∀ d ∈ rounds, d.line ≠ r.line) → 2 ≤ n → rounds.length < 64 → (∀ x ∈ s.net, x.slice = r.slice → s.nredWaits x = false) →
        ∃ t, exec (.nredArrival id) s = .next t ∧ s.sameMemory t ∧ s.sameRegs t ∧ goOn t ∧ (∃ r', t.req? id = some r' ∧ r'.stage = .waiting) ∧
          (t.slices.getD r.slice Slice.reset).rounds = rounds ++ [{ line := r.line, n := n, sub := sub, arrivals := [mine] }]) ∧
      (∀ d, rounds.find? (fun d => d.line == r.line) = some d → d.n = n → d.sub = sub → d.arrivals.length + 1 = n →
        (∀ a ∈ d.arrivals, a.1 ≠ r.core / 8) →
        let all := insertArrival mine d.arrivals
        ∃ t, exec (.nredArrival id) s = .next t ∧ s.sameMemory t ∧ s.sameRegs t ∧ goOn t ∧
          (∀ d ∈ (t.slices.getD r.slice Slice.reset).rounds, d.line ≠ r.line) ∧
          ∀ a ∈ all, ∀ r', t.req? a.2.2 = some r' → r'.stage = .replied ∧ ∀ it ∈ r'.items, it.res = leBytes 4 (foldRed sub (all.map (·.2.1))).toNat)) ∧
    (∀ (r : Req) (o : Op) (x : ThreadId) (it : Item) (m : Nat) (w : Word), s.op? r.op = some o → r.items = [it] → it.thread = x →
      it.regs = [.q m] → it.res.take 4 = leBytes 4 w.toNat → m < 160 → m < (s.quire x.quire).q.length → (s.quire x.quire).out = false →
      (∀ b ∈ (s.quire x.quire).busy, b.reg = .q m → b.op = r.op → b.laps = []) →
      (s.net.find? (fun r => r.op == id && r.stage == .replied && (match r.kind with | .nred .. => true | _ => false)) = some r →
        ∃ t, exec (.nredResult id) s = .next t ∧ s.sameMemory t ∧ (t.quire x.quire).getQ m = w ∧ t.op? id = none ∧ t.req? r.id = none) ∧
      (∀ wide cond y, s.req? id = some r → r.kind = .monitor wide cond y → r.stage = .replied → o.acq = .none →
        ∃ t, exec (.waitcReply id) s = .next t ∧ s.sameMemory t ∧ (t.quire x.quire).getQ m = w ∧ t.op? o.id = none ∧ t.req? id = none ∧
          ∀ z ∈ o.threads, (s.thread z).stat = .parked (.monitor o.id) → t.goesOn z)) ∧
    (∀ (r : Req) (it : Item) (rest : List Item) (wide : Bool) (cond : Nat) (y : DWord), s.req? id = some r → s.atSlice r = true →
      r.kind = .monitor wide cond y → r.items = it :: rest → r.slice < s.slices.length →
      let x : DWord := BitVec.ofNat 64 (leNat (s.sliceBytes r.part r.k (r.line * 128 + it.off) it.size))
      let entries := (s.slices.getD r.slice Slice.reset).monitors
      ∃ t, exec (.monitorRegister id) s = .next t ∧ s.sameMemory t ∧ s.sameRegs t ∧ ∃ r', t.req? id = some r' ∧
        if condMet cond wide x y then r'.stage = .replied ∧ r'.items.map Item.res = [leBytes 8 x.toNat]
        else if entries.length < 4096 then r'.stage = .waiting ∧ ∃ e, (t.slices.getD r.slice Slice.reset).monitors = entries ++ [e] ∧
            e.op = r.op ∧ e.k = r.k ∧ e.addr = r.line * 128 + it.off ∧ e.wide = wide ∧ e.cond = cond ∧ e.y = y
        else r'.stage = .poll) ∧
    (∀ r, s.req? id = some r → r.stage = .poll →
      let p := s.planeOf (r.line * 128)
      ∃ t r', exec (.monitorPollRetry id) s = .next t ∧ s.sameMemory t ∧ s.sameRegs t ∧ t.net = s.net.filter (fun z => z.id != id) ++ [r'] ∧
        r'.id = s.nextId ∧ r'.op = r.op ∧ r'.kind = r.kind ∧ r'.core = r.core ∧ r'.k = r.k ∧ r'.line = r.line ∧ r'.items = r.items ∧
        r'.plane = p ∧ r'.stage = if s.fabric.busy then .leaf else if s.fabric.alive.getLsbD p then .sent else .replay false)

/-- R277, R282 to R286, R291, R292, R297 to R302, R317 to R320, R325, R329 to R331, R342, R343, R347 to R351, R356, R357, R362:
steps of the matrix unit, the copy streamer and the placers. A matrix operation starts once no earlier conflicting one is left; an
MSTREAM pass multiplies its rows by the plane; its completion writes its plane, tile rows, registers or, an MDRAIN's, memory, and
ends its signers' counters; copies start in order, deliver their pieces in order to handles or memory, and complete; FETCHW
withdraws the first pending gang, GROWG adds gangs; a placer takes an operation, applies the next of a bag (a put, a count, a cut, a
drain, a map, a growth or a free), and its verdict reaches the threads. What the model reads into the spec there: log entries 16,
43, 44, 53 and 102. -/
def Obligations.UnitSteps : Prop :=
  ∀ (s : State) (c id : Nat),
    (∀ r, (s.unit c).ops.find? (fun z => z.id == id) = some r → r.started = false →
      (∀ y ∈ (s.unit c).ops.takeWhile (fun z => z.id != id), y.what.conflicts r.what = false ∧ s.memClash c y r = false) → s.runReady c r = true →
      ∃ t, exec (.matrixOpStart c id) s = .next t ∧ ((∀ bf ad sp t b st r0 m, r.what ≠ .drain bf ad sp t b st r0 m) → s.sameMemory t) ∧ s.sameRegs t ∧
        ∃ r', (t.unit c).ops.find? (fun z => z.id == id) = some r' ∧ r'.started = true ∧ r'.what = r.what ∧
          (∀ sl wb ws, r.what = .load false sl wb ws → ∀ n < 256, ∀ k < 32,
            (r'.result.getD n []).getD k 0 = BitVec.ofNat 32 (leNat (s.unitBytes c r.team (wb + 128 * n + 4 * k) 4))) ∧
          (∀ bf ad sp tile base st row0 m, r.what = .drain bf ad sp tile base st row0 m → ad = false ∨ (sp ≠ .s ∧ sp ≠ .c) → r.rows.length = m →
            r'.result = (List.range m).map (fun k => bytesWords (drainBytes bf ((s.unit c).row tile (row0 + k))))) ∧
          (∀ z sl tile ab as_ row0 m, r.what = .stream z sl tile ab as_ row0 m → s.upsets = [] →
            let pl := (s.unit c).plane (s.unit c).active
            let wt : Slot := { w0 := pl.fmt.getD 0, seed := 0 }
            let bits := sl.elem.bits
            let act := fun (i k : Nat) => leNat (s.unitBytes c r.team (ab + 128 * i) 128) / 2 ^ (bits * k) % 2 ^ bits
            let wgt := fun (n k : Nat) => ((pl.rows.getD n []).getD (bits * k / 32) 0).toNat / 2 ^ (bits * k % 32) % 2 ^ bits
            let old := fun (i n : Nat) => if z then (0 : Word) else ((s.unit c).row tile (row0 + i)).getD n 0
            let new := fun (i n : Nat) => (r'.result.getD i []).getD n 0
            let dot := fun (val wval : Nat → Int) (i n : Nat) => ((List.range (1024 / bits)).map (fun k => val (act i k) * wval (wgt n k))).foldl (· + ·) 0
            r'.result = (s.passRows c r.team z sl tile ab as_ row0 m).map (·.1) ∧
            (sl.accInt = true → sl.elem = .i4 ∨ sl.elem = .i8 → wt.elem = sl.elem → ∀ i < m, ∀ n < 256,
              let sint := fun (x : Nat) => if x < 2 ^ (bits - 1) then (x : Int) else (x : Int) - 2 ^ bits
              new i n = old i n + BitVec.ofInt 32 (dot sint sint i n)) ∧
            (sl.accInt = false → sl.stochastic = false → sl.bscale = .none → wt.bscale = .none → sl.band = false → wt.band = false →
              wt.elem.bits = bits → ∀ i < m, ∀ n < 256,
              (∀ k < 1024 / bits, elemPlain sl.elem (act i k) = true ∧ elemPlain wt.elem (wgt n k) = true) → isFinite 8 23 (old i n).toNat = true →
              let a := elemFields sl.elem
              let b := elemFields wt.elem
              ∃ u, RoundedRne 8 23 (dot (unitsOf a.1 a.2) (unitsOf b.1 b.2) i n * 2 ^ 149) (2 ^ (unitExp a.1 a.2 + unitExp b.1 b.2)) u ∧
                (isFinite 8 23 u = true → RoundedRne 8 23 (unitsOf 8 23 (old i n).toNat + unitsOf 8 23 u) 1 (new i n).toNat)))) ∧
    (∀ r bf ad sp tile base st row0 m, (s.unit c).ops.find? (fun z => z.id == id && z.started) = some r → r.what = .drain bf ad sp tile base st row0 m →
      (∀ w ∈ s.watch, w.owner = r.id → w.hits = []) → s.noneOut → s.runReady c r = true → (∀ x ∈ r.signers, s.replayOn x.1.quire = 0) → s.memWf →
      (∀ p ∈ r.rows.flatten, ∃ a, p = .g a ∧ a % 128 = 0 ∧ s.partOfPa a = s.partOfCore c) → r.rows.flatten.Nodup → r.result.length = r.rows.length →
      let before : State := { s with watch := s.watch.filter (fun w => w.owner != r.id) }
      ∃ t, exec (.matrixOpComplete c id) s = .next t ∧ s.sameRegs t ∧ (∀ z ∈ (t.unit c).ops, z.id ≠ id) ∧ (t.unit c).tiles = (s.unit c).tiles ∧
        (∀ x, (∀ a, .g a ∈ r.rows.flatten → x < a ∨ a + 128 ≤ x) → t.memByte x = s.memByte x) ∧
        ∀ k < r.rows.length, ∀ j a, (r.rows.getD k [])[j]? = some (.g a) →
          let piece := (((r.result.getD k []).flatMap (fun w => leBytes 4 w.toNat)).drop (128 * j)).take 128
          let whole := if ad then addBytes bf (before.memBytes a 128) piece else piece
          whole.length = 128 → ∀ i < 128, before.isOpen (a + i) = false → some (t.memByte (a + i)) = whole[i]?) ∧
    (∀ r, (s.unit c).ops.find? (fun z => z.id == id && z.started) = some r → (∀ w ∈ s.watch, w.owner = r.id → w.hits = [] ∧ w.write = false) → s.noneOut →
      s.runReady c r = true →
      (∀ bf ad sp t b st r0 m, r.what ≠ .drain bf ad sp t b st r0 m) → (s.unit c).tiles.length = 4 → (s.unit c).planes.length = 2 →
      ∃ t, exec (.matrixOpComplete c id) s = .next t ∧ s.sameMemory t ∧ (∀ z ∈ (t.unit c).ops, z.id ≠ id) ∧
        let rows := fun (tile row0 : Nat) (new : List (List Word)) => tile < 4 → (∀ z ∈ new, z.length = 256) → ∀ k < 128,
          (t.unit c).row tile k = if row0 ≤ k ∧ k < row0 + new.length then new.getD (k - row0) [] else (s.unit c).row tile k
        match r.what with
        | .zero tile row0 m => rows tile row0 (List.replicate m (List.replicate 256 0)) ∧ (t.unit c).planes = (s.unit c).planes
        | .swap => (t.unit c).active = 1 - (s.unit c).active ∧ (t.unit c).tiles = (s.unit c).tiles ∧ (t.unit c).planes = (s.unit c).planes
        | .load tr sl _ _ => (t.unit c).tiles = (s.unit c).tiles ∧ (t.unit c).active = (s.unit c).active ∧ ((s.unit c).active ≤ 1 →
            ((t.unit c).plane (1 - (s.unit c).active)).fmt = some sl.w0 ∧ ((t.unit c).plane (1 - (s.unit c).active)).scales = r.scales ∧
            ((t.unit c).plane (1 - (s.unit c).active)).bands = r.bands ∧
            (tr = false → ((t.unit c).plane (1 - (s.unit c).active)).rows = r.result) ∧
            (t.unit c).plane (s.unit c).active = (s.unit c).plane (s.unit c).active)
        | .stream _ _ tile _ _ row0 _ => r.result ≠ [] → rows tile row0 r.result
        | .fill _ tile _ _ row0 _ => rows tile row0 r.result
        | .drain .. => True
        | .drainv k tile d row => ∀ (x : ThreadId) (o : Nat), r.signers = [(x, o)] → ∀ i < 8 * k, d + i < (s.thread x).v.length →
            (∀ b ∈ (s.thread x).busy, b.op = o → b.laps = []) →
            (t.thread x).v[d + i]? = some (((s.unit c).row tile (row + i / 8)).getD (8 * x.lane + i % 8) 0)) ∧
    (∀ x, s.copy? id = some x → x.core = c → x ∈ (s.core c).copies →
      let mine := fun (t : State) (y : Copy) => y ∈ (t.core c).copies ∧ y.id = id
      let gi := (s.gang (s.team x.team).gang).grid
      let g := s.grid gi
      let noSpend := ∀ o ∈ s.ops, ∀ all w, o.kind ≠ .spend all w
      (x.started = false → (∀ y ∈ (s.core c).copies.takeWhile (fun y => y.id != id), y.started = true) →
        (x.kind ≠ .growg → x.kind ≠ .fetchw →
          ∃ t, exec (.copyStart id) s = .next t ∧ s.sameMemory t ∧ s.sameRegs t ∧ ∃ y, mine t y ∧ y = { x with started := true }) ∧
        (x.kind = .fetchw → noSpend → s.replayOn (s.spineOf x) = 0 → gi < s.grids.length →
          let first := fun k => let i := g.team0 + k * g.record.gangN
            leBytes 4 (i % g.record.gx) ++ leBytes 4 (i / g.record.gx) ++ leBytes 4 i ++ leBytes 4 g.record.gangN
          ∃ t, exec (.copyStart id) s = .next t ∧ s.sameMemory t ∧ s.sameRegs t ∧ (t.grid gi).creates = true ∧ (t.grid gi).pending = g.pending.tail ∧
            (t.grid gi).ended = g.ended + (if g.pending = [] then 0 else g.record.gangN) ∧ ∃ y, mine t y ∧ y.started = true ∧
            ∀ p ∈ y.pieces, p.data = match g.pending with | [] => List.replicate 16 0xFF | k :: _ => first k) ∧
        (∀ o n d, x.kind = .growg → noSpend → s.op? x.op = some o → o.kind = .growg n d → o.phase = .active → s.replayOn (s.spineOf x) = 0 → gi < s.grids.length →
          ∃ t, exec (.copyStart id) s = .next t ∧ s.sameMemory t ∧ s.sameRegs t ∧ (t.grid gi).creates = true ∧ ∃ y p, mine t y ∧ y.started = true ∧ y.pieces = [p] ∧
            if g.count + n ≤ g.max then p.data = leBytes 4 g.count ∧ (t.grid gi).count = g.count + n ∧
              (t.grid gi).pending = g.pending ++ (List.range (n / g.record.gangN)).map (g.count / g.record.gangN + ·)
            else p.data = List.replicate 4 0xFF ∧ (t.grid gi).count = g.count ∧ (t.grid gi).pending = g.pending)) ∧
      (∀ n p, x.started = true → x.pieces[n]? = some p → p.done = false → (∀ q ∈ x.pieces.take n, q.done = true) → s.pieceLate x p = false → s.pieceClear x p = true →
        (∀ T h base, x.kind ≠ .store → x.dests = [(T, h, base)] → cellWf (s.team T).scratch = true → T < s.teams.length →
          h < (s.team T).handles.length →
          let bs := if p.data = [] then p.src.map (fun a => match a with
            | some pa => (match x.got.find? (fun g => g.1 == pa / 128) with | some g => g.2.getD (pa % 128) 0 | none => s.memByte pa)
            | none => 0) else p.data
          let dlv := ((s.handle T h).dlv + bs.length) % 2 ^ 23
          let at_ := scratchKey 0 (base + p.off)
          let v := s.handle T h
          ∃ t, exec (.copyPieceDelivery id n) s = .next t ∧ s.sameMemory t ∧ s.sameRegs t ∧
            (∀ k, cellGet (t.team T).scratch k = if at_ ≤ k ∧ k < at_ + bs.length then bs.getD (k - at_) 0 else cellGet (s.team T).scratch k) ∧
            (t.handle T h).dlv = dlv ∧ (t.handle T h).exp = v.exp ∧
            (v.state = .filling → v.err = false → v.exp ≠ 0 →
              (t.handle T h).state = (if dlv = v.exp then .full else .filling) ∧
              (t.handle T h).err = decide (v.exp < dlv) ∧
              (t.handle T h).ph = (if dlv = v.exp then !v.ph else v.ph)) ∧
            (v.state ≠ .filling → (t.handle T h).err = true)) ∧
        (x.kind = .store → s.replayOn (s.spineOf x) = 0 → s.memWf → p.src.filterMap (·) ≠ [] →
          let rank := (s.team x.team).cores.idxOf c
          ∃ t, exec (.copyPieceDelivery id n) s = .next t ∧ s.sameRegs t ∧ ∀ a, s.isOpen a = false → t.memByte a =
            (((p.src.zip p.from_).filterMap (fun z => if z.1 = some a then some (s.scratchByte x.team (scratchKey rank z.2)) else none)).getLast?).getD (s.memByte a))) ∧
      (x.started = true → (∀ p ∈ x.pieces, p.done = true) → s.descLate x = false → s.noneOut →
        ∃ t, exec (.copyComplete id) s = .next t ∧ s.sameMemory t ∧ (∀ y ∈ (t.core c).copies, y.id ≠ id) ∧ (t.op? x.op = none) ∧
          (∀ slot p, x.kind = .desc slot → x.pieces = [p] → slot < (s.team x.team).desc.length → (t.team x.team).desc[slot]? = some (some p.data)) ∧
          (∀ o n d p, x.kind = .growg → s.op? x.op = some o → o.kind = .growg n d → x.pieces = [p] → d < 160 → d < (s.quire o.quire).q.length →
            (∀ b ∈ (s.quire o.quire).busy, b.reg = .q d → b.op = o.id → b.laps = []) →
            (t.quire o.quire).getQ d = BitVec.ofNat 32 (leNat p.data)))) ∧
    (∀ o, s.fabric.busy = false → s.placerChoices c = [o] → o.stage = .sent →
      ∃ t, exec (.bagOpApply c) s = .next t ∧ s.sameMemory t ∧ s.sameRegs t ∧ t.bags = s.bags ∧ ∀ y, s.bagOps.find? (fun b => b.id == o.id) = some y →
        ∃ z, t.bagOps.find? (fun b => b.id == o.id) = some z ∧
          z.stage = (if (s.ctrls.getD o.stack Ctrl.reset).bagq.length < 256 then .queued else .refused)) ∧
    (∀ o, s.fabric.busy = false → s.placerChoices c = [o] → o.stage = .queued → s.bagOps.find? (fun b => b.id == o.id) = some o → s.replayOn o.quire = 0 →
      let verdict := fun (t : State) (z : BagOp) => exec (.bagOpApply c) s = .next t ∧ (t.bags = s.bags → s.sameMemory t) ∧ s.sameRegs t ∧
        (∀ a, s.inGap a = false → t.inGap a = false → t.memByte a = s.memByte a) ∧ (∀ k, cellGet t.kmem k = cellGet s.kmem k) ∧
        t.bagOps.find? (fun b => b.id == o.id) = some z ∧ z.stage = .applied
      (s.bag? o.part o.bag = none → ∃ t z, verdict t z ∧ t.bags = s.bags ∧ z.fault = some { code := .bagbad, detail := 1 }) ∧
      (∀ b d, s.bag? o.part o.bag = some b → o.what = .cnt none d → ∃ t z, verdict t z ∧ t.bags = s.bags ∧ z.fault = none ∧
        z.values = [BitVec.ofNat 32 (b.cut.foldl (· + ·) 0)]) ∧
      (∀ b sh d, s.bag? o.part o.bag = some b → o.what = .cnt (some sh) d → ∃ t z, verdict t z ∧ t.bags = s.bags ∧
        if sh < shapeB b.shape then z.fault = none ∧ z.values = [BitVec.ofNat 32 (b.cut.getD sh 0)] else z.fault = some { code := .bagbad, detail := 6 }) ∧
      (∀ b, s.bag? o.part o.bag = some b → let put := fun (b' : Bag) => s.bags.map (fun y => if y.part = b.part ∧ y.num = b.num then b' else y)
        let ends := fun (t : State) => exec (.bagOpApply c) s = .next t ∧ s.sameRegs t ∧ (∀ k, cellGet t.kmem k = cellGet s.kmem k) ∧
          (∃ z, t.bagOps.find? (fun b => b.id == o.id) = some z ∧ z.stage = .applied ∧ z.fault = none) ∧
          ∀ a, a / 65536 * 65536 ∉ b.frames → t.memByte a = s.memByte a
        let G := shapeG b.shape
        let closed := fun (t : State) => ∀ T ∈ t.teams, s.partOfCore (T.cores.headD 0) = o.part → ∀ w ∈ T.windows, w.bag ≠ o.bag
        (o.what = .cut → s.soundBag b → s.memWf → ∃ t b', ends t ∧ t.bags = put b' ∧ b'.k = b.k + 1 ∧ b'.groups = [] ∧ b'.n = b.n ∧ b'.r = b.r ∧
          ∀ sh < shapeB b.shape,
            let c0 := b.cut.getD sh 0
            let held := ((List.range (b.fp.getD sh 0)).map (fun f => b.holdsIn sh f - (c0 - G * f))).foldl (· + ·) 0
            b'.cut.getD sh 0 = c0 + held ∧ b'.fp.getD sh 0 = (c0 + held + G - 1) / G ∧
            (∀ i, i % G < b.holdsIn sh (i / G) → i < c0 + held → s.sameRecord t b sh i i) ∧
            ∀ m ∈ b.cutMoves sh, s.sameRecord t b sh m.2 m.1) ∧
        (o.what = .drn → s.soundBag b → s.memWf → ∃ t b', ends t ∧ t.bags = put b' ∧ closed t ∧ b'.cut = b.cut.map (fun _ => 0) ∧
          (∀ sh < shapeB b.shape,
            let d := (b.cut.getD sh 0 + G - 1) / G
            b'.fp.getD sh 0 = b.fp.getD sh 0 - d ∧
            ∀ i, i % G < b.holdsIn sh (i / G) → d * G ≤ i → i / G < b.fp.getD sh 0 → s.sameRecord t b sh (i - d * G) i) ∧
          b'.groups = b.groups.map (fun g => { g with frame := g.frame - (b.cut.getD g.share 0 + G - 1) / G }) ∧
          if (∀ n ∈ b'.fp, n = 0) then b'.r = b.r.map (fun _ => 0) ∧ b'.n = 0 ∧ b'.k = 0 else b'.r = b.r ∧ b'.n = b.n ∧ b'.k = b.k) ∧
        (∀ w : Word, o.what = .grow w → let cap := w.toNat % 2 ^ 17
          if cap < b.cap ∨ 65536 / shapeF b.shape < cap then ∃ t z, verdict t z ∧ t.bags = s.bags ∧ z.fault = some { code := .bagbad, detail := 8 }
          else ∃ t, ends t ∧ t.bags = put { b with cap := cap }) ∧
        (o.what = .free → ∃ t, ends t ∧ closed t ∧ t.bags = s.bags.filter (fun y => !(y.part == b.part && y.num == b.num))) ∧
        ∀ sh d, o.what = .map sh d → o.team < s.teams.length →
          let mine := (s.team o.team).windows.filter (fun w => w.core == o.core && !(w.bag == b.word && w.share == sh))
          let va := b.vb + 65536 * sh
          let last := b.cut.getD sh 0 - 1
          let len := if b.cut.getD sh 0 = 0 then 0 else last / G * shapeF b.shape + last % G * shapeRS b.shape + shapeRS b.shape
          if shapeB b.shape ≤ sh then ∃ t z, verdict t z ∧ t.bags = s.bags ∧ z.fault = some { code := .bagbad, detail := 6 }
          else if 64 ≤ mine.length then ∃ t z, verdict t z ∧ t.bags = s.bags ∧ z.fault = some { code := .bagbad, detail := 7 }
          else ∃ t z, verdict t z ∧ t.bags = s.bags ∧ z.fault = none ∧
            z.values = [BitVec.ofNat 32 va, BitVec.ofNat 32 (va / 2 ^ 32), BitVec.ofNat 32 (b.cut.getD sh 0)] ∧
            { core := o.core, bag := b.word, share := sh, va := va, len := len } ∈ (t.team o.team).windows ∧
            (∀ w ∈ (s.team o.team).windows, ¬ (w.core = o.core ∧ w.bag = b.word ∧ w.share = sh) → w ∈ (t.team o.team).windows) ∧
            (o.core < s.cores.length → ∀ l ∈ (t.core o.core).lines, let at_ := b.frames.getD sh 0
              ¬ (at_ / 128 ≤ l.line ∧ 128 * (l.line - at_ / 128) < len))) ∧
      (∀ b x key ws p, s.bag? o.part o.bag = some b → o.what = .put [(x, key, ws)] p → 4 * ws.length = shapeRS b.shape → s.bagSealed b = none → o.fault = none →
        match b.place key with
        | none => ∃ t z, verdict t z ∧ z.fault = none ∧ z.placed = [(x, false)] ∧ t.net = s.net
        | some (b', share, slot) => ∃ t z r, verdict t z ∧ z.fault = none ∧ z.placed = [(x, true)] ∧ t.bags = s.bags.map (fun y =>
              if y.part = b.part ∧ y.num = b.num then b' else y) ∧ t.net = s.net ++ [r] ∧ r.kind = .record ∧ r.op = o.op ∧
            r.line = (b.frames.getD share 0 + slot / shapeG b.shape * shapeF b.shape + slot % shapeG b.shape * shapeRS b.shape) / 128 ∧
            r.items.map Item.data = [ws.flatMap (fun w => leBytes 4 w.toNat)])) ∧
    (∀ (b : Bag) (key : Byte), match b.groups.find? (fun g => g.tag == key) with
      | some g => ∃ b', b.place key = some (b', g.share, shapeG b.shape * g.frame + g.fill) ∧ b'.n = b.n + 1 ∧ b'.fp = b.fp
      | none => let sh := leastShare b.r
        if b.groups.length < shapeO b.shape ∧ b.fp.getD sh 0 < b.cap then
          ∃ b', b.place key = some (b', sh, shapeG b.shape * b.fp.getD sh 0) ∧ b'.n = b.n + 1 ∧ b'.fp = b.fp.modify sh (· + 1) ∧
            b'.r = b.r.modify sh (· + shapeG b.shape)
        else if b.groups = [] then b.place key = none
        else ∃ g ∈ b.groups, (∀ y ∈ b.groups, shapeG b.shape - y.fill ≤ shapeG b.shape - g.fill) ∧
          ∃ b', b.place key = some (b', g.share, shapeG b.shape * g.frame + g.fill)) ∧
    (∀ o, s.bagOps.find? (fun b => b.id == id) = some o → o.stage = .refused →
      ∃ t, exec (.bagOpResend id) s = .next t ∧ s.sameMemory t ∧ s.sameRegs t ∧ t.bags = s.bags ∧
        t.bagOps.find? (fun b => b.id == id) = some { o with stage := .sent }) ∧
    ∀ (o : BagOp) (op : Op) (x : ThreadId), s.bagOps.find? (fun b => b.id == id && b.stage == .applied) = some o → s.op? o.op = some op → op.threads = [x] →
      (s.thread x).stat = .parked (.op op.id) → o.fault = none → s.noneOut →
      (∀ sh d v, o.what = .cnt sh d → o.values = [v] → d < (s.thread x).v.length → (∀ b ∈ (s.thread x).busy, b.op = op.id → b.laps = []) →
        ∃ t, exec (.bagVerdict id) s = .next t ∧ s.sameMemory t ∧ t.goesOn x ∧ (t.thread x).v[d]? = some v ∧ t.op? op.id = none ∧ s.counted t op x) ∧
      (∀ recs p, o.what = .put recs p → p < 7 → (o.placed = [(x, true)] ∨ (o.placed = [(x, false)] ∧ o.values.headD 0 ≠ 1)) →
        (∀ b ∈ (s.thread x).busy, b.op = op.id → b.laps = []) →
        ∃ t, exec (.bagVerdict id) s = .next t ∧ s.sameMemory t ∧ t.goesOn x ∧ (t.thread x).preg p = (o.placed == [(x, true)]) ∧
          (o.placed = [(x, false)] → t.op? op.id = none ∧ s.counted t op x))

/-- R188 to R193, R385 to R390, R402, R405, R409, R410: steps of the memory controllers, of TLB invalidation, and of the
reliability units. A request enters its class's queue with its deadline, a command slot serves the earliest deadline and
counts a miss, at most eight refreshes are postponed; MC_QOS and TLBINV take their values; an uncorrectable error kills the
gang that consumes it, or is reported; a killed gang stops and is relaunched, with its whole grid where that is co-resident or
has created teams, or its grid ends with event 3 (no kill lists cause GRID: it comes of another gang's kill); the debugger
halts, resumes and kills; and a checkpoint is refused or taken, and restores memory. What the model reads into the spec
there: log entries 20, 65, 69, 70, 71, 73 and 99. -/
def Obligations.ReliabilitySteps : Prop :=
  ∀ s : State, s.memWf →
    (∀ line m, s.memq.find? (fun y => y.line == line) = some m → s.partOfPa (line * 128) < 8 →
      let h := s.memHome m
      let x := s.ctrls.getD h.1 Ctrl.reset
      let ch := x.channel h.2.1
      let v := (x.svc.getD m.cls 0).toNat
      let e : McEntry := { seq := ch.arrived, due := ch.clock + (x.budget.getD m.cls 0).toNat, cls := m.cls, line := line, bank := h.2.2 }
      let chan := fun (t : State) => (t.ctrls.getD h.1 Ctrl.reset).channel h.2.1
      h.1 < s.ctrls.length → ch.queues.length = 4 → ch.holds.length = 4 →
      ∃ t, exec (.mcRequestArrive h.1 h.2.1 h.2.2 line) s = .next t ∧ s.sameMemory t ∧ s.sameRegs t ∧
        if (ch.queues.getD v []).length < 64 then t.memq = s.memq.erase m ∧ (chan t).holds = ch.holds ∧ (chan t).queues.getD v [] = ch.queues.getD v [] ++ [e]
        else if (ch.holds.getD v []).length < 256 then
          t.memq = s.memq.erase m ∧ (chan t).queues = ch.queues ∧ (chan t).holds.getD v [] = ch.holds.getD v [] ++ [e]
        else t = s) ∧
    (∀ k pc bank cls, k < 12 → k < s.ctrls.length → pc < 64 → bank < 16 → cls < 8 →
      let x := s.ctrls.getD k Ctrl.reset
      let chan := fun (t : State) => (t.ctrls.getD k Ctrl.reset).channel pc
      let held : Channel → Nat := fun ch => ((ch.postponed.find? (fun z => z.1 == bank)).map (·.2)).getD 0
      let keeps := fun (t : State) => s.sameMemory t ∧ s.sameRegs t
      (∀ v q, v < 4 → (chan s).queues.length = 4 → (∀ u < 4, (chan s).queues.getD u [] = if u = v then q else []) → q ≠ [] → (chan s).holds.flatten = [] →
        (chan s).alerts = [] → (chan s).postponed = [] → (chan s).away = [] →
        let first := fun (e : McEntry) => ∀ z ∈ q, z.line = e.line → e.seq ≤ z.seq
        ∃ t, exec (.mcCommandSlot k pc) s = .next t ∧ keeps t ∧ (chan s).clock < (chan t).clock ∧
          ∃ e ∈ q, first e ∧ (∀ z ∈ q, first z → e.due ≤ z.due) ∧ (chan t).queues.getD v [] = q.erase e ∧
          ((t.ctrls.getD k Ctrl.reset).miss = if e.due < (chan t).clock then x.miss.modify e.cls (fun n => if n = 0xFFFFFFFF then n else n + 1) else x.miss)) ∧
      (∃ t, exec (.refreshDue k pc bank) s = .next t ∧ keeps t ∧ ((held (chan t) = held (chan s) ∧ ∃ z ∈ (chan t).away, z.1 = bank) ∨
        (held (chan s) < 8 ∧ held (chan t) = held (chan s) + 1 ∧ (chan t).away = (chan s).away))) ∧
      (∃ t, exec (.activationAlert k pc bank) s = .next t ∧ keeps t ∧ (chan t).alerts = (chan s).alerts ++ [bank] ∧
        let abo := (t.ctrls.getD k Ctrl.reset).abo
        if (chan s).alerts = [] then (∃ z ∈ (chan t).away, z.1 = bank) ∧
          (if 8 ≤ held (chan s) then held (chan t) = 0 ∧ abo = (if x.abo = 0xFFFFFFFF then x.abo else x.abo + 1)
           else held (chan t) = held (chan s) ∧ abo = x.abo)
        else held (chan t) = held (chan s) ∧ abo = x.abo ∧ (chan t).away = (chan s).away) ∧
      (∀ value : Word, ∃ t, exec (.mcQosWrite k cls value) s = .next t ∧ keeps t ∧
        (t.ctrls.getD k Ctrl.reset).svc = x.svc.set cls (value.extractLsb' 16 2) ∧
        (t.ctrls.getD k Ctrl.reset).budget = x.budget.set cls (if value.extractLsb' 0 16 = 0 then 0xFFFF else value.extractLsb' 0 16))) ∧
    (∀ p, p < 8 → s.parts.length = 8 →
      let P := s.part p
      let keeps := fun (t : State) => s.sameMemory t ∧ s.sameRegs t
      (∃ t, exec (.tlbinvAll p) s = .next t ∧ keeps t ∧ (t.part p).tlbinv = 3) ∧
      (∀ va, ∃ t, exec (.tlbinvBlock p va) s = .next t ∧ keeps t ∧ (t.part p).tlbinv = BitVec.ofNat 64 (va / 65536 % 2 ^ 32 * 2 ^ 32 + 2)) ∧
      (P.tlbinv.getLsbD 1 = true → ∃ t, exec (.tlbinvDone p) s = .next t ∧ keeps t ∧ (t.part p).tlbinv = P.tlbinv &&& 0xFFFFFFFFFFFFFFFD ∧
        ∀ cl ∈ P.units.clusters, ∀ i < 8, ∀ e, e ∈ (t.core (8 * cl + i)).tlb ∨ (∃ l ∈ (t.core (8 * cl + i)).micro, e ∈ l) →
          P.tlbinv.getLsbD 0 = false ∧ e.page ≠ (P.tlbinv.extractLsb' 32 32).toNat / 2 ^ (e.size - 16)) ∧
      (∀ line, s.partOfPa (line * 128) = p → ∃ t, exec (.uceUnconsumed line) s = .next t ∧ s.sameRegs t ∧ s.eventPut t p 4 0 (line * 128) ∧ line ∈ t.poison) ∧
      (∀ value g, s.dbgGang p value = some g → value.getLsbD 1 = true → value.getLsbD 2 = false → value.getLsbD 3 = false → P.ckSaving = false →
        ∃ t, exec (.dbgHalt p value) s = .next t ∧ s.sameRegs t ∧ (t.gang g).halted = true ∧
          ((s.gang g).halted = false → s.eventPut t p 6 P.dbgGrid (s.gang g).number)) ∧
      (∀ value : Word, value.getLsbD 1 = true → value.getLsbD 2 = false → value.getLsbD 3 = false → P.ckSaving = true → P.ckCtl.getLsbD 31 = true →
        ∃ t, exec (.dbgHalt p value) s = .next t ∧ keeps t ∧ t.gangs = s.gangs ∧ (t.part p).ckHalts = P.ckHalts ++ [(value, P.dbgGrid)]) ∧
      (∀ value g, s.dbgGang p value = some g → value.getLsbD 1 = false → value.getLsbD 2 = true → value.getLsbD 3 = false →
        ∃ t, exec (.dbgResume p value) s = .next t ∧ keeps t ∧ (t.gang g).halted = false) ∧
      (∀ value g, s.dbgGang p value = some g → value.getLsbD 1 = false → value.getLsbD 2 = false → value.getLsbD 3 = true →
        (∀ k ∈ s.kills, k.gang ≠ g) → ∃ t, exec (.dbgKill p value) s = .next t ∧ keeps t ∧ t.kills = s.kills ++ [{ gang := g, cause := 0x81 }]) ∧
      (P.ckCtl.getLsbD 31 = false →
        (match s.ckRefusal p with
          | some (data, number) => ∃ t, exec (.ckSave p) s = .next t ∧ s.sameRegs t ∧ s.eventPut t p 7 number data ∧ (t.part p).ckCtl.getLsbD 30 = true ∧
              (t.part p).ckSaving = P.ckSaving
          | none => ∃ t, exec (.ckSave p) s = .next t ∧ (t.part p).ckCtl.getLsbD 31 = true ∧ (t.part p).ckCtl.getLsbD 0 = true ∧ (t.part p).ckSaving = true) ∧
        ∃ t, exec (.ckRestore p) s = .next t ∧ keeps t ∧ (t.part p).ckCtl.getLsbD 31 = true ∧ (t.part p).ckCtl.getLsbD 1 = true ∧ (t.part p).ckCtl.getLsbD 0 = false) ∧
      (∀ i, P.ckCtl.getLsbD 31 = true → P.ckCtl.getLsbD 0 = false → P.ckImage = some i → cellWf i.mem = true → (∀ z ∈ i.mem, P.holds z.1 = true) → (∀ f ∈ i.forms, f.2 = s.lineKey p f.1) →
        ∃ t, exec (.ckDone p) s = .next t ∧ s.sameRegs t ∧ (t.part p).ckCtl = P.ckCtl &&& 0x7FFFFFFC ∧ (t.part p).ckSaving = false ∧
          ∀ a, cellGet t.mem a = if P.holds a then cellGet i.mem a else cellGet s.mem a) ∧
      ∃ t, exec (.checkedExecutionCompulsory p) s = .next t ∧ keeps t ∧ (t.part p).compulsory = true ∧
        t.grids = s.grids.map (fun g => if g.part = p then { g with chk := true } else g)) ∧
    (∀ g line, (s.gang g).resident = true → (s.gang g).dead = false → s.partOfPa (line * 128) = (s.grid (s.gang g).grid).part → (∀ k ∈ s.kills, k.gang ≠ g) →
      ∃ t, exec (.uceConsume g line) s = .next t ∧ s.sameMemory t ∧ s.sameRegs t ∧ line ∈ t.poison ∧ t.kills = s.kills ++ [{ gang := g, cause := 0x80 }]) ∧
    ∀ g k, s.kills.find? (fun k => k.gang == g) = some k → (s.gang g).dead = false →
      let gi := (s.gang g).grid
      let G := s.grid gi
      let num := fun (x : Nat) => (s.gang x).number - G.team0 / G.record.gangN
      let n := num g
      let times := fun (m : Nat) => ((G.kills.find? (fun z => z.1 == m)).map (·.2)).getD 0
      let again := (k.cause = 0x17 ∨ k.cause = 0x80) ∧ G.multi = .none ∧ times n < 3
      let whole := G.record.cor = true ∨ G.creates = true
      let stopped := fun (t : State) => (t.gang g).dead = true ∧ (∀ z ∈ t.kills, z.gang ≠ g) ∧
        ∀ T ∈ (s.gang g).teams, (t.team T).ended = true ∧ ∀ q ∈ (s.team T).spine :: (s.team T).quires, ∀ th ∈ (t.quire q).threads, th.live = false
      gi < s.grids.length →
      (s.unitStill [g] → again → ¬ whole →
        ∃ t, exec (.gangKill g) s = .next t ∧ s.sameMemory t ∧ s.sameRegs t ∧ stopped t ∧ n ∈ (t.grid gi).pending ∧
          ((t.grid gi).kills.find? (fun z => z.1 == n)).map (·.2) = some (times n + 1) ∧
          ((t.grid gi).relaunches.find? (fun z => z.1 == n)).map (·.2) = some (((G.relaunches.find? (fun z => z.1 == n)).map (·.2)).getD 0 + 1)) ∧
      let ends := fun (cause : Nat) => s.dev.fatal = false → G.part < s.parts.length →
        ∃ t, exec (.gangKill g) s = .next t ∧ s.sameRegs t ∧ stopped t ∧ (∀ x ∈ s.gangsOf gi, (t.gang x).dead = true) ∧ (t.grid gi).dead = true ∧
          (t.grid gi).reported = true ∧ s.eventPut t G.part 3 G.number cause
      s.unitStill (s.gangsOf gi) →
      (again → whole → (∀ x ∈ s.gangsOf gi, times (num x) < 3) →
        ∃ t, exec (.gangKill g) s = .next t ∧ s.sameMemory t ∧ s.sameRegs t ∧ stopped t ∧ (∀ x ∈ s.gangsOf gi, (t.gang x).dead = true) ∧
          (t.part G.part).eqTail = (s.part G.part).eqTail ∧ (t.part G.part).held = (s.part G.part).held ∧ t.grids.length = s.grids.length ∧
          let y := t.grid gi
          y.pending = List.range (G.record.teams / G.record.gangN) ∧ y.saved = [] ∧ y.count = G.record.teams ∧ y.max = G.record.maxTeams ∧
          y.status = 0 ∧ y.ended = 0 ∧ y.creates = false ∧ y.relaunch = G.relaunch + 1 ∧ y.dead = G.dead ∧ y.record = G.record) ∧
      (again → whole → (∃ x ∈ s.gangsOf gi, 3 ≤ times (num x)) → ends 0x82) ∧
      (¬ again → k.cause ≠ 0x82 → k.cause ≠ 0x85 → ends k.cause)

/-- R22 to R24, R224, R392, R396, R399 to R406, R411: what the outside does to the device. DEV_CTL enables the device only
with every accepted feature offered and feature 0 accepted, disables or resets it; a reset of the module returns everything
to its reset state; bring-up ends in ready or in recovery; an assignment that keeps Table 1.4 gives each partition its units
and zeroes memory that changes hands, another changes nothing; a partition's reset kills its grids and zeroes its memory;
ring indices and registers take their values; and a port access reads or writes memory of its own partition, a peer's atomic
updates it, and another is discarded and counted. That memory and chip scratch read zero after a reset is the model's reading,
log entry 5; what else it reads into the spec there: log entries 3, 21, 33, 72, 74, 76, 78, 100 and 107. -/
def Obligations.DeviceSteps : Prop :=
  ∀ s : State,
    let clean := fun (t : State) => t.grids = [] ∧ t.gangs = [] ∧ t.teams = [] ∧ t.quires = [] ∧ t.ops = [] ∧ t.net = [] ∧ t.bags = [] ∧
      t.parts = State.reset.parts ∧ t.dev = State.reset.dev ∧ t.cores = State.reset.cores ∧ t.slices = State.reset.slices ∧
      t.ctrls = State.reset.ctrls ∧ t.fabric = State.reset.fabric ∧ t.sec.sessions = [] ∧ (∀ a, t.memByte a = 0) ∧ ∀ k, cellGet t.kmem k = 0
    (∀ value : Word, value.getLsbD 1 = true → ∃ t, exec (.devEnable value) s = .next t ∧ clean t) ∧
    (∃ t, exec .warmReset s = .next t ∧ clean t) ∧ (∃ t, exec .coldReset s = .next t ∧ clean t) ∧
    (∀ value : Word, value.getLsbD 1 = false → ∃ t, exec (.devEnable value) s = .next t ∧ s.sameMemory t ∧ s.sameRegs t ∧
      if value.getLsbD 0 = false then t.dev = { s.dev with en := false, enok := false }
      else if s.dev.ready = true ∧ (s.dev.featAcc.getD 0 0).getLsbD 0 = true ∧
          (List.range 4).all (fun i => s.dev.featAcc.getD i 0 &&& ~~~ s.dev.featOff.getD i 0 == 0) = true then t.dev = { s.dev with en := true, enok := true }
      else t.dev = { s.dev with en := false }) ∧
    (∀ fw : List SignedImage, s.dev.ready = false → s.dev.recovery = false → (s.sec.images = fw.map (·.image) ∨ ∀ p, (s.part p).keyst = 0) →
      let sound := ∃ sp dev, fw = [sp, dev] ∧ Crypto.slh256s.verify Config.bootKey (Crypto.sha256 sp.image) sp.signature = true ∧
        Crypto.slh256s.verify (Config.firmwareKey sp.image) (Crypto.sha256 dev.image) dev.signature = true
      ∃ t, exec (.bringupReady fw) s = .next t ∧ s.sameMemory t ∧ s.sameRegs t ∧
        (sound → t.dev.ready = true ∧ t.dev.recovery = false ∧ t.sec.images = fw.map (·.image)) ∧
        (¬ sound → t.dev.ready = false ∧ t.dev.recovery = true)) ∧
    (∀ us : List UnitSet, s.parts.length = 8 → ∃ t, exec (.partitionAssign us) s = .next t ∧
      if assignOk us = true then (∀ p < 8, let u := us.getD p UnitSet.empty; let u' := (t.part p).units
          u'.clusters = u.clusters ∧ u'.hbm = u.hbm ∧ u'.mem = u.mem ∧ (∀ x, x ∈ u'.slices ↔ x ∈ u.slices)) ∧
        (∀ a, s.partOfPa a ≠ t.partOfPa a → cellGet t.mem a = 0) ∧
        ∀ p < 8, (s.part p).units.same (t.part p).units = false → (t.part p).keyst = 0 ∧ (t.part p).gens = []
      else t = s) ∧
    (∀ p, p < 8 → s.parts.length = 8 →
      let P := s.part p
      (∃ t, exec (.partitionReset p) s = .next t ∧ (∀ a, P.holds a = true → cellGet t.mem a = 0) ∧
        (let x := t.part p; x.units = P.units ∧ x.lqHead = 0 ∧ x.lqTail = 0 ∧ x.lqSize = 0 ∧ x.eqHead = 0 ∧ x.eqTail = 0 ∧ x.eqSize = 0 ∧ x.keyst = 0) ∧
        ∀ g ∈ s.grids.zipIdx, g.1.part = p → g.1.reported = false → (t.grid g.2).dead = true) ∧
      (∀ v : Word, ∃ t, exec (.lqTailWrite p v) s = .next t ∧ s.sameMemory t ∧ s.sameRegs t ∧
        (t.part p).lqTail = (if (v.toNat + 2 ^ 32 - P.lqHead) % 2 ^ 32 ≤ P.lqSize then v.toNat else P.lqTail)) ∧
      (∀ v : Word, P.held = [] → ∃ t, exec (.eqHeadWrite p v) s = .next t ∧ s.sameMemory t ∧ s.sameRegs t ∧ (t.part p).eqHead = v.toNat) ∧
      (∀ v : DWord, let w := fun off => exec (.registerWrite p off v) s
        (∃ t, w 0x030 = .next t ∧ t.parts = s.parts.modify p (fun x => { x with tvec := v })) ∧
        (∃ t, w 0x038 = .next t ∧ t.parts = s.parts.modify p (fun x => { x with svec := v })) ∧
        (∃ t, w 0x040 = .next t ∧ t.parts = s.parts.modify p (fun x => { x with rvec := v })) ∧
        (∃ t, w 0x064 = .next t ∧ t.parts = s.parts.modify p (fun x => { x with replay := v.setWidth 32 })) ∧
        (∃ t, w 0x080 = .next t ∧ t.parts = s.parts) ∧
        (∃ t, exec (.registerWrite (16 + p) 0x090 v) s = .next t ∧ t.parts = s.parts.modify p (fun x => { x with stBase := v.toNat % 2 ^ 48 / 1024 * 1024 })) ∧
        (∀ k < 4, s.dev.enok = false → ∃ t, exec (.registerWrite 8 (0x020 + 4 * k) v) s = .next t ∧
          t.dev = { s.dev with featAcc := s.dev.featAcc.set k (v.setWidth 32) })) ∧
      (∀ pa n, 0 < n → pa % 128 + n ≤ 128 → ∀ (wrap : List Byte → Output) (at_ : OutsideAccess → Instr),
        (at_ = .hostMemoryAccess ∧ wrap = .hostData) ∨ (at_ = .peerPortAccess ∧ wrap = .peerData) →
        (s.partOfPa pa = p → s.keySlot (pa / 128) = 0 →
          (∃ t, exec (at_ (.read p pa n)) s = .next t ∧ s.sameMemory t ∧ s.sameRegs t ∧ t.out = s.out ++ [wrap (s.memBytes pa n)]) ∧
          (∀ bs : List Byte, bs.length = n → s.memWf → ∃ t, exec (at_ (.write p pa bs)) s = .next t ∧ s.sameRegs t ∧
            ∀ a, t.memByte a = if pa ≤ a ∧ a < pa + n ∧ s.isOpen a = false then bs.getD (a - pa) 0 else s.memByte a) ∧
          (∀ (op : Nat) (wide : Bool) (bs : List Byte), n = (if wide then 8 else 4) → pa % n = 0 → s.memWf →
            let old := s.memBytes pa n
            ∃ t, exec (.peerPortAccess (.atomic p pa op wide bs)) s = .next t ∧ s.sameRegs t ∧ t.out = s.out ++ [.peerData old] ∧
              ∀ a, t.memByte a = if pa ≤ a ∧ a < pa + n ∧ s.isOpen a = false then (atomBytes op (if wide then 1 else 0) old bs).getD (a - pa) 0
                else s.memByte a)) ∧
        (s.partOfPa pa ≠ p → ∀ bs : List Byte, bs.length = n → ∃ t, exec (at_ (.write p pa bs)) s = .next t ∧ s.sameMemory t ∧ s.sameRegs t ∧
          (t.part p).errors = P.errors + 1)))

/-- R394 to R396, R404, R407, R408: launch packets and the security processor. A LAUNCH or RESERVE with a sound record makes a
grid; one with another is answered by event 2 and by state 1; COMMIT, ABORT and KILL change or end the grid that their GID
names, a COMMIT or ABORT that names none is answered with state 1, and a packet for another partition is discarded; requests are answered once the version,
capabilities and algorithms are agreed, else refused; a session is established by FINISH; and KEYLOAD and KEYDROP change
KEYST for the session's own partition. What the model reads into the spec there: log entries 22, 23, 56 and 67. -/
def Obligations.PacketsAndSessions : Prop :=
  ∀ s : State,
    let sends := fun (t : State) (x : Output) => t.out = s.out ++ [x]
    let answers := fun (i : Instr) (name : String) (data : List Byte) => ∃ t, exec i s = .next t ∧ s.sameMemory t ∧ s.sameRegs t ∧ sends t (.spdm name data)
    let refuses := fun (i : Instr) (name : String) => ∃ t, exec i s = .next t ∧ s.sameMemory t ∧ s.sameRegs t ∧ sends t (.spdmError name) ∧ t.parts = s.parts
    (∀ p (bs : List Byte) (fs : List Nat), let k := Packet.parse bs; let r := LaunchRec.parse (bs.drop 32)
      s.dev.enok = true → s.dev.fatal = false → p < 8 → bs.getD 1 0 = BitVec.ofNat 8 p → (r.replay = true → (s.part p).replay.toNat ≠ 2) →
      let refusal := r.refusal ((s.part p).units.slices.length * 2 ^ 19)
      let refused := fun (i : Instr) (n : Nat) => s.memWf → s.parts.length = 8 → ∃ t, exec i s = .next t ∧ s.sameRegs t ∧ t.grids = s.grids ∧
        s.eventPut t p 2 (BitVec.ofNat 32 k.gid) n ∧ ∃ l, t.out = s.out ++ l ++ [.report k.gid 0 0 1]
      (∀ n, refusal = some n → (bs.head? = some 1 → refused (.launch p bs) n) ∧ (bs.head? = some 2 → refused (.reserve p bs fs) n)) ∧
      (bs.head? = some 1 → refusal = none → ∃ t, exec (.launch p bs) s = .next t ∧ s.sameMemory t ∧ s.sameRegs t ∧
        ∃ g, t.grids = s.grids ++ [g] ∧ g.part = p ∧ g.record = r ∧ g.gid = k.gid ∧ g.multi = .none ∧ g.pending = List.range (r.teams / r.gangN)) ∧
      (bs.head? = some 2 → refusal = none → (r.replay = true → (s.part p).replay.toNat ≠ 1) →
        let gi := s.grids.length
        let new : Grid := { k.grid s r with chips := max k.chips 1, chipRank := k.rank, team0 := k.team0, multi := .reserved }
        let s1 : State := { s with grids := s.grids ++ [new] }
        (s1.placeAll gi (s1.nextOf gi) fs).isSome = true →
        ∃ t, exec (.reserve p bs fs) s = .next t ∧ s.sameMemory t ∧ s.sameRegs t ∧ t.grids.length = gi + 1 ∧ (t.grid gi).reserved = fs ∧
          (t.grid gi).multi = .reserved ∧ (t.grid gi).gid = k.gid ∧ ∃ a b, sends t (.report k.gid a b 0))) ∧
    (∀ pk : PortPacket, let k := Packet.parse pk.bytes
      let comes := fun (type : Nat) => k.type = type ∧ k.part = pk.part ∧ pk.part < 8
      let names := fun (G : Grid) => G.part = k.part ∧ G.gid = k.gid ∧ G.chips ≠ 0
      let answered := fun (i : Instr) => ∃ t, exec i s = .next t ∧ s.sameMemory t ∧ s.sameRegs t ∧ t.grids = s.grids ∧ sends t (.report k.gid 0 0 1)
      (¬ comes 3 → exec (.commit pk) s = .next s) ∧ (¬ comes 4 → exec (.abort pk) s = .next s) ∧ (¬ comes 5 → exec (.kill pk) s = .next s) ∧
      ((∀ G ∈ s.grids, ¬ names G) → (comes 3 → answered (.commit pk)) ∧ (comes 4 → answered (.abort pk)) ∧ exec (.kill pk) s = .next s) ∧
      ∀ g, let G := s.grid g
      g < s.grids.length → names G → (∀ j, g < j → j < s.grids.length → ¬ names (s.grid j)) → G.dead = false →
      (comes 3 → G.multi = .reserved → ∃ t, exec (.commit pk) s = .next t ∧ s.sameMemory t ∧ s.sameRegs t ∧ (t.grid g).multi = .committed ∧
        ∃ a b c, sends t (.report G.gid a b c) ∧ (G.reported = false → c = 2)) ∧
      let ends := fun (i : Instr) (cause : Nat) => ∃ t, exec i s = .next t ∧ s.sameRegs t ∧ (t.grid g).dead = true ∧ (t.grid g).reserved = [] ∧
        (∀ x ∈ s.gangsOf g, (t.gang x).dead = true) ∧ s.eventPut t G.part 3 G.number cause ∧ ∃ l a b, t.out = s.out ++ l ++ [.report G.gid a b 4]
      G.reported = false → s.dev.fatal = false → s.memWf → G.part < s.parts.length → s.unitStill (s.gangsOf g) →
      (comes 4 → G.multi = .reserved → ends (.abort pk) 0x12) ∧ (comes 4 → G.multi = .committed → ends (.abort pk) 0x81) ∧ (comes 5 → ends (.kill pk) 0x81)) ∧
    answers .getVersion "VERSION" [0x13] ∧
    (if s.sec.versionDone = true then answers .getCapabilities "CAPABILITIES" [11] else refuses .getCapabilities "GET_CAPABILITIES") ∧
    (∀ a b c d, if s.sec.capsDone = true ∧ a % 2 = 1 ∧ b % 2 = 1 ∧ c % 2 = 1 ∧ d % 2 = 1 then
        ∃ t, exec (.negotiateAlgorithms a b c d) s = .next t ∧ sends t (.spdm "ALGORITHMS" [1, 1, 1, 1]) ∧ t.sec.algsDone = true
      else refuses (.negotiateAlgorithms a b c d) "NEGOTIATE_ALGORITHMS") ∧
    (∀ nonce : List Byte, let chain := s.sec.chain
      let signed := fun (x : List Byte) => x ++ s.sec.sign (s.sec.transcript ++ nonce ++ x)
      if s.sec.algsDone = true then answers .getDigests "DIGESTS" (Crypto.sha256 chain) ∧
        (∀ a n, a ≤ chain.length → answers (.getCertificate 0 a n) "CERTIFICATE" ((chain.drop a).take n)) ∧
        answers (.challenge 0 nonce) "CHALLENGE_AUTH" (Crypto.sha256 chain ++ s.sec.sign (s.sec.transcript ++ nonce)) ∧
        answers (.getMeasurements 0 nonce) "MEASUREMENTS" (signed [5]) ∧
        answers (.getMeasurements 1 nonce) "MEASUREMENTS" (signed (Crypto.sha256 Config.bootRom)) ∧
        answers (.getMeasurements 2 nonce) "MEASUREMENTS" (signed (Crypto.sha256 (s.sec.images.getD 0 []))) ∧
        answers (.getMeasurements 3 nonce) "MEASUREMENTS" (signed (Crypto.sha256 (s.sec.images.getD 1 []))) ∧
        answers (.getMeasurements 4 nonce) "MEASUREMENTS" (signed (Crypto.sha256 (s.assignmentBytes s.sec.requester))) ∧
        answers (.getMeasurements 5 nonce) "MEASUREMENTS" (signed (Crypto.sha256 (s.dev.featAcc.flatMap (fun w => leBytes 4 w.toNat))))
      else refuses .getDigests "GET_DIGESTS" ∧ refuses (.getCertificate 0 0 0) "GET_CERTIFICATE" ∧ refuses (.challenge 0 nonce) "CHALLENGE" ∧
        refuses (.getMeasurements 0 nonce) "GET_MEASUREMENTS") ∧
    (∀ p (share : List Byte), s.sec.algsDone = true → p < 8 → (Crypto.pointOf share).isSome = true →
      let mine := dheShare s.sec.next
      let rsp := mine ++ s.sec.sign (s.sec.transcript ++ share ++ mine)
      ∃ t, exec (.keyExchange p share) s = .next t ∧ s.sameMemory t ∧ s.sameRegs t ∧ sends t (.spdm "KEY_EXCHANGE_RSP" rsp) ∧
        t.sec.next = s.sec.next + 1 ∧ ∃ x, t.sec.sessions = s.sec.sessions ++ [x] ∧ x.number = s.sec.next ∧ x.part = p ∧ x.share = share ∧
          x.established = false ∧ x.transcript = s.sec.transcript ++ share ++ rsp ∧ x.opened = 0) ∧
    ∀ (n : Nat) (x : Session), s.sec.sessions.find? (fun y => y.number == n) = some x →
      (∀ verify, x.established = false → ∃ t, exec (.finish n verify) s = .next t ∧ s.sameMemory t ∧
        if x.verifyData = some verify then
          t.sec.sessions.find? (fun y => y.number == n) = some { x with established := true, transcript := x.transcript ++ verify } ∧ sends t (.spdm "FINISH_RSP" [])
        else (∀ y ∈ t.sec.sessions, y.number ≠ n) ∧ sends t (.spdmError "FINISH")) ∧
      (x.established = true → ∃ t, exec (.endSession n) s = .next t ∧ s.sameMemory t ∧ (∀ y ∈ t.sec.sessions, y.number ≠ n) ∧
        sends t (.spdm "END_SESSION_ACK" [])) ∧
      (∀ slot p wrapped digest, slot < 128 → p < s.parts.length →
        if (x.unwrap wrapped).isSome = true ∧ x.established = true ∧ x.part = p ∧ 1 ≤ slot ∧
          digest = Crypto.sha256 (Crypto.sha256 Config.bootRom ++ Crypto.sha256 (s.sec.images.getD 0 []) ++ Crypto.sha256 (s.sec.images.getD 1 []) ++
            Crypto.sha256 (s.assignmentBytes p)) then
          ∃ t, exec (.keyload n slot p wrapped digest) s = .next t ∧ (t.part p).keyst.getLsbD slot = true ∧
            (∀ i, i ≠ slot → (t.part p).keyst.getLsbD i = (s.part p).keyst.getLsbD i) ∧ sends t (.spdm "KEYLOAD_RSP" [])
        else refuses (.keyload n slot p wrapped digest) "KEYLOAD") ∧
      ∀ slot, x.established = true → 1 ≤ slot → slot < 128 → x.part < s.parts.length → ∃ t, exec (.keydrop n slot) s = .next t ∧
        (t.part x.part).keyst.getLsbD slot = false ∧ (∀ i, i ≠ slot → (t.part x.part).keyst.getLsbD i = (s.part x.part).keyst.getLsbD i) ∧
        sends t (.spdm "KEYDROP_RSP" [])
end

