-- ==== Sys2Proof/Laws/State.lean ====
section
/-! SUPPORT. One lemma per field per update of `State`, so that no proof unfolds a record update. -/

namespace Sys2Proof.Machine.State

/-! ### modQuire -/

@[simp] theorem modQuire_tick (s : State) (q : Nat) (f : Quire → Quire) : (s.modQuire q f).tick = s.tick := rfl
@[simp] theorem modQuire_agenda (s : State) (q : Nat) (f : Quire → Quire) : (s.modQuire q f).agenda = s.agenda := rfl
@[simp] theorem modQuire_upsets (s : State) (q : Nat) (f : Quire → Quire) : (s.modQuire q f).upsets = s.upsets := rfl
@[simp] theorem modQuire_cur (s : State) (q : Nat) (f : Quire → Quire) : (s.modQuire q f).cur = s.cur := rfl
@[simp] theorem modQuire_nextId (s : State) (q : Nat) (f : Quire → Quire) : (s.modQuire q f).nextId = s.nextId := rfl
@[simp] theorem modQuire_grids (s : State) (q : Nat) (f : Quire → Quire) : (s.modQuire q f).grids = s.grids := rfl
@[simp] theorem modQuire_gangs (s : State) (q : Nat) (f : Quire → Quire) : (s.modQuire q f).gangs = s.gangs := rfl
@[simp] theorem modQuire_teams (s : State) (q : Nat) (f : Quire → Quire) : (s.modQuire q f).teams = s.teams := rfl
@[simp] theorem modQuire_quires (s : State) (q : Nat) (f : Quire → Quire) : (s.modQuire q f).quires = s.quires.modify q f := rfl
@[simp] theorem modQuire_gaths (s : State) (q : Nat) (f : Quire → Quire) : (s.modQuire q f).gaths = s.gaths := rfl
@[simp] theorem modQuire_ops (s : State) (q : Nat) (f : Quire → Quire) : (s.modQuire q f).ops = s.ops := rfl
@[simp] theorem modQuire_net (s : State) (q : Nat) (f : Quire → Quire) : (s.modQuire q f).net = s.net := rfl
@[simp] theorem modQuire_bagOps (s : State) (q : Nat) (f : Quire → Quire) : (s.modQuire q f).bagOps = s.bagOps := rfl
@[simp] theorem modQuire_bags (s : State) (q : Nat) (f : Quire → Quire) : (s.modQuire q f).bags = s.bags := rfl
@[simp] theorem modQuire_cores (s : State) (q : Nat) (f : Quire → Quire) : (s.modQuire q f).cores = s.cores := rfl
@[simp] theorem modQuire_slices (s : State) (q : Nat) (f : Quire → Quire) : (s.modQuire q f).slices = s.slices := rfl
@[simp] theorem modQuire_ctrls (s : State) (q : Nat) (f : Quire → Quire) : (s.modQuire q f).ctrls = s.ctrls := rfl
@[simp] theorem modQuire_fabric (s : State) (q : Nat) (f : Quire → Quire) : (s.modQuire q f).fabric = s.fabric := rfl
@[simp] theorem modQuire_parts (s : State) (q : Nat) (f : Quire → Quire) : (s.modQuire q f).parts = s.parts := rfl
@[simp] theorem modQuire_dev (s : State) (q : Nat) (f : Quire → Quire) : (s.modQuire q f).dev = s.dev := rfl
@[simp] theorem modQuire_sec (s : State) (q : Nat) (f : Quire → Quire) : (s.modQuire q f).sec = s.sec := rfl
@[simp] theorem modQuire_mem (s : State) (q : Nat) (f : Quire → Quire) : (s.modQuire q f).mem = s.mem := rfl
@[simp] theorem modQuire_kmem (s : State) (q : Nat) (f : Quire → Quire) : (s.modQuire q f).kmem = s.kmem := rfl
@[simp] theorem modQuire_undef (s : State) (q : Nat) (f : Quire → Quire) : (s.modQuire q f).undef = s.undef := rfl
@[simp] theorem modQuire_poison (s : State) (q : Nat) (f : Quire → Quire) : (s.modQuire q f).poison = s.poison := rfl
@[simp] theorem modQuire_watch (s : State) (q : Nat) (f : Quire → Quire) : (s.modQuire q f).watch = s.watch := rfl
@[simp] theorem modQuire_undefAt (s : State) (q : Nat) (f : Quire → Quire) : (s.modQuire q f).undefAt = s.undefAt := rfl
@[simp] theorem modQuire_mixed (s : State) (q : Nat) (f : Quire → Quire) : (s.modQuire q f).mixed = s.mixed := rfl
@[simp] theorem modQuire_memq (s : State) (q : Nat) (f : Quire → Quire) : (s.modQuire q f).memq = s.memq := rfl
@[simp] theorem modQuire_leaves (s : State) (q : Nat) (f : Quire → Quire) : (s.modQuire q f).leaves = s.leaves := rfl
@[simp] theorem modQuire_mside (s : State) (q : Nat) (f : Quire → Quire) : (s.modQuire q f).mside = s.mside := rfl
@[simp] theorem modQuire_garbled (s : State) (q : Nat) (f : Quire → Quire) : (s.modQuire q f).garbled = s.garbled := rfl
@[simp] theorem modQuire_portLines (s : State) (q : Nat) (f : Quire → Quire) : (s.modQuire q f).portLines = s.portLines := rfl
@[simp] theorem modQuire_sealedPages (s : State) (q : Nat) (f : Quire → Quire) : (s.modQuire q f).sealedPages = s.sealedPages := rfl
@[simp] theorem modQuire_saves (s : State) (q : Nat) (f : Quire → Quire) : (s.modQuire q f).saves = s.saves := rfl
@[simp] theorem modQuire_kills (s : State) (q : Nat) (f : Quire → Quire) : (s.modQuire q f).kills = s.kills := rfl
@[simp] theorem modQuire_out (s : State) (q : Nat) (f : Quire → Quire) : (s.modQuire q f).out = s.out := rfl

/-! ### modThread -/

@[simp] theorem modThread_tick (s : State) (t : ThreadId) (f : Thread → Thread) : (s.modThread t f).tick = s.tick := rfl
@[simp] theorem modThread_agenda (s : State) (t : ThreadId) (f : Thread → Thread) : (s.modThread t f).agenda = s.agenda := rfl
@[simp] theorem modThread_upsets (s : State) (t : ThreadId) (f : Thread → Thread) : (s.modThread t f).upsets = s.upsets := rfl
@[simp] theorem modThread_cur (s : State) (t : ThreadId) (f : Thread → Thread) : (s.modThread t f).cur = s.cur := rfl
@[simp] theorem modThread_nextId (s : State) (t : ThreadId) (f : Thread → Thread) : (s.modThread t f).nextId = s.nextId := rfl
@[simp] theorem modThread_grids (s : State) (t : ThreadId) (f : Thread → Thread) : (s.modThread t f).grids = s.grids := rfl
@[simp] theorem modThread_gangs (s : State) (t : ThreadId) (f : Thread → Thread) : (s.modThread t f).gangs = s.gangs := rfl
@[simp] theorem modThread_teams (s : State) (t : ThreadId) (f : Thread → Thread) : (s.modThread t f).teams = s.teams := rfl
@[simp] theorem modThread_quires (s : State) (t : ThreadId) (f : Thread → Thread) : (s.modThread t f).quires = s.quires.modify t.quire (fun q => { q with threads := q.threads.modify t.lane f }) := rfl
@[simp] theorem modThread_gaths (s : State) (t : ThreadId) (f : Thread → Thread) : (s.modThread t f).gaths = s.gaths := rfl
@[simp] theorem modThread_ops (s : State) (t : ThreadId) (f : Thread → Thread) : (s.modThread t f).ops = s.ops := rfl
@[simp] theorem modThread_net (s : State) (t : ThreadId) (f : Thread → Thread) : (s.modThread t f).net = s.net := rfl
@[simp] theorem modThread_bagOps (s : State) (t : ThreadId) (f : Thread → Thread) : (s.modThread t f).bagOps = s.bagOps := rfl
@[simp] theorem modThread_bags (s : State) (t : ThreadId) (f : Thread → Thread) : (s.modThread t f).bags = s.bags := rfl
@[simp] theorem modThread_cores (s : State) (t : ThreadId) (f : Thread → Thread) : (s.modThread t f).cores = s.cores := rfl
@[simp] theorem modThread_slices (s : State) (t : ThreadId) (f : Thread → Thread) : (s.modThread t f).slices = s.slices := rfl
@[simp] theorem modThread_ctrls (s : State) (t : ThreadId) (f : Thread → Thread) : (s.modThread t f).ctrls = s.ctrls := rfl
@[simp] theorem modThread_fabric (s : State) (t : ThreadId) (f : Thread → Thread) : (s.modThread t f).fabric = s.fabric := rfl
@[simp] theorem modThread_parts (s : State) (t : ThreadId) (f : Thread → Thread) : (s.modThread t f).parts = s.parts := rfl
@[simp] theorem modThread_dev (s : State) (t : ThreadId) (f : Thread → Thread) : (s.modThread t f).dev = s.dev := rfl
@[simp] theorem modThread_sec (s : State) (t : ThreadId) (f : Thread → Thread) : (s.modThread t f).sec = s.sec := rfl
@[simp] theorem modThread_mem (s : State) (t : ThreadId) (f : Thread → Thread) : (s.modThread t f).mem = s.mem := rfl
@[simp] theorem modThread_kmem (s : State) (t : ThreadId) (f : Thread → Thread) : (s.modThread t f).kmem = s.kmem := rfl
@[simp] theorem modThread_undef (s : State) (t : ThreadId) (f : Thread → Thread) : (s.modThread t f).undef = s.undef := rfl
@[simp] theorem modThread_poison (s : State) (t : ThreadId) (f : Thread → Thread) : (s.modThread t f).poison = s.poison := rfl
@[simp] theorem modThread_watch (s : State) (t : ThreadId) (f : Thread → Thread) : (s.modThread t f).watch = s.watch := rfl
@[simp] theorem modThread_undefAt (s : State) (t : ThreadId) (f : Thread → Thread) : (s.modThread t f).undefAt = s.undefAt := rfl
@[simp] theorem modThread_mixed (s : State) (t : ThreadId) (f : Thread → Thread) : (s.modThread t f).mixed = s.mixed := rfl
@[simp] theorem modThread_memq (s : State) (t : ThreadId) (f : Thread → Thread) : (s.modThread t f).memq = s.memq := rfl
@[simp] theorem modThread_leaves (s : State) (t : ThreadId) (f : Thread → Thread) : (s.modThread t f).leaves = s.leaves := rfl
@[simp] theorem modThread_mside (s : State) (t : ThreadId) (f : Thread → Thread) : (s.modThread t f).mside = s.mside := rfl
@[simp] theorem modThread_garbled (s : State) (t : ThreadId) (f : Thread → Thread) : (s.modThread t f).garbled = s.garbled := rfl
@[simp] theorem modThread_portLines (s : State) (t : ThreadId) (f : Thread → Thread) : (s.modThread t f).portLines = s.portLines := rfl
@[simp] theorem modThread_sealedPages (s : State) (t : ThreadId) (f : Thread → Thread) : (s.modThread t f).sealedPages = s.sealedPages := rfl
@[simp] theorem modThread_saves (s : State) (t : ThreadId) (f : Thread → Thread) : (s.modThread t f).saves = s.saves := rfl
@[simp] theorem modThread_kills (s : State) (t : ThreadId) (f : Thread → Thread) : (s.modThread t f).kills = s.kills := rfl
@[simp] theorem modThread_out (s : State) (t : ThreadId) (f : Thread → Thread) : (s.modThread t f).out = s.out := rfl

/-! ### modThreads -/

@[simp] theorem modThreads_tick (s : State) (ts : List ThreadId) (f : ThreadId → Thread → Thread) : (s.modThreads ts f).tick = s.tick := rfl
@[simp] theorem modThreads_agenda (s : State) (ts : List ThreadId) (f : ThreadId → Thread → Thread) : (s.modThreads ts f).agenda = s.agenda := rfl
@[simp] theorem modThreads_upsets (s : State) (ts : List ThreadId) (f : ThreadId → Thread → Thread) : (s.modThreads ts f).upsets = s.upsets := rfl
@[simp] theorem modThreads_cur (s : State) (ts : List ThreadId) (f : ThreadId → Thread → Thread) : (s.modThreads ts f).cur = s.cur := rfl
@[simp] theorem modThreads_nextId (s : State) (ts : List ThreadId) (f : ThreadId → Thread → Thread) : (s.modThreads ts f).nextId = s.nextId := rfl
@[simp] theorem modThreads_grids (s : State) (ts : List ThreadId) (f : ThreadId → Thread → Thread) : (s.modThreads ts f).grids = s.grids := rfl
@[simp] theorem modThreads_gangs (s : State) (ts : List ThreadId) (f : ThreadId → Thread → Thread) : (s.modThreads ts f).gangs = s.gangs := rfl
@[simp] theorem modThreads_teams (s : State) (ts : List ThreadId) (f : ThreadId → Thread → Thread) : (s.modThreads ts f).teams = s.teams := rfl
@[simp] theorem modThreads_gaths (s : State) (ts : List ThreadId) (f : ThreadId → Thread → Thread) : (s.modThreads ts f).gaths = s.gaths := rfl
@[simp] theorem modThreads_ops (s : State) (ts : List ThreadId) (f : ThreadId → Thread → Thread) : (s.modThreads ts f).ops = s.ops := rfl
@[simp] theorem modThreads_net (s : State) (ts : List ThreadId) (f : ThreadId → Thread → Thread) : (s.modThreads ts f).net = s.net := rfl
@[simp] theorem modThreads_bagOps (s : State) (ts : List ThreadId) (f : ThreadId → Thread → Thread) : (s.modThreads ts f).bagOps = s.bagOps := rfl
@[simp] theorem modThreads_bags (s : State) (ts : List ThreadId) (f : ThreadId → Thread → Thread) : (s.modThreads ts f).bags = s.bags := rfl
@[simp] theorem modThreads_cores (s : State) (ts : List ThreadId) (f : ThreadId → Thread → Thread) : (s.modThreads ts f).cores = s.cores := rfl
@[simp] theorem modThreads_slices (s : State) (ts : List ThreadId) (f : ThreadId → Thread → Thread) : (s.modThreads ts f).slices = s.slices := rfl
@[simp] theorem modThreads_ctrls (s : State) (ts : List ThreadId) (f : ThreadId → Thread → Thread) : (s.modThreads ts f).ctrls = s.ctrls := rfl
@[simp] theorem modThreads_fabric (s : State) (ts : List ThreadId) (f : ThreadId → Thread → Thread) : (s.modThreads ts f).fabric = s.fabric := rfl
@[simp] theorem modThreads_parts (s : State) (ts : List ThreadId) (f : ThreadId → Thread → Thread) : (s.modThreads ts f).parts = s.parts := rfl
@[simp] theorem modThreads_dev (s : State) (ts : List ThreadId) (f : ThreadId → Thread → Thread) : (s.modThreads ts f).dev = s.dev := rfl
@[simp] theorem modThreads_sec (s : State) (ts : List ThreadId) (f : ThreadId → Thread → Thread) : (s.modThreads ts f).sec = s.sec := rfl
@[simp] theorem modThreads_mem (s : State) (ts : List ThreadId) (f : ThreadId → Thread → Thread) : (s.modThreads ts f).mem = s.mem := rfl
@[simp] theorem modThreads_kmem (s : State) (ts : List ThreadId) (f : ThreadId → Thread → Thread) : (s.modThreads ts f).kmem = s.kmem := rfl
@[simp] theorem modThreads_undef (s : State) (ts : List ThreadId) (f : ThreadId → Thread → Thread) : (s.modThreads ts f).undef = s.undef := rfl
@[simp] theorem modThreads_poison (s : State) (ts : List ThreadId) (f : ThreadId → Thread → Thread) : (s.modThreads ts f).poison = s.poison := rfl
@[simp] theorem modThreads_watch (s : State) (ts : List ThreadId) (f : ThreadId → Thread → Thread) : (s.modThreads ts f).watch = s.watch := rfl
@[simp] theorem modThreads_undefAt (s : State) (ts : List ThreadId) (f : ThreadId → Thread → Thread) : (s.modThreads ts f).undefAt = s.undefAt := rfl
@[simp] theorem modThreads_mixed (s : State) (ts : List ThreadId) (f : ThreadId → Thread → Thread) : (s.modThreads ts f).mixed = s.mixed := rfl
@[simp] theorem modThreads_memq (s : State) (ts : List ThreadId) (f : ThreadId → Thread → Thread) : (s.modThreads ts f).memq = s.memq := rfl
@[simp] theorem modThreads_leaves (s : State) (ts : List ThreadId) (f : ThreadId → Thread → Thread) : (s.modThreads ts f).leaves = s.leaves := rfl
@[simp] theorem modThreads_mside (s : State) (ts : List ThreadId) (f : ThreadId → Thread → Thread) : (s.modThreads ts f).mside = s.mside := rfl
@[simp] theorem modThreads_garbled (s : State) (ts : List ThreadId) (f : ThreadId → Thread → Thread) : (s.modThreads ts f).garbled = s.garbled := rfl
@[simp] theorem modThreads_portLines (s : State) (ts : List ThreadId) (f : ThreadId → Thread → Thread) : (s.modThreads ts f).portLines = s.portLines := rfl
@[simp] theorem modThreads_sealedPages (s : State) (ts : List ThreadId) (f : ThreadId → Thread → Thread) : (s.modThreads ts f).sealedPages = s.sealedPages := rfl
@[simp] theorem modThreads_saves (s : State) (ts : List ThreadId) (f : ThreadId → Thread → Thread) : (s.modThreads ts f).saves = s.saves := rfl
@[simp] theorem modThreads_kills (s : State) (ts : List ThreadId) (f : ThreadId → Thread → Thread) : (s.modThreads ts f).kills = s.kills := rfl
@[simp] theorem modThreads_out (s : State) (ts : List ThreadId) (f : ThreadId → Thread → Thread) : (s.modThreads ts f).out = s.out := rfl

/-! ### modTeam -/

@[simp] theorem modTeam_tick (s : State) (i : Nat) (f : Team → Team) : (s.modTeam i f).tick = s.tick := rfl
@[simp] theorem modTeam_agenda (s : State) (i : Nat) (f : Team → Team) : (s.modTeam i f).agenda = s.agenda := rfl
@[simp] theorem modTeam_upsets (s : State) (i : Nat) (f : Team → Team) : (s.modTeam i f).upsets = s.upsets := rfl
@[simp] theorem modTeam_cur (s : State) (i : Nat) (f : Team → Team) : (s.modTeam i f).cur = s.cur := rfl
@[simp] theorem modTeam_nextId (s : State) (i : Nat) (f : Team → Team) : (s.modTeam i f).nextId = s.nextId := rfl
@[simp] theorem modTeam_grids (s : State) (i : Nat) (f : Team → Team) : (s.modTeam i f).grids = s.grids := rfl
@[simp] theorem modTeam_gangs (s : State) (i : Nat) (f : Team → Team) : (s.modTeam i f).gangs = s.gangs := rfl
@[simp] theorem modTeam_teams (s : State) (i : Nat) (f : Team → Team) : (s.modTeam i f).teams = s.teams.modify i f := rfl
@[simp] theorem modTeam_quires (s : State) (i : Nat) (f : Team → Team) : (s.modTeam i f).quires = s.quires := rfl
@[simp] theorem modTeam_gaths (s : State) (i : Nat) (f : Team → Team) : (s.modTeam i f).gaths = s.gaths := rfl
@[simp] theorem modTeam_ops (s : State) (i : Nat) (f : Team → Team) : (s.modTeam i f).ops = s.ops := rfl
@[simp] theorem modTeam_net (s : State) (i : Nat) (f : Team → Team) : (s.modTeam i f).net = s.net := rfl
@[simp] theorem modTeam_bagOps (s : State) (i : Nat) (f : Team → Team) : (s.modTeam i f).bagOps = s.bagOps := rfl
@[simp] theorem modTeam_bags (s : State) (i : Nat) (f : Team → Team) : (s.modTeam i f).bags = s.bags := rfl
@[simp] theorem modTeam_cores (s : State) (i : Nat) (f : Team → Team) : (s.modTeam i f).cores = s.cores := rfl
@[simp] theorem modTeam_slices (s : State) (i : Nat) (f : Team → Team) : (s.modTeam i f).slices = s.slices := rfl
@[simp] theorem modTeam_ctrls (s : State) (i : Nat) (f : Team → Team) : (s.modTeam i f).ctrls = s.ctrls := rfl
@[simp] theorem modTeam_fabric (s : State) (i : Nat) (f : Team → Team) : (s.modTeam i f).fabric = s.fabric := rfl
@[simp] theorem modTeam_parts (s : State) (i : Nat) (f : Team → Team) : (s.modTeam i f).parts = s.parts := rfl
@[simp] theorem modTeam_dev (s : State) (i : Nat) (f : Team → Team) : (s.modTeam i f).dev = s.dev := rfl
@[simp] theorem modTeam_sec (s : State) (i : Nat) (f : Team → Team) : (s.modTeam i f).sec = s.sec := rfl
@[simp] theorem modTeam_mem (s : State) (i : Nat) (f : Team → Team) : (s.modTeam i f).mem = s.mem := rfl
@[simp] theorem modTeam_kmem (s : State) (i : Nat) (f : Team → Team) : (s.modTeam i f).kmem = s.kmem := rfl
@[simp] theorem modTeam_undef (s : State) (i : Nat) (f : Team → Team) : (s.modTeam i f).undef = s.undef := rfl
@[simp] theorem modTeam_poison (s : State) (i : Nat) (f : Team → Team) : (s.modTeam i f).poison = s.poison := rfl
@[simp] theorem modTeam_watch (s : State) (i : Nat) (f : Team → Team) : (s.modTeam i f).watch = s.watch := rfl
@[simp] theorem modTeam_undefAt (s : State) (i : Nat) (f : Team → Team) : (s.modTeam i f).undefAt = s.undefAt := rfl
@[simp] theorem modTeam_mixed (s : State) (i : Nat) (f : Team → Team) : (s.modTeam i f).mixed = s.mixed := rfl
@[simp] theorem modTeam_memq (s : State) (i : Nat) (f : Team → Team) : (s.modTeam i f).memq = s.memq := rfl
@[simp] theorem modTeam_leaves (s : State) (i : Nat) (f : Team → Team) : (s.modTeam i f).leaves = s.leaves := rfl
@[simp] theorem modTeam_mside (s : State) (i : Nat) (f : Team → Team) : (s.modTeam i f).mside = s.mside := rfl
@[simp] theorem modTeam_garbled (s : State) (i : Nat) (f : Team → Team) : (s.modTeam i f).garbled = s.garbled := rfl
@[simp] theorem modTeam_portLines (s : State) (i : Nat) (f : Team → Team) : (s.modTeam i f).portLines = s.portLines := rfl
@[simp] theorem modTeam_sealedPages (s : State) (i : Nat) (f : Team → Team) : (s.modTeam i f).sealedPages = s.sealedPages := rfl
@[simp] theorem modTeam_saves (s : State) (i : Nat) (f : Team → Team) : (s.modTeam i f).saves = s.saves := rfl
@[simp] theorem modTeam_kills (s : State) (i : Nat) (f : Team → Team) : (s.modTeam i f).kills = s.kills := rfl
@[simp] theorem modTeam_out (s : State) (i : Nat) (f : Team → Team) : (s.modTeam i f).out = s.out := rfl

/-! ### modGang -/

@[simp] theorem modGang_tick (s : State) (i : Nat) (f : Gang → Gang) : (s.modGang i f).tick = s.tick := rfl
@[simp] theorem modGang_agenda (s : State) (i : Nat) (f : Gang → Gang) : (s.modGang i f).agenda = s.agenda := rfl
@[simp] theorem modGang_upsets (s : State) (i : Nat) (f : Gang → Gang) : (s.modGang i f).upsets = s.upsets := rfl
@[simp] theorem modGang_cur (s : State) (i : Nat) (f : Gang → Gang) : (s.modGang i f).cur = s.cur := rfl
@[simp] theorem modGang_nextId (s : State) (i : Nat) (f : Gang → Gang) : (s.modGang i f).nextId = s.nextId := rfl
@[simp] theorem modGang_grids (s : State) (i : Nat) (f : Gang → Gang) : (s.modGang i f).grids = s.grids := rfl
@[simp] theorem modGang_gangs (s : State) (i : Nat) (f : Gang → Gang) : (s.modGang i f).gangs = s.gangs.modify i f := rfl
@[simp] theorem modGang_teams (s : State) (i : Nat) (f : Gang → Gang) : (s.modGang i f).teams = s.teams := rfl
@[simp] theorem modGang_quires (s : State) (i : Nat) (f : Gang → Gang) : (s.modGang i f).quires = s.quires := rfl
@[simp] theorem modGang_gaths (s : State) (i : Nat) (f : Gang → Gang) : (s.modGang i f).gaths = s.gaths := rfl
@[simp] theorem modGang_ops (s : State) (i : Nat) (f : Gang → Gang) : (s.modGang i f).ops = s.ops := rfl
@[simp] theorem modGang_net (s : State) (i : Nat) (f : Gang → Gang) : (s.modGang i f).net = s.net := rfl
@[simp] theorem modGang_bagOps (s : State) (i : Nat) (f : Gang → Gang) : (s.modGang i f).bagOps = s.bagOps := rfl
@[simp] theorem modGang_bags (s : State) (i : Nat) (f : Gang → Gang) : (s.modGang i f).bags = s.bags := rfl
@[simp] theorem modGang_cores (s : State) (i : Nat) (f : Gang → Gang) : (s.modGang i f).cores = s.cores := rfl
@[simp] theorem modGang_slices (s : State) (i : Nat) (f : Gang → Gang) : (s.modGang i f).slices = s.slices := rfl
@[simp] theorem modGang_ctrls (s : State) (i : Nat) (f : Gang → Gang) : (s.modGang i f).ctrls = s.ctrls := rfl
@[simp] theorem modGang_fabric (s : State) (i : Nat) (f : Gang → Gang) : (s.modGang i f).fabric = s.fabric := rfl
@[simp] theorem modGang_parts (s : State) (i : Nat) (f : Gang → Gang) : (s.modGang i f).parts = s.parts := rfl
@[simp] theorem modGang_dev (s : State) (i : Nat) (f : Gang → Gang) : (s.modGang i f).dev = s.dev := rfl
@[simp] theorem modGang_sec (s : State) (i : Nat) (f : Gang → Gang) : (s.modGang i f).sec = s.sec := rfl
@[simp] theorem modGang_mem (s : State) (i : Nat) (f : Gang → Gang) : (s.modGang i f).mem = s.mem := rfl
@[simp] theorem modGang_kmem (s : State) (i : Nat) (f : Gang → Gang) : (s.modGang i f).kmem = s.kmem := rfl
@[simp] theorem modGang_undef (s : State) (i : Nat) (f : Gang → Gang) : (s.modGang i f).undef = s.undef := rfl
@[simp] theorem modGang_poison (s : State) (i : Nat) (f : Gang → Gang) : (s.modGang i f).poison = s.poison := rfl
@[simp] theorem modGang_watch (s : State) (i : Nat) (f : Gang → Gang) : (s.modGang i f).watch = s.watch := rfl
@[simp] theorem modGang_undefAt (s : State) (i : Nat) (f : Gang → Gang) : (s.modGang i f).undefAt = s.undefAt := rfl
@[simp] theorem modGang_mixed (s : State) (i : Nat) (f : Gang → Gang) : (s.modGang i f).mixed = s.mixed := rfl
@[simp] theorem modGang_memq (s : State) (i : Nat) (f : Gang → Gang) : (s.modGang i f).memq = s.memq := rfl
@[simp] theorem modGang_leaves (s : State) (i : Nat) (f : Gang → Gang) : (s.modGang i f).leaves = s.leaves := rfl
@[simp] theorem modGang_mside (s : State) (i : Nat) (f : Gang → Gang) : (s.modGang i f).mside = s.mside := rfl
@[simp] theorem modGang_garbled (s : State) (i : Nat) (f : Gang → Gang) : (s.modGang i f).garbled = s.garbled := rfl
@[simp] theorem modGang_portLines (s : State) (i : Nat) (f : Gang → Gang) : (s.modGang i f).portLines = s.portLines := rfl
@[simp] theorem modGang_sealedPages (s : State) (i : Nat) (f : Gang → Gang) : (s.modGang i f).sealedPages = s.sealedPages := rfl
@[simp] theorem modGang_saves (s : State) (i : Nat) (f : Gang → Gang) : (s.modGang i f).saves = s.saves := rfl
@[simp] theorem modGang_kills (s : State) (i : Nat) (f : Gang → Gang) : (s.modGang i f).kills = s.kills := rfl
@[simp] theorem modGang_out (s : State) (i : Nat) (f : Gang → Gang) : (s.modGang i f).out = s.out := rfl

/-! ### modGrid -/

@[simp] theorem modGrid_tick (s : State) (i : Nat) (f : Grid → Grid) : (s.modGrid i f).tick = s.tick := rfl
@[simp] theorem modGrid_agenda (s : State) (i : Nat) (f : Grid → Grid) : (s.modGrid i f).agenda = s.agenda := rfl
@[simp] theorem modGrid_upsets (s : State) (i : Nat) (f : Grid → Grid) : (s.modGrid i f).upsets = s.upsets := rfl
@[simp] theorem modGrid_cur (s : State) (i : Nat) (f : Grid → Grid) : (s.modGrid i f).cur = s.cur := rfl
@[simp] theorem modGrid_nextId (s : State) (i : Nat) (f : Grid → Grid) : (s.modGrid i f).nextId = s.nextId := rfl
@[simp] theorem modGrid_grids (s : State) (i : Nat) (f : Grid → Grid) : (s.modGrid i f).grids = s.grids.modify i f := rfl
@[simp] theorem modGrid_gangs (s : State) (i : Nat) (f : Grid → Grid) : (s.modGrid i f).gangs = s.gangs := rfl
@[simp] theorem modGrid_teams (s : State) (i : Nat) (f : Grid → Grid) : (s.modGrid i f).teams = s.teams := rfl
@[simp] theorem modGrid_quires (s : State) (i : Nat) (f : Grid → Grid) : (s.modGrid i f).quires = s.quires := rfl
@[simp] theorem modGrid_gaths (s : State) (i : Nat) (f : Grid → Grid) : (s.modGrid i f).gaths = s.gaths := rfl
@[simp] theorem modGrid_ops (s : State) (i : Nat) (f : Grid → Grid) : (s.modGrid i f).ops = s.ops := rfl
@[simp] theorem modGrid_net (s : State) (i : Nat) (f : Grid → Grid) : (s.modGrid i f).net = s.net := rfl
@[simp] theorem modGrid_bagOps (s : State) (i : Nat) (f : Grid → Grid) : (s.modGrid i f).bagOps = s.bagOps := rfl
@[simp] theorem modGrid_bags (s : State) (i : Nat) (f : Grid → Grid) : (s.modGrid i f).bags = s.bags := rfl
@[simp] theorem modGrid_cores (s : State) (i : Nat) (f : Grid → Grid) : (s.modGrid i f).cores = s.cores := rfl
@[simp] theorem modGrid_slices (s : State) (i : Nat) (f : Grid → Grid) : (s.modGrid i f).slices = s.slices := rfl
@[simp] theorem modGrid_ctrls (s : State) (i : Nat) (f : Grid → Grid) : (s.modGrid i f).ctrls = s.ctrls := rfl
@[simp] theorem modGrid_fabric (s : State) (i : Nat) (f : Grid → Grid) : (s.modGrid i f).fabric = s.fabric := rfl
@[simp] theorem modGrid_parts (s : State) (i : Nat) (f : Grid → Grid) : (s.modGrid i f).parts = s.parts := rfl
@[simp] theorem modGrid_dev (s : State) (i : Nat) (f : Grid → Grid) : (s.modGrid i f).dev = s.dev := rfl
@[simp] theorem modGrid_sec (s : State) (i : Nat) (f : Grid → Grid) : (s.modGrid i f).sec = s.sec := rfl
@[simp] theorem modGrid_mem (s : State) (i : Nat) (f : Grid → Grid) : (s.modGrid i f).mem = s.mem := rfl
@[simp] theorem modGrid_kmem (s : State) (i : Nat) (f : Grid → Grid) : (s.modGrid i f).kmem = s.kmem := rfl
@[simp] theorem modGrid_undef (s : State) (i : Nat) (f : Grid → Grid) : (s.modGrid i f).undef = s.undef := rfl
@[simp] theorem modGrid_poison (s : State) (i : Nat) (f : Grid → Grid) : (s.modGrid i f).poison = s.poison := rfl
@[simp] theorem modGrid_watch (s : State) (i : Nat) (f : Grid → Grid) : (s.modGrid i f).watch = s.watch := rfl
@[simp] theorem modGrid_undefAt (s : State) (i : Nat) (f : Grid → Grid) : (s.modGrid i f).undefAt = s.undefAt := rfl
@[simp] theorem modGrid_mixed (s : State) (i : Nat) (f : Grid → Grid) : (s.modGrid i f).mixed = s.mixed := rfl
@[simp] theorem modGrid_memq (s : State) (i : Nat) (f : Grid → Grid) : (s.modGrid i f).memq = s.memq := rfl
@[simp] theorem modGrid_leaves (s : State) (i : Nat) (f : Grid → Grid) : (s.modGrid i f).leaves = s.leaves := rfl
@[simp] theorem modGrid_mside (s : State) (i : Nat) (f : Grid → Grid) : (s.modGrid i f).mside = s.mside := rfl
@[simp] theorem modGrid_garbled (s : State) (i : Nat) (f : Grid → Grid) : (s.modGrid i f).garbled = s.garbled := rfl
@[simp] theorem modGrid_portLines (s : State) (i : Nat) (f : Grid → Grid) : (s.modGrid i f).portLines = s.portLines := rfl
@[simp] theorem modGrid_sealedPages (s : State) (i : Nat) (f : Grid → Grid) : (s.modGrid i f).sealedPages = s.sealedPages := rfl
@[simp] theorem modGrid_saves (s : State) (i : Nat) (f : Grid → Grid) : (s.modGrid i f).saves = s.saves := rfl
@[simp] theorem modGrid_kills (s : State) (i : Nat) (f : Grid → Grid) : (s.modGrid i f).kills = s.kills := rfl
@[simp] theorem modGrid_out (s : State) (i : Nat) (f : Grid → Grid) : (s.modGrid i f).out = s.out := rfl

/-! ### modCore -/

@[simp] theorem modCore_tick (s : State) (i : Nat) (f : Core → Core) : (s.modCore i f).tick = s.tick := rfl
@[simp] theorem modCore_agenda (s : State) (i : Nat) (f : Core → Core) : (s.modCore i f).agenda = s.agenda := rfl
@[simp] theorem modCore_upsets (s : State) (i : Nat) (f : Core → Core) : (s.modCore i f).upsets = s.upsets := rfl
@[simp] theorem modCore_cur (s : State) (i : Nat) (f : Core → Core) : (s.modCore i f).cur = s.cur := rfl
@[simp] theorem modCore_nextId (s : State) (i : Nat) (f : Core → Core) : (s.modCore i f).nextId = s.nextId := rfl
@[simp] theorem modCore_grids (s : State) (i : Nat) (f : Core → Core) : (s.modCore i f).grids = s.grids := rfl
@[simp] theorem modCore_gangs (s : State) (i : Nat) (f : Core → Core) : (s.modCore i f).gangs = s.gangs := rfl
@[simp] theorem modCore_teams (s : State) (i : Nat) (f : Core → Core) : (s.modCore i f).teams = s.teams := rfl
@[simp] theorem modCore_quires (s : State) (i : Nat) (f : Core → Core) : (s.modCore i f).quires = s.quires := rfl
@[simp] theorem modCore_gaths (s : State) (i : Nat) (f : Core → Core) : (s.modCore i f).gaths = s.gaths := rfl
@[simp] theorem modCore_ops (s : State) (i : Nat) (f : Core → Core) : (s.modCore i f).ops = s.ops := rfl
@[simp] theorem modCore_net (s : State) (i : Nat) (f : Core → Core) : (s.modCore i f).net = s.net := rfl
@[simp] theorem modCore_bagOps (s : State) (i : Nat) (f : Core → Core) : (s.modCore i f).bagOps = s.bagOps := rfl
@[simp] theorem modCore_bags (s : State) (i : Nat) (f : Core → Core) : (s.modCore i f).bags = s.bags := rfl
@[simp] theorem modCore_cores (s : State) (i : Nat) (f : Core → Core) : (s.modCore i f).cores = s.cores.modify i f := rfl
@[simp] theorem modCore_slices (s : State) (i : Nat) (f : Core → Core) : (s.modCore i f).slices = s.slices := rfl
@[simp] theorem modCore_ctrls (s : State) (i : Nat) (f : Core → Core) : (s.modCore i f).ctrls = s.ctrls := rfl
@[simp] theorem modCore_fabric (s : State) (i : Nat) (f : Core → Core) : (s.modCore i f).fabric = s.fabric := rfl
@[simp] theorem modCore_parts (s : State) (i : Nat) (f : Core → Core) : (s.modCore i f).parts = s.parts := rfl
@[simp] theorem modCore_dev (s : State) (i : Nat) (f : Core → Core) : (s.modCore i f).dev = s.dev := rfl
@[simp] theorem modCore_sec (s : State) (i : Nat) (f : Core → Core) : (s.modCore i f).sec = s.sec := rfl
@[simp] theorem modCore_mem (s : State) (i : Nat) (f : Core → Core) : (s.modCore i f).mem = s.mem := rfl
@[simp] theorem modCore_kmem (s : State) (i : Nat) (f : Core → Core) : (s.modCore i f).kmem = s.kmem := rfl
@[simp] theorem modCore_undef (s : State) (i : Nat) (f : Core → Core) : (s.modCore i f).undef = s.undef := rfl
@[simp] theorem modCore_poison (s : State) (i : Nat) (f : Core → Core) : (s.modCore i f).poison = s.poison := rfl
@[simp] theorem modCore_watch (s : State) (i : Nat) (f : Core → Core) : (s.modCore i f).watch = s.watch := rfl
@[simp] theorem modCore_undefAt (s : State) (i : Nat) (f : Core → Core) : (s.modCore i f).undefAt = s.undefAt := rfl
@[simp] theorem modCore_mixed (s : State) (i : Nat) (f : Core → Core) : (s.modCore i f).mixed = s.mixed := rfl
@[simp] theorem modCore_memq (s : State) (i : Nat) (f : Core → Core) : (s.modCore i f).memq = s.memq := rfl
@[simp] theorem modCore_leaves (s : State) (i : Nat) (f : Core → Core) : (s.modCore i f).leaves = s.leaves := rfl
@[simp] theorem modCore_mside (s : State) (i : Nat) (f : Core → Core) : (s.modCore i f).mside = s.mside := rfl
@[simp] theorem modCore_garbled (s : State) (i : Nat) (f : Core → Core) : (s.modCore i f).garbled = s.garbled := rfl
@[simp] theorem modCore_portLines (s : State) (i : Nat) (f : Core → Core) : (s.modCore i f).portLines = s.portLines := rfl
@[simp] theorem modCore_sealedPages (s : State) (i : Nat) (f : Core → Core) : (s.modCore i f).sealedPages = s.sealedPages := rfl
@[simp] theorem modCore_saves (s : State) (i : Nat) (f : Core → Core) : (s.modCore i f).saves = s.saves := rfl
@[simp] theorem modCore_kills (s : State) (i : Nat) (f : Core → Core) : (s.modCore i f).kills = s.kills := rfl
@[simp] theorem modCore_out (s : State) (i : Nat) (f : Core → Core) : (s.modCore i f).out = s.out := rfl

/-! ### modPart -/

@[simp] theorem modPart_tick (s : State) (i : Nat) (f : Part → Part) : (s.modPart i f).tick = s.tick := rfl
@[simp] theorem modPart_agenda (s : State) (i : Nat) (f : Part → Part) : (s.modPart i f).agenda = s.agenda := rfl
@[simp] theorem modPart_upsets (s : State) (i : Nat) (f : Part → Part) : (s.modPart i f).upsets = s.upsets := rfl
@[simp] theorem modPart_cur (s : State) (i : Nat) (f : Part → Part) : (s.modPart i f).cur = s.cur := rfl
@[simp] theorem modPart_nextId (s : State) (i : Nat) (f : Part → Part) : (s.modPart i f).nextId = s.nextId := rfl
@[simp] theorem modPart_grids (s : State) (i : Nat) (f : Part → Part) : (s.modPart i f).grids = s.grids := rfl
@[simp] theorem modPart_gangs (s : State) (i : Nat) (f : Part → Part) : (s.modPart i f).gangs = s.gangs := rfl
@[simp] theorem modPart_teams (s : State) (i : Nat) (f : Part → Part) : (s.modPart i f).teams = s.teams := rfl
@[simp] theorem modPart_quires (s : State) (i : Nat) (f : Part → Part) : (s.modPart i f).quires = s.quires := rfl
@[simp] theorem modPart_gaths (s : State) (i : Nat) (f : Part → Part) : (s.modPart i f).gaths = s.gaths := rfl
@[simp] theorem modPart_ops (s : State) (i : Nat) (f : Part → Part) : (s.modPart i f).ops = s.ops := rfl
@[simp] theorem modPart_net (s : State) (i : Nat) (f : Part → Part) : (s.modPart i f).net = s.net := rfl
@[simp] theorem modPart_bagOps (s : State) (i : Nat) (f : Part → Part) : (s.modPart i f).bagOps = s.bagOps := rfl
@[simp] theorem modPart_bags (s : State) (i : Nat) (f : Part → Part) : (s.modPart i f).bags = s.bags := rfl
@[simp] theorem modPart_cores (s : State) (i : Nat) (f : Part → Part) : (s.modPart i f).cores = s.cores := rfl
@[simp] theorem modPart_slices (s : State) (i : Nat) (f : Part → Part) : (s.modPart i f).slices = s.slices := rfl
@[simp] theorem modPart_ctrls (s : State) (i : Nat) (f : Part → Part) : (s.modPart i f).ctrls = s.ctrls := rfl
@[simp] theorem modPart_fabric (s : State) (i : Nat) (f : Part → Part) : (s.modPart i f).fabric = s.fabric := rfl
@[simp] theorem modPart_parts (s : State) (i : Nat) (f : Part → Part) : (s.modPart i f).parts = s.parts.modify i f := rfl
@[simp] theorem modPart_dev (s : State) (i : Nat) (f : Part → Part) : (s.modPart i f).dev = s.dev := rfl
@[simp] theorem modPart_sec (s : State) (i : Nat) (f : Part → Part) : (s.modPart i f).sec = s.sec := rfl
@[simp] theorem modPart_mem (s : State) (i : Nat) (f : Part → Part) : (s.modPart i f).mem = s.mem := rfl
@[simp] theorem modPart_kmem (s : State) (i : Nat) (f : Part → Part) : (s.modPart i f).kmem = s.kmem := rfl
@[simp] theorem modPart_undef (s : State) (i : Nat) (f : Part → Part) : (s.modPart i f).undef = s.undef := rfl
@[simp] theorem modPart_poison (s : State) (i : Nat) (f : Part → Part) : (s.modPart i f).poison = s.poison := rfl
@[simp] theorem modPart_watch (s : State) (i : Nat) (f : Part → Part) : (s.modPart i f).watch = s.watch := rfl
@[simp] theorem modPart_undefAt (s : State) (i : Nat) (f : Part → Part) : (s.modPart i f).undefAt = s.undefAt := rfl
@[simp] theorem modPart_mixed (s : State) (i : Nat) (f : Part → Part) : (s.modPart i f).mixed = s.mixed := rfl
@[simp] theorem modPart_memq (s : State) (i : Nat) (f : Part → Part) : (s.modPart i f).memq = s.memq := rfl
@[simp] theorem modPart_leaves (s : State) (i : Nat) (f : Part → Part) : (s.modPart i f).leaves = s.leaves := rfl
@[simp] theorem modPart_mside (s : State) (i : Nat) (f : Part → Part) : (s.modPart i f).mside = s.mside := rfl
@[simp] theorem modPart_garbled (s : State) (i : Nat) (f : Part → Part) : (s.modPart i f).garbled = s.garbled := rfl
@[simp] theorem modPart_portLines (s : State) (i : Nat) (f : Part → Part) : (s.modPart i f).portLines = s.portLines := rfl
@[simp] theorem modPart_sealedPages (s : State) (i : Nat) (f : Part → Part) : (s.modPart i f).sealedPages = s.sealedPages := rfl
@[simp] theorem modPart_saves (s : State) (i : Nat) (f : Part → Part) : (s.modPart i f).saves = s.saves := rfl
@[simp] theorem modPart_kills (s : State) (i : Nat) (f : Part → Part) : (s.modPart i f).kills = s.kills := rfl
@[simp] theorem modPart_out (s : State) (i : Nat) (f : Part → Part) : (s.modPart i f).out = s.out := rfl

/-! ### modSlice -/

@[simp] theorem modSlice_tick (s : State) (i : Nat) (f : Slice → Slice) : (s.modSlice i f).tick = s.tick := rfl
@[simp] theorem modSlice_agenda (s : State) (i : Nat) (f : Slice → Slice) : (s.modSlice i f).agenda = s.agenda := rfl
@[simp] theorem modSlice_upsets (s : State) (i : Nat) (f : Slice → Slice) : (s.modSlice i f).upsets = s.upsets := rfl
@[simp] theorem modSlice_cur (s : State) (i : Nat) (f : Slice → Slice) : (s.modSlice i f).cur = s.cur := rfl
@[simp] theorem modSlice_nextId (s : State) (i : Nat) (f : Slice → Slice) : (s.modSlice i f).nextId = s.nextId := rfl
@[simp] theorem modSlice_grids (s : State) (i : Nat) (f : Slice → Slice) : (s.modSlice i f).grids = s.grids := rfl
@[simp] theorem modSlice_gangs (s : State) (i : Nat) (f : Slice → Slice) : (s.modSlice i f).gangs = s.gangs := rfl
@[simp] theorem modSlice_teams (s : State) (i : Nat) (f : Slice → Slice) : (s.modSlice i f).teams = s.teams := rfl
@[simp] theorem modSlice_quires (s : State) (i : Nat) (f : Slice → Slice) : (s.modSlice i f).quires = s.quires := rfl
@[simp] theorem modSlice_gaths (s : State) (i : Nat) (f : Slice → Slice) : (s.modSlice i f).gaths = s.gaths := rfl
@[simp] theorem modSlice_ops (s : State) (i : Nat) (f : Slice → Slice) : (s.modSlice i f).ops = s.ops := rfl
@[simp] theorem modSlice_net (s : State) (i : Nat) (f : Slice → Slice) : (s.modSlice i f).net = s.net := rfl
@[simp] theorem modSlice_bagOps (s : State) (i : Nat) (f : Slice → Slice) : (s.modSlice i f).bagOps = s.bagOps := rfl
@[simp] theorem modSlice_bags (s : State) (i : Nat) (f : Slice → Slice) : (s.modSlice i f).bags = s.bags := rfl
@[simp] theorem modSlice_cores (s : State) (i : Nat) (f : Slice → Slice) : (s.modSlice i f).cores = s.cores := rfl
@[simp] theorem modSlice_slices (s : State) (i : Nat) (f : Slice → Slice) : (s.modSlice i f).slices = s.slices.modify i f := rfl
@[simp] theorem modSlice_ctrls (s : State) (i : Nat) (f : Slice → Slice) : (s.modSlice i f).ctrls = s.ctrls := rfl
@[simp] theorem modSlice_fabric (s : State) (i : Nat) (f : Slice → Slice) : (s.modSlice i f).fabric = s.fabric := rfl
@[simp] theorem modSlice_parts (s : State) (i : Nat) (f : Slice → Slice) : (s.modSlice i f).parts = s.parts := rfl
@[simp] theorem modSlice_dev (s : State) (i : Nat) (f : Slice → Slice) : (s.modSlice i f).dev = s.dev := rfl
@[simp] theorem modSlice_sec (s : State) (i : Nat) (f : Slice → Slice) : (s.modSlice i f).sec = s.sec := rfl
@[simp] theorem modSlice_mem (s : State) (i : Nat) (f : Slice → Slice) : (s.modSlice i f).mem = s.mem := rfl
@[simp] theorem modSlice_kmem (s : State) (i : Nat) (f : Slice → Slice) : (s.modSlice i f).kmem = s.kmem := rfl
@[simp] theorem modSlice_undef (s : State) (i : Nat) (f : Slice → Slice) : (s.modSlice i f).undef = s.undef := rfl
@[simp] theorem modSlice_poison (s : State) (i : Nat) (f : Slice → Slice) : (s.modSlice i f).poison = s.poison := rfl
@[simp] theorem modSlice_watch (s : State) (i : Nat) (f : Slice → Slice) : (s.modSlice i f).watch = s.watch := rfl
@[simp] theorem modSlice_undefAt (s : State) (i : Nat) (f : Slice → Slice) : (s.modSlice i f).undefAt = s.undefAt := rfl
@[simp] theorem modSlice_mixed (s : State) (i : Nat) (f : Slice → Slice) : (s.modSlice i f).mixed = s.mixed := rfl
@[simp] theorem modSlice_memq (s : State) (i : Nat) (f : Slice → Slice) : (s.modSlice i f).memq = s.memq := rfl
@[simp] theorem modSlice_leaves (s : State) (i : Nat) (f : Slice → Slice) : (s.modSlice i f).leaves = s.leaves := rfl
@[simp] theorem modSlice_mside (s : State) (i : Nat) (f : Slice → Slice) : (s.modSlice i f).mside = s.mside := rfl
@[simp] theorem modSlice_garbled (s : State) (i : Nat) (f : Slice → Slice) : (s.modSlice i f).garbled = s.garbled := rfl
@[simp] theorem modSlice_portLines (s : State) (i : Nat) (f : Slice → Slice) : (s.modSlice i f).portLines = s.portLines := rfl
@[simp] theorem modSlice_sealedPages (s : State) (i : Nat) (f : Slice → Slice) : (s.modSlice i f).sealedPages = s.sealedPages := rfl
@[simp] theorem modSlice_saves (s : State) (i : Nat) (f : Slice → Slice) : (s.modSlice i f).saves = s.saves := rfl
@[simp] theorem modSlice_kills (s : State) (i : Nat) (f : Slice → Slice) : (s.modSlice i f).kills = s.kills := rfl
@[simp] theorem modSlice_out (s : State) (i : Nat) (f : Slice → Slice) : (s.modSlice i f).out = s.out := rfl

/-! ### modCtrl -/

@[simp] theorem modCtrl_tick (s : State) (i : Nat) (f : Ctrl → Ctrl) : (s.modCtrl i f).tick = s.tick := rfl
@[simp] theorem modCtrl_agenda (s : State) (i : Nat) (f : Ctrl → Ctrl) : (s.modCtrl i f).agenda = s.agenda := rfl
@[simp] theorem modCtrl_upsets (s : State) (i : Nat) (f : Ctrl → Ctrl) : (s.modCtrl i f).upsets = s.upsets := rfl
@[simp] theorem modCtrl_cur (s : State) (i : Nat) (f : Ctrl → Ctrl) : (s.modCtrl i f).cur = s.cur := rfl
@[simp] theorem modCtrl_nextId (s : State) (i : Nat) (f : Ctrl → Ctrl) : (s.modCtrl i f).nextId = s.nextId := rfl
@[simp] theorem modCtrl_grids (s : State) (i : Nat) (f : Ctrl → Ctrl) : (s.modCtrl i f).grids = s.grids := rfl
@[simp] theorem modCtrl_gangs (s : State) (i : Nat) (f : Ctrl → Ctrl) : (s.modCtrl i f).gangs = s.gangs := rfl
@[simp] theorem modCtrl_teams (s : State) (i : Nat) (f : Ctrl → Ctrl) : (s.modCtrl i f).teams = s.teams := rfl
@[simp] theorem modCtrl_quires (s : State) (i : Nat) (f : Ctrl → Ctrl) : (s.modCtrl i f).quires = s.quires := rfl
@[simp] theorem modCtrl_gaths (s : State) (i : Nat) (f : Ctrl → Ctrl) : (s.modCtrl i f).gaths = s.gaths := rfl
@[simp] theorem modCtrl_ops (s : State) (i : Nat) (f : Ctrl → Ctrl) : (s.modCtrl i f).ops = s.ops := rfl
@[simp] theorem modCtrl_net (s : State) (i : Nat) (f : Ctrl → Ctrl) : (s.modCtrl i f).net = s.net := rfl
@[simp] theorem modCtrl_bagOps (s : State) (i : Nat) (f : Ctrl → Ctrl) : (s.modCtrl i f).bagOps = s.bagOps := rfl
@[simp] theorem modCtrl_bags (s : State) (i : Nat) (f : Ctrl → Ctrl) : (s.modCtrl i f).bags = s.bags := rfl
@[simp] theorem modCtrl_cores (s : State) (i : Nat) (f : Ctrl → Ctrl) : (s.modCtrl i f).cores = s.cores := rfl
@[simp] theorem modCtrl_slices (s : State) (i : Nat) (f : Ctrl → Ctrl) : (s.modCtrl i f).slices = s.slices := rfl
@[simp] theorem modCtrl_ctrls (s : State) (i : Nat) (f : Ctrl → Ctrl) : (s.modCtrl i f).ctrls = s.ctrls.modify i f := rfl
@[simp] theorem modCtrl_fabric (s : State) (i : Nat) (f : Ctrl → Ctrl) : (s.modCtrl i f).fabric = s.fabric := rfl
@[simp] theorem modCtrl_parts (s : State) (i : Nat) (f : Ctrl → Ctrl) : (s.modCtrl i f).parts = s.parts := rfl
@[simp] theorem modCtrl_dev (s : State) (i : Nat) (f : Ctrl → Ctrl) : (s.modCtrl i f).dev = s.dev := rfl
@[simp] theorem modCtrl_sec (s : State) (i : Nat) (f : Ctrl → Ctrl) : (s.modCtrl i f).sec = s.sec := rfl
@[simp] theorem modCtrl_mem (s : State) (i : Nat) (f : Ctrl → Ctrl) : (s.modCtrl i f).mem = s.mem := rfl
@[simp] theorem modCtrl_kmem (s : State) (i : Nat) (f : Ctrl → Ctrl) : (s.modCtrl i f).kmem = s.kmem := rfl
@[simp] theorem modCtrl_undef (s : State) (i : Nat) (f : Ctrl → Ctrl) : (s.modCtrl i f).undef = s.undef := rfl
@[simp] theorem modCtrl_poison (s : State) (i : Nat) (f : Ctrl → Ctrl) : (s.modCtrl i f).poison = s.poison := rfl
@[simp] theorem modCtrl_watch (s : State) (i : Nat) (f : Ctrl → Ctrl) : (s.modCtrl i f).watch = s.watch := rfl
@[simp] theorem modCtrl_undefAt (s : State) (i : Nat) (f : Ctrl → Ctrl) : (s.modCtrl i f).undefAt = s.undefAt := rfl
@[simp] theorem modCtrl_mixed (s : State) (i : Nat) (f : Ctrl → Ctrl) : (s.modCtrl i f).mixed = s.mixed := rfl
@[simp] theorem modCtrl_memq (s : State) (i : Nat) (f : Ctrl → Ctrl) : (s.modCtrl i f).memq = s.memq := rfl
@[simp] theorem modCtrl_leaves (s : State) (i : Nat) (f : Ctrl → Ctrl) : (s.modCtrl i f).leaves = s.leaves := rfl
@[simp] theorem modCtrl_mside (s : State) (i : Nat) (f : Ctrl → Ctrl) : (s.modCtrl i f).mside = s.mside := rfl
@[simp] theorem modCtrl_garbled (s : State) (i : Nat) (f : Ctrl → Ctrl) : (s.modCtrl i f).garbled = s.garbled := rfl
@[simp] theorem modCtrl_portLines (s : State) (i : Nat) (f : Ctrl → Ctrl) : (s.modCtrl i f).portLines = s.portLines := rfl
@[simp] theorem modCtrl_sealedPages (s : State) (i : Nat) (f : Ctrl → Ctrl) : (s.modCtrl i f).sealedPages = s.sealedPages := rfl
@[simp] theorem modCtrl_saves (s : State) (i : Nat) (f : Ctrl → Ctrl) : (s.modCtrl i f).saves = s.saves := rfl
@[simp] theorem modCtrl_kills (s : State) (i : Nat) (f : Ctrl → Ctrl) : (s.modCtrl i f).kills = s.kills := rfl
@[simp] theorem modCtrl_out (s : State) (i : Nat) (f : Ctrl → Ctrl) : (s.modCtrl i f).out = s.out := rfl

/-! ### ticked, endIssue and emit -/

@[simp] theorem ticked_tick (s : State) : s.ticked.tick = s.tick + 1 := rfl
@[simp] theorem ticked_agenda (s : State) : s.ticked.agenda = s.agenda := rfl
@[simp] theorem ticked_upsets (s : State) : s.ticked.upsets = s.upsets := rfl
@[simp] theorem ticked_cur (s : State) : s.ticked.cur = s.cur := rfl
@[simp] theorem ticked_nextId (s : State) : s.ticked.nextId = s.nextId := rfl
@[simp] theorem ticked_grids (s : State) : s.ticked.grids = s.grids := rfl
@[simp] theorem ticked_gangs (s : State) : s.ticked.gangs = s.gangs := rfl
@[simp] theorem ticked_teams (s : State) : s.ticked.teams = s.teams := rfl
@[simp] theorem ticked_quires (s : State) : s.ticked.quires = s.quires := rfl
@[simp] theorem ticked_gaths (s : State) : s.ticked.gaths = s.gaths := rfl
@[simp] theorem ticked_ops (s : State) : s.ticked.ops = s.ops := rfl
@[simp] theorem ticked_net (s : State) : s.ticked.net = s.net := rfl
@[simp] theorem ticked_bagOps (s : State) : s.ticked.bagOps = s.bagOps := rfl
@[simp] theorem ticked_bags (s : State) : s.ticked.bags = s.bags := rfl
@[simp] theorem ticked_cores (s : State) : s.ticked.cores = s.cores := rfl
@[simp] theorem ticked_slices (s : State) : s.ticked.slices = s.slices := rfl
@[simp] theorem ticked_ctrls (s : State) : s.ticked.ctrls = s.ctrls := rfl
@[simp] theorem ticked_fabric (s : State) : s.ticked.fabric = s.fabric := rfl
@[simp] theorem ticked_parts (s : State) : s.ticked.parts = s.parts := rfl
@[simp] theorem ticked_dev (s : State) : s.ticked.dev = s.dev := rfl
@[simp] theorem ticked_sec (s : State) : s.ticked.sec = s.sec := rfl
@[simp] theorem ticked_mem (s : State) : s.ticked.mem = s.mem := rfl
@[simp] theorem ticked_kmem (s : State) : s.ticked.kmem = s.kmem := rfl
@[simp] theorem ticked_undef (s : State) : s.ticked.undef = s.undef := rfl
@[simp] theorem ticked_poison (s : State) : s.ticked.poison = s.poison := rfl
@[simp] theorem ticked_watch (s : State) : s.ticked.watch = s.watch := rfl
@[simp] theorem ticked_undefAt (s : State) : s.ticked.undefAt = s.undefAt := rfl
@[simp] theorem ticked_mixed (s : State) : s.ticked.mixed = s.mixed := rfl
@[simp] theorem ticked_memq (s : State) : s.ticked.memq = s.memq := rfl
@[simp] theorem ticked_leaves (s : State) : s.ticked.leaves = s.leaves := rfl
@[simp] theorem ticked_mside (s : State) : s.ticked.mside = s.mside := rfl
@[simp] theorem ticked_garbled (s : State) : s.ticked.garbled = s.garbled := rfl
@[simp] theorem ticked_portLines (s : State) : s.ticked.portLines = s.portLines := rfl
@[simp] theorem ticked_sealedPages (s : State) : s.ticked.sealedPages = s.sealedPages := rfl
@[simp] theorem ticked_saves (s : State) : s.ticked.saves = s.saves := rfl
@[simp] theorem ticked_kills (s : State) : s.ticked.kills = s.kills := rfl
@[simp] theorem ticked_out (s : State) : s.ticked.out = s.out := rfl

@[simp] theorem endIssue_tick (s : State) : s.endIssue.tick = s.tick := rfl
@[simp] theorem endIssue_agenda (s : State) : s.endIssue.agenda = s.agenda := rfl
@[simp] theorem endIssue_upsets (s : State) : s.endIssue.upsets = s.upsets := rfl
@[simp] theorem endIssue_cur (s : State) : s.endIssue.cur = none := rfl
@[simp] theorem endIssue_nextId (s : State) : s.endIssue.nextId = s.nextId := rfl
@[simp] theorem endIssue_grids (s : State) : s.endIssue.grids = s.grids := rfl
@[simp] theorem endIssue_gangs (s : State) : s.endIssue.gangs = s.gangs := rfl
@[simp] theorem endIssue_teams (s : State) : s.endIssue.teams = s.teams := rfl
@[simp] theorem endIssue_quires (s : State) : s.endIssue.quires = s.quires := rfl
@[simp] theorem endIssue_gaths (s : State) : s.endIssue.gaths = s.gaths := rfl
@[simp] theorem endIssue_ops (s : State) : s.endIssue.ops = s.ops := rfl
@[simp] theorem endIssue_net (s : State) : s.endIssue.net = s.net := rfl
@[simp] theorem endIssue_bagOps (s : State) : s.endIssue.bagOps = s.bagOps := rfl
@[simp] theorem endIssue_bags (s : State) : s.endIssue.bags = s.bags := rfl
@[simp] theorem endIssue_cores (s : State) : s.endIssue.cores = s.cores := rfl
@[simp] theorem endIssue_slices (s : State) : s.endIssue.slices = s.slices := rfl
@[simp] theorem endIssue_ctrls (s : State) : s.endIssue.ctrls = s.ctrls := rfl
@[simp] theorem endIssue_fabric (s : State) : s.endIssue.fabric = s.fabric := rfl
@[simp] theorem endIssue_parts (s : State) : s.endIssue.parts = s.parts := rfl
@[simp] theorem endIssue_dev (s : State) : s.endIssue.dev = s.dev := rfl
@[simp] theorem endIssue_sec (s : State) : s.endIssue.sec = s.sec := rfl
@[simp] theorem endIssue_mem (s : State) : s.endIssue.mem = s.mem := rfl
@[simp] theorem endIssue_kmem (s : State) : s.endIssue.kmem = s.kmem := rfl
@[simp] theorem endIssue_undef (s : State) : s.endIssue.undef = s.undef := rfl
@[simp] theorem endIssue_poison (s : State) : s.endIssue.poison = s.poison := rfl
@[simp] theorem endIssue_watch (s : State) : s.endIssue.watch = s.watch := rfl
@[simp] theorem endIssue_undefAt (s : State) : s.endIssue.undefAt = s.undefAt := rfl
@[simp] theorem endIssue_mixed (s : State) : s.endIssue.mixed = s.mixed := rfl
@[simp] theorem endIssue_memq (s : State) : s.endIssue.memq = s.memq := rfl
@[simp] theorem endIssue_leaves (s : State) : s.endIssue.leaves = s.leaves := rfl
@[simp] theorem endIssue_mside (s : State) : s.endIssue.mside = s.mside := rfl
@[simp] theorem endIssue_garbled (s : State) : s.endIssue.garbled = s.garbled := rfl
@[simp] theorem endIssue_portLines (s : State) : s.endIssue.portLines = s.portLines := rfl
@[simp] theorem endIssue_sealedPages (s : State) : s.endIssue.sealedPages = s.sealedPages := rfl
@[simp] theorem endIssue_saves (s : State) : s.endIssue.saves = s.saves := rfl
@[simp] theorem endIssue_kills (s : State) : s.endIssue.kills = s.kills := rfl
@[simp] theorem endIssue_out (s : State) : s.endIssue.out = s.out := rfl

@[simp] theorem emit_tick (s : State) (o : Output) : (s.emit o).tick = s.tick := rfl
@[simp] theorem emit_agenda (s : State) (o : Output) : (s.emit o).agenda = s.agenda := rfl
@[simp] theorem emit_upsets (s : State) (o : Output) : (s.emit o).upsets = s.upsets := rfl
@[simp] theorem emit_cur (s : State) (o : Output) : (s.emit o).cur = s.cur := rfl
@[simp] theorem emit_nextId (s : State) (o : Output) : (s.emit o).nextId = s.nextId := rfl
@[simp] theorem emit_grids (s : State) (o : Output) : (s.emit o).grids = s.grids := rfl
@[simp] theorem emit_gangs (s : State) (o : Output) : (s.emit o).gangs = s.gangs := rfl
@[simp] theorem emit_teams (s : State) (o : Output) : (s.emit o).teams = s.teams := rfl
@[simp] theorem emit_quires (s : State) (o : Output) : (s.emit o).quires = s.quires := rfl
@[simp] theorem emit_gaths (s : State) (o : Output) : (s.emit o).gaths = s.gaths := rfl
@[simp] theorem emit_ops (s : State) (o : Output) : (s.emit o).ops = s.ops := rfl
@[simp] theorem emit_net (s : State) (o : Output) : (s.emit o).net = s.net := rfl
@[simp] theorem emit_bagOps (s : State) (o : Output) : (s.emit o).bagOps = s.bagOps := rfl
@[simp] theorem emit_bags (s : State) (o : Output) : (s.emit o).bags = s.bags := rfl
@[simp] theorem emit_cores (s : State) (o : Output) : (s.emit o).cores = s.cores := rfl
@[simp] theorem emit_slices (s : State) (o : Output) : (s.emit o).slices = s.slices := rfl
@[simp] theorem emit_ctrls (s : State) (o : Output) : (s.emit o).ctrls = s.ctrls := rfl
@[simp] theorem emit_fabric (s : State) (o : Output) : (s.emit o).fabric = s.fabric := rfl
@[simp] theorem emit_parts (s : State) (o : Output) : (s.emit o).parts = s.parts := rfl
@[simp] theorem emit_dev (s : State) (o : Output) : (s.emit o).dev = s.dev := rfl
@[simp] theorem emit_sec (s : State) (o : Output) : (s.emit o).sec = s.sec := rfl
@[simp] theorem emit_mem (s : State) (o : Output) : (s.emit o).mem = s.mem := rfl
@[simp] theorem emit_kmem (s : State) (o : Output) : (s.emit o).kmem = s.kmem := rfl
@[simp] theorem emit_undef (s : State) (o : Output) : (s.emit o).undef = s.undef := rfl
@[simp] theorem emit_poison (s : State) (o : Output) : (s.emit o).poison = s.poison := rfl
@[simp] theorem emit_watch (s : State) (o : Output) : (s.emit o).watch = s.watch := rfl
@[simp] theorem emit_undefAt (s : State) (o : Output) : (s.emit o).undefAt = s.undefAt := rfl
@[simp] theorem emit_mixed (s : State) (o : Output) : (s.emit o).mixed = s.mixed := rfl
@[simp] theorem emit_memq (s : State) (o : Output) : (s.emit o).memq = s.memq := rfl
@[simp] theorem emit_leaves (s : State) (o : Output) : (s.emit o).leaves = s.leaves := rfl
@[simp] theorem emit_mside (s : State) (o : Output) : (s.emit o).mside = s.mside := rfl
@[simp] theorem emit_garbled (s : State) (o : Output) : (s.emit o).garbled = s.garbled := rfl
@[simp] theorem emit_portLines (s : State) (o : Output) : (s.emit o).portLines = s.portLines := rfl
@[simp] theorem emit_sealedPages (s : State) (o : Output) : (s.emit o).sealedPages = s.sealedPages := rfl
@[simp] theorem emit_saves (s : State) (o : Output) : (s.emit o).saves = s.saves := rfl
@[simp] theorem emit_kills (s : State) (o : Output) : (s.emit o).kills = s.kills := rfl
@[simp] theorem emit_out (s : State) (o : Output) : (s.emit o).out = s.out ++ [o] := rfl

end Sys2Proof.Machine.State
end

