-- ==== Sys2Proof/Laws/Issue.lean ====
section
/-! SUPPORT. What issuing an instruction comes to once every check has passed: the meaning of its body, then the advance. -/

namespace Sys2Proof.Machine

/-- What a body's result leads to. -/
def Res.after (r : Res) (u : Uses) (c : Ctx) (extra : Nat) : State :=
  match r with
  | .stay s => s
  | .done s => s.advance u c extra

@[simp] theorem Res.after_stay (s : State) (u : Uses) (c : Ctx) (e : Nat) : (Res.stay s).after u c e = s := rfl
@[simp] theorem Res.after_done (s : State) (u : Uses) (c : Ctx) (e : Nat) : (Res.done s).after u c e = s.advance u c e := rfl

/-- An instruction whose checks pass issues: its body runs on the state as it stands. -/
theorem issueWith_of_ctx {s : State} {i : Instr} {c : Ctx} {alu : Bool} (h : s.ctxOf i = some c) (ha : alu = i.checked)
    (extra : Nat) (body : Ctx → State → Res) :
    issueWith i alu extra body s = .next ((body c s).after (s.usesOf c.q i) c extra) := by
  subst ha
  unfold State.ctxOf at h
  unfold issueWith
  match hc : s.cur with
  | none => simp [hc] at h
  | some cur =>
    rw [hc] at h
    simp only [State.issueAt] at h ⊢
    match ht : s.takersOf (s.gaths.getD cur.gath Gath.absent) with
    | [] => rw [ht] at h; simp at h
    | t0 :: ts =>
      rw [ht] at h
      simp only [] at h ⊢
      split at h
      next hok =>
        simp only [Bool.and_eq_true, Option.isNone_iff_eq_none, Bool.not_eq_true'] at hok
        obtain ⟨⟨⟨hp, hw⟩, hs⟩, hq⟩ := hok
        have hp' : ∀ t ∈ t0 :: ts, (s.preFault i t.quire (s.thread t).hand).isNone = true := List.all_eq_true.mp hp
        have h0 : (t0 :: ts).filter (fun t => (s.preFault i t.quire (s.thread t).hand).isSome) = [] := by
          rw [List.filter_eq_nil_iff]
          intro t ht'
          have := hp' t ht'
          simp_all
        rw [h0, List.filter_eq_self.mpr hp', List.foldl_nil]
        simp only []
        have hb : (t0 :: ts).filter (fun t => s.checker (s.earliest (s.usesOf t0.quire i) (s.gaths.getD cur.gath Gath.absent) (t0 :: ts) t0.quire (s.thread t0).hand + cur.wait) t &&
            s.stallShort (s.usesOf t0.quire i) t0.quire (s.thread t0).hand (s.earliest (s.usesOf t0.quire i) (s.gaths.getD cur.gath Gath.absent) (t0 :: ts) t0.quire (s.thread t0).hand + cur.wait) t) = [] := by
          rw [List.filter_eq_nil_iff]
          intro t ht'
          have := (List.all_eq_true.mp hs) t ht'
          simpa [← Bool.not_eq_true, Decidable.imp_iff_not_or] using this
        simp only [State.issueGo, hw, hb]
        have hf : List.filter (fun t => !([] : List ThreadId).contains t) (t0 :: ts) = t0 :: ts := by
          rw [List.filter_eq_self]; intro a _; rfl
        simp only [State.trapAt, List.foldl_nil, hf, hq]
        injection h with h
        subst h
        simp only [Res.after]
        rfl
      next => simp at h

end Sys2Proof.Machine
end

