-- ==== Sys2Proof/Laws/Threads.lean ====
section
/-! SUPPORT. What the shared updates of threads, quires and gatherings change, seen thread by thread, quire by quire. -/

namespace Sys2Proof.Machine

/-- The thread of this name exists. -/
def State.hasThread (s : State) (x : ThreadId) : Bool := decide (x.lane < (s.quire x.quire).threads.length)

theorem State.quire_modThreads (s : State) (ts : List ThreadId) (f : ThreadId → Thread → Thread) (q : Nat) :
    (s.modThreads ts f).quire q = { s.quire q with threads := (s.quire q).threads.mapIdx (fun l th =>
      if ts.contains ⟨q, l⟩ then f ⟨q, l⟩ th else th) } := by
  simp only [State.quire, State.modThreads, List.getD_eq_getElem?_getD, List.getElem?_mapIdx]
  cases h : s.quires[q]? <;> simp [Quire.absent]

/-- A thread after an update of several threads. -/
theorem State.thread_modThreads (s : State) (ts : List ThreadId) (f : ThreadId → Thread → Thread) (x : ThreadId) :
    (s.modThreads ts f).thread x =
      if ts.contains x && s.hasThread x then f x (s.thread x) else s.thread x := by
  simp only [State.thread, State.quire_modThreads, List.getD_eq_getElem?_getD, List.getElem?_mapIdx, State.hasThread]
  by_cases hl : x.lane < (s.quire x.quire).threads.length
  · rw [List.getElem?_eq_getElem hl]
    by_cases hc : ts.contains x = true
    · have hc' : ts.contains ⟨x.quire, x.lane⟩ = true := hc
      simp only [Option.map_some, hc', hl, decide_true, Bool.and_true, if_true, Option.getD_some]
    · have hc' : ts.contains ⟨x.quire, x.lane⟩ = false := by simpa using hc
      have hc2 : ts.contains x = false := hc'
      simp only [Option.map_some, hc', Option.getD_some, hc2, Bool.false_and]
  · simp [hl]

theorem State.hasThread_modThreads (s : State) (ts : List ThreadId) (f : ThreadId → Thread → Thread) (x : ThreadId) :
    (s.modThreads ts f).hasThread x = s.hasThread x := by
  simp [State.hasThread, State.quire_modThreads]

/-- What an update of threads leaves alone in each thread. -/
theorem State.thread_modThreads_of {α : Type} (P : Thread → α) (s : State) (ts : List ThreadId)
    (f : ThreadId → Thread → Thread) (hf : ∀ x th, P (f x th) = P th) (x : ThreadId) :
    P ((s.modThreads ts f).thread x) = P (s.thread x) := by
  rw [State.thread_modThreads]; split
  · exact hf _ _
  · rfl

/-- An update of threads leaves every quire alone apart from its threads. -/
theorem State.quires_modThreads {α : Type} (P : Quire → α) (hP : ∀ q ths, P { q with threads := ths } = P q)
    (s : State) (ts : List ThreadId) (f : ThreadId → Thread → Thread) :
    (s.modThreads ts f).quires.map P = s.quires.map P := by
  simp only [State.modThreads]
  apply List.ext_getElem?
  intro i
  simp only [List.getElem?_map, List.getElem?_mapIdx, Option.map_map]
  cases h : s.quires[i]? <;> simp [hP]

theorem State.thread_eq {s t : State} (h : t.quires = s.quires) (x : ThreadId) : t.thread x = s.thread x := by
  simp [State.thread, State.quire, h]

/-- A thread apart from where it stands and when it may go on. -/
def Thread.held (th : Thread) : Thread := { th with tNext := 0, hdr := 0, pos := 0, gov := true, stat := .ready }

theorem Thread.rest_of_held {a b : Thread} (h : a.held = b.held) : a.rest = b.rest := by
  have : a.held.rest = b.held.rest := by rw [h]
  exact this
theorem Thread.v_of_held {a b : Thread} (h : a.held = b.held) : a.v = b.v := by
  have : a.held.v = b.held.v := by rw [h]
  exact this
theorem Thread.p_of_held {a b : Thread} (h : a.held = b.held) : a.p = b.p := by
  have : a.held.p = b.held.p := by rw [h]
  exact this
theorem Thread.d_of_held {a b : Thread} (h : a.held = b.held) : a.d = b.d := by
  have : a.held.d = b.held.d := by rw [h]
  exact this

/-- A quire apart from its threads. -/
def Quire.bare (q : Quire) : Quire := { q with threads := [] }
theorem Quire.rest_of_bare (q : Quire) : q.bare.rest = q.rest := rfl

/-- What `t` keeps of `s` when only the standing of threads and the gatherings change. -/
structure State.Moved (s t : State) : Prop where
  rest   : t.rest = s.rest
  bare   : t.quires.map Quire.bare = s.quires.map Quire.bare
  cores  : t.cores.map Core.rest = s.cores.map Core.rest
  thread : ∀ x, (t.thread x).held = (s.thread x).held

theorem State.Moved.refl (s : State) : s.Moved s := ⟨rfl, rfl, rfl, fun _ => rfl⟩
theorem State.Moved.trans {s t u : State} (h : s.Moved t) (k : t.Moved u) : s.Moved u :=
  ⟨k.rest.trans h.rest, k.bare.trans h.bare, k.cores.trans h.cores, fun x => (k.thread x).trans (h.thread x)⟩

theorem State.Moved.gaths (s : State) (g : List Gath) : s.Moved { s with gaths := g } := ⟨rfl, rfl, rfl, fun _ => rfl⟩

theorem State.moved_modThreads (s : State) (ts : List ThreadId) (f : ThreadId → Thread → Thread)
    (hf : ∀ x th, (f x th).held = th.held) : s.Moved (s.modThreads ts f) :=
  ⟨rfl, s.quires_modThreads Quire.bare (fun _ _ => rfl) ts f, rfl, s.thread_modThreads_of Thread.held ts f hf⟩

theorem State.moved_endClause (s : State) (gi : Nat) : s.Moved (s.endClause gi) := by
  unfold State.endClause
  exact (s.moved_modThreads _ (fun _ th => { th with stat := .ready, hdr := _, pos := 0, gov := true }) (fun _ _ => rfl)).trans
    (State.Moved.gaths _ _)

theorem State.moved_settleGath (s : State) (gi : Nat) : s.Moved (s.settleGath gi) := by
  unfold State.settleGath
  simp only []
  split
  · exact (State.Moved.gaths s _).trans (State.moved_endClause _ _)
  · exact State.Moved.gaths s _

theorem map_modify_keeps {α β : Type} (P : α → β) (l : List α) (i : Nat) (f : α → α) (hf : ∀ a, P (f a) = P a) :
    (l.modify i f).map P = l.map P := by
  apply List.ext_getElem?
  intro j
  simp only [List.getElem?_map, List.getElem?_modify, Option.map_map]
  cases l[j]? <;> simp
  split <;> simp [hf]

/-- After the instruction, only clocks and the standing of threads have changed. -/
theorem State.moved_advance (s : State) (u : Uses) (c : Ctx) (e : Nat) : s.Moved (s.advance u c e) := by
  unfold State.advance
  simp only []
  refine State.Moved.trans ?_ (State.moved_settleGath _ _)
  refine State.Moved.trans ?_ (State.Moved.gaths _ _)
  refine State.Moved.trans ?_ (State.moved_modThreads _ _ _ (fun _ _ => rfl))
  exact ⟨rfl, rfl, map_modify_keeps Core.rest _ _ _ (fun _ => rfl), fun x => rfl⟩

end Sys2Proof.Machine
end

