-- ==== Sys2Proof/Laws/Vector.lean ====
section
/-! SUPPORT. What a fixed-latency vector or uniform instruction writes, and what it leaves alone. -/

namespace Sys2Proof.Machine

theorem foldl_keeps {α β γ : Type} (P : β → γ) (f : β → α → β) (hf : ∀ b a, P (f b a) = P b) (l : List α) (b : β) :
    P (l.foldl f b) = P b := by
  induction l generalizing b with
  | nil => rfl
  | cons a l ih => rw [List.foldl_cons, ih, hf]

theorem State.quire_modQuire (s : State) (q : Nat) (f : Quire → Quire) (r : Nat) :
    (s.modQuire q f).quire r = if r = q ∧ r < s.quires.length then f (s.quire r) else s.quire r := by
  simp only [State.quire, State.modQuire, List.getD_eq_getElem?_getD, List.getElem?_modify]
  by_cases hr : r < s.quires.length
  · by_cases h : q = r
    · simp [h, hr]
    · simp [h, hr, Ne.symm h]
  · simp [hr]

theorem State.thread_modQuire (s : State) (q : Nat) (f : Quire → Quire) (hf : ∀ x, (f x).threads = x.threads) (x : ThreadId) :
    (s.modQuire q f).thread x = s.thread x := by
  simp only [State.thread, State.quire_modQuire]
  split <;> simp [hf]

/-- `t` is `s` but for flags under way, counts of majorities, and what P does not see of threads. -/
structure State.Flagged (s t : State) : Prop where
  rest   : t.rest = s.rest
  quires : t.quires.map Quire.rest = s.quires.map Quire.rest
  cores  : t.cores.map Core.rest = s.cores.map Core.rest
  gaths  : t.gaths = s.gaths
  thread : ∀ x, t.thread x = s.thread x

theorem State.Flagged.refl (s : State) : s.Flagged s := ⟨rfl, rfl, rfl, rfl, fun _ => rfl⟩
theorem State.Flagged.trans {s t u : State} (h : s.Flagged t) (k : t.Flagged u) : s.Flagged u :=
  ⟨k.rest.trans h.rest, k.quires.trans h.quires, k.cores.trans h.cores, k.gaths.trans h.gaths, fun x => (k.thread x).trans (h.thread x)⟩

theorem Quire.addFlags_rest (now : Nat) (tm : Timing) (f : Flags) (q : Quire) : (q.addFlags now tm f).rest = q.rest := by
  unfold Quire.addFlags; split <;> rfl
theorem Quire.addFlags_threads (now : Nat) (tm : Timing) (f : Flags) (q : Quire) : (q.addFlags now tm f).threads = q.threads := by
  unfold Quire.addFlags; split <;> rfl

theorem State.flagged_modQuire (s : State) (q now : Nat) (tm : Timing) (f : Flags) : s.Flagged (s.modQuire q (Quire.addFlags now tm f)) :=
  ⟨rfl, map_modify_keeps Quire.rest _ _ _ (Quire.addFlags_rest now tm f), rfl, rfl, s.thread_modQuire q _ (Quire.addFlags_threads now tm f)⟩

theorem State.flagged_foldl {α : Type} (f : State → α → State) (hf : ∀ s a, State.Flagged s (f s a)) (l : List α) (s : State) :
    s.Flagged (l.foldl f s) := by
  induction l generalizing s with
  | nil => exact State.Flagged.refl s
  | cons a l ih => exact (hf s a).trans (ih _)

theorem State.flagged_noteMajority (s : State) (c : Ctx) (lat : Nat) : s.Flagged (s.noteMajority c lat) := by
  unfold State.noteMajority
  refine (State.flagged_foldl (fun s q => s.modQuire q (Quire.addFlags c.now (c.timing lat) fCHK))
    (fun s q => s.flagged_modQuire q _ _ _) (quiresOf c.takers) s).trans ?_
  exact ⟨rfl, rfl, map_modify_keeps Core.rest _ _ _ (fun _ => rfl), rfl, fun _ => rfl⟩

theorem Thread.writeV_rest (now : Nat) (tm : Timing) (n : Nat) (w : Word) (th : Thread) :
    (th.writeV now tm n w).rest = th.rest := by
  unfold Thread.writeV; split <;> rfl
theorem Thread.writeP_rest (now : Nat) (tm : Timing) (n : Nat) (b : Bool) (th : Thread) :
    (th.writeP now tm n b).rest = th.rest := by
  unfold Thread.writeP; split <;> rfl
theorem Thread.apply_rest (c : Ctx) (lat : Nat) (o : VOut) (th : Thread) :
    (th.apply c lat o).rest = th.rest := by
  unfold Thread.apply
  simp only []
  rw [foldl_keeps Thread.rest _ (fun _ _ => Thread.writeP_rest ..), foldl_keeps Thread.rest _ (fun _ _ => Thread.writeV_rest ..)]

theorem Thread.apply_len (c : Ctx) (lat : Nat) (o : VOut) (th : Thread) :
    (th.apply c lat o).v.length = th.v.length := by
  unfold Thread.apply
  simp only []
  rw [foldl_keeps (fun th : Thread => th.v.length) _ (fun _ _ => by unfold Thread.writeP; split <;> rfl),
    foldl_keeps (fun th : Thread => th.v.length) _ (fun _ _ => by unfold Thread.writeV; split <;> simp)]

/-- A vector instruction changes v and p registers of its threads, and flags. -/
theorem vecWrite_eq (lat : Nat) (f : Ctx → State → ThreadId → VOut) (c : Ctx) (s : State) (hu : c.upset ≠ some false) :
    (s.modThreads c.takers (fun t th => th.apply c lat (f c s t))).Flagged (vecWrite lat f c s) := by
  unfold vecWrite
  split
  · rename_i h; exact absurd h hu
  · simp only []
    split
    · exact (State.flagged_foldl _ (fun s t => s.flagged_modQuire _ _ _ _) _ _).trans (State.flagged_noteMajority _ _ _)
    · exact State.flagged_foldl _ (fun s t => s.flagged_modQuire _ _ _ _) _ _

/-- No result is under way to v register `n`. -/
def Thread.clearV (now : Nat) (n : Nat) (th : Thread) : Prop := th.pend.any (fun p => p.reg == RegId.v n && decide (now < p.at_)) = false

theorem pendKeep_mem {now : Nat} {ps : List Pend} {p : Pend} (h : p ∈ pendKeep now ps) : p ∈ ps := by
  induction ps with
  | nil => exact h
  | cons a as ih =>
    rw [pendKeep] at h
    split at h
    · rcases List.mem_cons.mp h with rfl | h
      · exact List.mem_cons_self
      · exact List.mem_cons_of_mem _ (ih h)
    · exact List.mem_cons_of_mem _ (ih h)

theorem pendAdd_clear {now : Nat} {pend : List Pend} {tm : Timing} {r r' : RegId} {cur w : Word} (hr : r' ≠ r)
    (h : pend.any (fun p => p.reg == r' && decide (now < p.at_)) = false) :
    (pendAdd now pend tm r cur w).any (fun p => p.reg == r' && decide (now < p.at_)) = false := by
  simp only [pendAdd, List.any_cons, Bool.or_eq_false_iff, Bool.and_eq_false_iff]
  refine ⟨.inl (by simpa using Ne.symm hr), ?_⟩
  rw [List.any_eq_false] at h ⊢
  intro x hx
  exact h x (pendKeep_mem hx)

theorem Thread.clearV_writeV {now : Nat} {tm : Timing} {n m : Nat} {w : Word} {th : Thread}
    (hm : m ≠ n) (h : th.clearV now m) : (th.writeV now tm n w).clearV now m := by
  unfold Thread.writeV
  split
  · exact h
  · exact pendAdd_clear (by simpa using hm) h

theorem Thread.writeV_other {now : Nat} {tm : Timing} {n m : Nat} {w : Word} {th : Thread} (hm : m ≠ n) :
    (th.writeV now tm n w).v[m]? = th.v[m]? := by
  unfold Thread.writeV
  split
  · rfl
  · simp [List.getElem?_set, Ne.symm hm]

theorem Thread.writeV_same {now : Nat} {tm : Timing} {n : Nat} {w : Word} {th : Thread} (hn : n < th.v.length)
    (h : th.clearV now n) : (th.writeV now tm n w).v[n]? = some w := by
  unfold Thread.writeV
  split
  · rename_i hv; simp [hn] at hv
  · simp [List.getElem?_set, hn]

theorem Thread.writeV_len {now : Nat} {tm : Timing} {n : Nat} {w : Word} {th : Thread} :
    (th.writeV now tm n w).v.length = th.v.length := by
  unfold Thread.writeV; split <;> simp

/-- A list of writes of different registers, none with a result under way: each register takes its value. -/
theorem Thread.writes_get {now : Nat} {tm : Timing} (ws : List (Nat × Word)) (th : Thread)
    (hd : (ws.map (·.1)).Nodup) (hc : ∀ n ∈ ws.map (·.1), n < th.v.length ∧ th.clearV now n) (m : Nat) :
    (ws.foldl (fun th w => th.writeV now tm w.1 w.2) th).v[m]? =
      match ws.find? (fun w => w.1 == m) with | some w => some w.2 | none => th.v[m]? := by
  induction ws generalizing th with
  | nil => rfl
  | cons a ws ih =>
    rw [List.foldl_cons, ih]
    · simp only [List.find?_cons]
      by_cases ha : a.1 = m
      · subst ha
        have hnd : a.1 ∉ ws.map (·.1) := (List.nodup_cons.mp hd).1
        have : ws.find? (fun w => w.1 == a.1) = none := by
          rw [List.find?_eq_none]
          intro x hx hxa
          exact hnd (List.mem_map.mpr ⟨x, hx, by simpa using hxa⟩)
        simp only [this, beq_self_eq_true]
        have := hc a.1 (by simp)
        exact Thread.writeV_same this.1 this.2
      · simp only [beq_eq_false_iff_ne.mpr ha]
        cases ws.find? (fun w => w.1 == m) with
        | some w => rfl
        | none => exact Thread.writeV_other (Ne.symm ha)
    · exact (List.nodup_cons.mp hd).2
    · intro n hn
      have hne : n ≠ a.1 := fun e => by
        subst e; exact (List.nodup_cons.mp hd).1 hn
      have := hc n (List.mem_cons_of_mem _ hn)
      exact ⟨by rw [Thread.writeV_len]; exact this.1, Thread.clearV_writeV hne this.2⟩

/-- Writes touch no register they do not name. -/
theorem Thread.writes_other {now : Nat} {tm : Timing} (ws : List (Nat × Word)) (th : Thread) (m : Nat)
    (hm : m ∉ ws.map (·.1)) : (ws.foldl (fun th w => th.writeV now tm w.1 w.2) th).v[m]? = th.v[m]? := by
  induction ws generalizing th with
  | nil => rfl
  | cons a ws ih =>
    simp only [List.map_cons, List.mem_cons, not_or] at hm
    rw [List.foldl_cons, ih _ hm.2, Thread.writeV_other hm.1]

theorem Thread.preds_v {now : Nat} {tm : Timing} (ps : List (Nat × Bool)) (th : Thread) :
    (ps.foldl (fun th w => th.writeP now tm w.1 w.2) th).v = th.v :=
  foldl_keeps Thread.v _ (fun _ _ => by unfold Thread.writeP; split <;> rfl) ps th

theorem Thread.hasV_mem {th : Thread} {now : Nat} {ns : List Nat} (h : th.hasV now ns = true) {n : Nat} (hn : n ∈ ns) :
    n < th.v.length ∧ th.clearV now n ∧ th.busy.any (fun b => b.reg == RegId.v n) = false := by
  have := List.all_eq_true.mp h n hn
  simp only [settledAt, notReady, Bool.and_eq_true, decide_eq_true_eq, Bool.not_eq_true', Bool.or_eq_false_iff] at this
  exact ⟨this.1, this.2.1, this.2.2⟩

/-- A register to which no result is under way shows no older value. -/
theorem oldValues_clear {now : Nat} {r : RegId} {pend : List Pend}
    (h : pend.any (fun p => p.reg == r && decide (now < p.at_)) = false) : oldValues now r pend = [] := by
  induction pend with
  | nil => rfl
  | cons p ps ih =>
    simp only [List.any_cons, Bool.or_eq_false_iff, Bool.and_eq_false_iff, beq_eq_false_iff_ne, decide_eq_false_iff_not] at h
    unfold oldValues
    rcases h.1 with hp | hp
    · rw [if_pos hp]; exact ih h.2
    · split
      · exact ih h.2
      · rfl

/-- A register that no operation is to write shows no value to come. -/
theorem State.coming_clear {s : State} {busy : List Busy} {r : RegId} {mine : ThreadId → Bool}
    (h : busy.any (fun b => b.reg == r) = false) : s.coming busy r mine = [] := by
  unfold State.coming
  rw [List.filter_eq_nil_iff.mpr (by simpa using h)]
  rfl

/-- R16, R41: a register that exists and has no result under way reads as its content. -/
theorem State.readV_of {s : State} {now : Nat} {t : ThreadId} {ns : List Nat} (h : (s.thread t).hasV now ns = true) {n : Nat}
    (hn : n ∈ ns) : s.readV now t n = (s.thread t).vreg n := by
  obtain ⟨hl, hc, hb⟩ := Thread.hasV_mem h hn
  simp only [State.readV, List.getElem?_eq_getElem hl, State.others, State.coming_clear hb, oldValues_clear hc, List.nil_append,
    settle, Thread.vreg, List.getD_eq_getElem?_getD, Option.getD_some]

/-- A taking thread exists. -/
theorem State.hasThread_of_taker {s : State} {i : Instr} {c : Ctx} (h : s.ctxOf i = some c) {x : ThreadId} (hx : x ∈ c.takers) :
    s.hasThread x = true := by
  have hg : (s.thread x).stat = .gathered := by
    unfold State.ctxOf at h
    split at h
    · simp at h
    · simp only [] at h
      split at h
      · simp at h
      · rename_i ht
        split at h
        · injection h with h
          subst h
          simp only [] at hx
          rw [State.takersOf, List.mem_filter] at hx
          simp only [Bool.and_eq_true, beq_iff_eq] at hx
          exact hx.2.2
        · simp at h
  cases hn : s.hasThread x with
  | true => rfl
  | false =>
  simp only [State.hasThread, decide_eq_false_iff_not] at hn
  have : s.thread x = Thread.absent := by
    simp only [State.thread, List.getD_eq_getElem?_getD]
    simp [hn]
  rw [this] at hg
  exact absurd hg (by decide)

/-- What a vector instruction does: taking threads apply its outcome, and nothing else changes but clocks and flags. -/
theorem vec_spec {s : State} {i : Instr} {c : Ctx} {alu : Bool} (h : s.ctxOf i = some c) (ha : alu = i.checked)
    (hu : c.upset ≠ some false) (lat : Nat) (f : Ctx → State → ThreadId → VOut) (e : Nat) :
    ∃ t, issueWith i alu e (fun c s => .done (vecWrite lat f c s)) s = .next t ∧ s.sameRest t ∧
      (∀ x ∈ c.takers, (t.thread x).held = ((s.thread x).apply c lat (f c s x)).held) ∧
      ∀ x, x ∉ c.takers → (t.thread x).held = (s.thread x).held := by
  refine ⟨_, issueWith_of_ctx h ha e _, ?_⟩
  simp only [Res.after_done]
  have hf := vecWrite_eq lat f c s hu
  have hm := State.moved_advance (vecWrite lat f c s) (s.usesOf c.q i) c e
  have hq := s.quires_modThreads Quire.rest (fun _ _ => rfl) c.takers (fun t th => th.apply c lat (f c s t))
  have hth : ∀ x, (((vecWrite lat f c s).advance (s.usesOf c.q i) c e).thread x).held =
      ((s.modThreads c.takers (fun t th => th.apply c lat (f c s t))).thread x).held := fun x =>
    (hm.thread x).trans (congrArg Thread.held (hf.thread x))
  refine ⟨⟨hm.rest.trans hf.rest, ?_, hm.cores.trans hf.cores, fun x => ?_⟩, fun x hx => ?_, fun x hx => ?_⟩
  · have := congrArg (List.map Quire.rest) hm.bare
    simp only [List.map_map] at this
    exact this.trans (hf.quires.trans hq)
  · rw [Thread.rest_of_held (hth x)]
    exact s.thread_modThreads_of Thread.rest _ _ (fun _ _ => Thread.apply_rest ..) x
  · rw [hth, State.thread_modThreads, State.hasThread_of_taker h hx]
    simp [hx]
  · rw [hth, State.thread_modThreads]
    simp [hx]

theorem Thread.apply_v (c : Ctx) (lat : Nat) (o : VOut) (th : Thread) :
    (th.apply c lat o).v = (o.writes.foldl (fun th w => th.writeV c.now (c.timing lat) w.1 w.2) th).v :=
  Thread.preds_v _ _

/-- `VecGives` for an instruction whose outcome writes one register. -/
theorem vecGives_of {i : Instr} {ns : List Nat} {d lat e : Nat} {f : Thread → Word} {F : Ctx → State → ThreadId → VOut} {alu : Bool}
    (hx : ∀ s, exec i s = issueWith i alu e (fun c s => .done (vecWrite lat F c s)) s) (ha : alu = i.checked)
    (hF : ∀ s c x, (s.thread x).hasV c.now (d :: ns) = true → (F c s x).writes = [(d, f (s.thread x))]) :
    VecGives i ns d f := by
  intro s c h hu
  obtain ⟨t, ht, -, hin, -⟩ := vec_spec h ha hu lat F e
  refine ⟨t, (hx s).trans ht, fun x hx' hv => ?_⟩
  obtain ⟨hl, hc, -⟩ := Thread.hasV_mem hv (n := d) (by simp)
  rw [Thread.v_of_held (hin x hx'), Thread.apply_v, hF s c x hv, List.foldl_cons, List.foldl_nil]
  exact Thread.writeV_same hl hc

/-- `PairGives` for an instruction whose outcome writes a pair. -/
theorem pairGives_of {i : Instr} {ns : List Nat} {d lat e : Nat} {f : Thread → DWord} {F : Ctx → State → ThreadId → VOut} {alu : Bool}
    (hx : ∀ s, exec i s = issueWith i alu e (fun c s => .done (vecWrite lat F c s)) s) (ha : alu = i.checked)
    (hF : ∀ s c x, (s.thread x).hasV c.now (d :: (d + 1) :: ns) = true → (F c s x).writes = pairWrites d (f (s.thread x))) :
    PairGives i ns d f := by
  intro s c h hu
  obtain ⟨t, ht, -, hin, -⟩ := vec_spec h ha hu lat F e
  refine ⟨t, (hx s).trans ht, fun x hx' hv => ?_⟩
  obtain ⟨hl, hc, -⟩ := Thread.hasV_mem hv (n := d) (by simp)
  obtain ⟨hl', hc', -⟩ := Thread.hasV_mem hv (n := d + 1) (by simp)
  rw [Thread.v_of_held (hin x hx'), Thread.apply_v, hF s c x hv, pairWrites]
  simp only [List.foldl_cons, List.foldl_nil]
  exact ⟨by rw [Thread.writeV_other (by omega)]; exact Thread.writeV_same hl hc,
    Thread.writeV_same (by rw [Thread.writeV_len]; exact hl') (Thread.clearV_writeV (by omega) hc')⟩

theorem Thread.writeV_p {now : Nat} {tm : Timing} (ws : List (Nat × Word)) (th : Thread) :
    (ws.foldl (fun th w => th.writeV now tm w.1 w.2) th).p = th.p :=
  foldl_keeps Thread.p _ (fun _ _ => by unfold Thread.writeV; split <;> rfl) ws th

theorem Thread.writeV_pendP {now : Nat} {tm : Timing} (n : Nat) (ws : List (Nat × Word)) (th : Thread)
    (h : th.pend.any (fun p => p.reg == RegId.p n && decide (now < p.at_)) = false) :
    (ws.foldl (fun th w => th.writeV now tm w.1 w.2) th).pend.any (fun p => p.reg == RegId.p n && decide (now < p.at_)) = false := by
  induction ws generalizing th with
  | nil => exact h
  | cons a ws ih =>
    rw [List.foldl_cons]
    apply ih
    unfold Thread.writeV
    split
    · exact h
    · exact pendAdd_clear (by simp) h

theorem setBit_get (p : BitVec 7) (n : Nat) (b : Bool) (hn : n < 7) : (setBit p n b).getLsbD n = b := by
  unfold setBit
  cases b <;> simp [BitVec.getLsbD_twoPow, hn]
theorem setBit_other (p : BitVec 7) (n m : Nat) (b : Bool) (hm : m ≠ n) : (setBit p n b).getLsbD m = p.getLsbD m := by
  unfold setBit
  cases b
  · simp only [Bool.false_eq_true, if_false, BitVec.getLsbD_and, BitVec.getLsbD_not, BitVec.getLsbD_twoPow]
    by_cases h : m < 7
    · simp [h, Ne.symm hm]
    · simp [BitVec.getLsbD_of_ge _ _ (Nat.le_of_not_lt h)]
  · simp [BitVec.getLsbD_twoPow, Ne.symm hm]

theorem bitWord_get (b : Bool) : (bitWord b).getLsbD 0 = b := by cases b <;> decide

/-- `PredGives` for an instruction whose outcome writes one predicate. -/
theorem predGives_of {i : Instr} {ns : List Nat} {p lat e : Nat} {f : Thread → Bool} {F : Ctx → State → ThreadId → VOut} {alu : Bool}
    (hx : ∀ s, exec i s = issueWith i alu e (fun c s => .done (vecWrite lat F c s)) s) (ha : alu = i.checked) (hp : p < 8)
    (hF : ∀ s c x, (s.thread x).hasV c.now ns = true → (s.thread x).hasP c.now [p] = true → (F c s x).preds = [(p, f (s.thread x))]) :
    PredGives i ns p f := by
  intro s c h hu
  obtain ⟨t, ht, -, hin, -⟩ := vec_spec h ha hu lat F e
  refine ⟨t, (hx s).trans ht, fun x hx' hv hpp => ?_⟩
  rw [Thread.preg, Thread.p_of_held (hin x hx'), Thread.apply, hF s c x hv hpp]
  simp only [List.foldl_cons, List.foldl_nil]
  by_cases h7 : p = 7
  · simp [h7]
  · have hlt : ¬ 7 ≤ p := by omega
    simp only [Thread.writeP, hlt, if_false, h7, beq_iff_eq]
    rw [setBit_get _ _ _ (by omega)]
    have hs : settledAt c.now (s.thread x).pend (s.thread x).busy (.p p) = true := by
      have := List.all_eq_true.mp hpp p (by simp)
      simpa [hlt] using this
    simp only [settledAt, notReady, Bool.not_eq_true', Bool.or_eq_false_iff] at hs
    have := Thread.writeV_pendP (tm := c.timing lat) p (F c s x).writes (s.thread x) hs.1
    simp [h7]

/-- The flags that a list of changes sets. -/
def orSets (l : List FlagEv) : Word := l.foldr (fun e m => e.set.setWidth 32 ||| m) 0

theorem foldl_sets (l : List FlagEv) (h : ∀ e ∈ l, e.clr = 0) (w : Word) : l.foldl FlagEv.apply w = w ||| orSets l := by
  induction l generalizing w with
  | nil => simp [orSets]
  | cons e l ih =>
    rw [List.foldl_cons, ih (fun x hx => h x (List.mem_cons_of_mem _ hx))]
    have hc : w &&& (4294967295#32 : Word) = w := BitVec.and_allOnes
    simp [FlagEv.apply, setFlags, clearFlags, h e (by simp), orSets, BitVec.or_assoc, hc]

theorem orSets_insert (le : FlagEv → FlagEv → Bool) (e : FlagEv) (l : List FlagEv) :
    orSets (insertBy le e l) = e.set.setWidth 32 ||| orSets l := by
  induction l with
  | nil => rfl
  | cons a l ih =>
    unfold insertBy
    split
    · rfl
    · simp only [orSets, List.foldr_cons] at ih ⊢
      rw [ih, ← BitVec.or_assoc, ← BitVec.or_assoc, BitVec.or_comm (e.set.setWidth 32)]

theorem orSets_split (p : FlagEv → Bool) (l : List FlagEv) : orSets (l.filter p) ||| orSets (l.filter (fun e => !p e)) = orSets l := by
  induction l with
  | nil => simp [orSets]
  | cons a l ih =>
    cases h : p a
    · simp only [List.filter_cons, h, Bool.false_eq_true, if_false, Bool.not_false, if_true, orSets, List.foldr_cons] at ih ⊢
      rw [← ih, ← BitVec.or_assoc, ← BitVec.or_assoc, BitVec.or_comm (a.set.setWidth 32)]
    · simp only [List.filter_cons, h, if_true, Bool.not_true, Bool.false_eq_true, if_false, orSets, List.foldr_cons] at ih ⊢
      rw [← ih, BitVec.or_assoc]

theorem mem_insertBy {α : Type} (le : α → α → Bool) (a x : α) (l : List α) (h : x ∈ insertBy le a l) : x = a ∨ x ∈ l := by
  induction l with
  | nil => exact .inl (by simpa [insertBy] using h)
  | cons y l ih =>
    unfold insertBy at h
    split at h
    · simpa using h
    · rcases List.mem_cons.mp h with rfl | h
      · exact .inr (by simp)
      · exact (ih h).imp id (List.mem_cons_of_mem _)

/-- What setting flags leaves of `%flags`, and that it lists no clear. -/
theorem Quire.addFlags_spec (now : Nat) (tm : Timing) (f : Flags) (q : Quire) (h : q.noClear) :
    (q.addFlags now tm f).flagsAll = setFlags q.flagsAll f ∧ (q.addFlags now tm f).noClear := by
  unfold Quire.addFlags
  split
  · rename_i hf; subst hf; exact ⟨by simp [setFlags], h⟩
  · have hn : (Quire.addFlagEv now { at_ := tm.at_, hold := tm.hold, set := f, clr := 0 } q).noClear := by
      intro e he
      rcases mem_insertBy _ _ _ _ he with rfl | he
      · rfl
      · exact h e (List.mem_filter.mp he).1
    refine ⟨?_, hn⟩
    rw [Quire.flagsAll, foldl_sets _ hn, Quire.flagsAll, foldl_sets _ h]
    simp only [Quire.addFlagEv, Quire.foldFlags, Quire.flagsAt, orSets_insert,
      foldl_sets _ (fun e he => h e (List.mem_filter.mp he).1), setFlags]
    rw [← orSets_split (fun e => decide (e.hold ≤ now)) q.fset]
    simp only [← decide_not, Nat.not_le]
    ac_rfl

theorem State.quire_of_bare {s t : State} (h : t.quires.map Quire.bare = s.quires.map Quire.bare) (q : Nat) :
    (t.quire q).bare = (s.quire q).bare := by
  have hq := congrArg (fun l => l[q]?) h
  simp only [List.getElem?_map] at hq
  simp only [State.quire, List.getD_eq_getElem?_getD]
  cases h1 : t.quires[q]? <;> cases h2 : s.quires[q]? <;> simp_all

theorem Quire.flagsAll_of_bare {a b : Quire} (h : a.bare = b.bare) : a.flagsAll = b.flagsAll := by
  have : a.bare.flagsAll = b.bare.flagsAll := by rw [h]
  exact this

theorem setFlags_idem (w : Word) (f : Flags) : setFlags (setFlags w f) f = setFlags w f := by
  simp [setFlags, BitVec.or_assoc]

/-- Flags set one thread after another. -/
theorem State.flags_foldl (now : Nat) (tm : Timing) (f : Flags) (g : ThreadId → Flags) (w : ThreadId → Bool) (l : List ThreadId)
    (hg : ∀ x ∈ l, g x = if w x then f else 0) (s : State) (q : Nat) (hq : q < s.quires.length) (hn : (s.quire q).noClear) :
    ((l.foldl (fun s' t => s'.modQuire t.quire (Quire.addFlags now tm (g t))) s).quire q).flagsAll =
      if l.any (fun x => x.quire == q && w x) then setFlags (s.quire q).flagsAll f else (s.quire q).flagsAll := by
  induction l generalizing s with
  | nil => rfl
  | cons x l ih =>
    have hs := Quire.addFlags_spec now tm (g x) (s.quire q) hn
    rw [List.foldl_cons, ih (fun y hy => hg y (List.mem_cons_of_mem _ hy)) _ (by simpa using hq)
      (by rw [State.quire_modQuire]; split <;> first | exact hs.2 | exact hn), State.quire_modQuire]
    have hx := hg x (by simp)
    by_cases hxq : x.quire = q
    · subst hxq
      rw [if_pos (show x.quire = x.quire ∧ x.quire < s.quires.length from ⟨rfl, hq⟩), hs.1, hx]
      simp only [List.any_cons, beq_self_eq_true, Bool.true_and]
      cases hw : w x
      · simp [setFlags]
      · simp [setFlags_idem]
    · have h1 : ¬ (q = x.quire ∧ q < s.quires.length) := fun h => hxq h.1.symm
      rw [if_neg h1]
      simp [hxq]

/-- `FlagGives` for an instruction whose outcome sets a flag when a thread meets a condition. -/
theorem flagGives_of {i : Instr} {ns : List Nat} {lat e : Nat} {f : Flags} {w : Thread → Bool} {F : Ctx → State → ThreadId → VOut}
    {alu : Bool} (hx : ∀ s, exec i s = issueWith i alu e (fun c s => .done (vecWrite lat F c s)) s) (ha : alu = i.checked)
    (hF : ∀ s c x, (s.thread x).hasV c.now ns = true → (F c s x).flags = if w (s.thread x) then f else 0) :
    FlagGives i ns f w := by
  intro s c h hu
  refine ⟨_, (hx s).trans (issueWith_of_ctx h ha e _), fun hv q hq hn => ?_⟩
  simp only [Res.after_done]
  rw [Quire.flagsAll_of_bare (State.quire_of_bare (State.moved_advance _ _ c e).bare q), vecWrite, hu]
  simp only [Option.isSome_none, Bool.false_eq_true, if_false]
  rw [State.flags_foldl c.now (c.timing lat) f (fun t => (F c s t).flags) (fun x => w (s.thread x)) c.takers
    (fun x hx => hF s c x (hv x hx)) _ q (by simpa [State.modThreads] using hq) (by rw [State.quire_modThreads]; exact hn)]
  simp [State.quire_modThreads, Quire.flagsAll]

end Sys2Proof.Machine
end

