-- ==== Sys2Proof/Laws/Integer.lean ====
section
/-! SUPPORT. What the operand forms of the integer and float instructions give, over an operation of operand values. -/

namespace Sys2Proof.Machine

/-- The value of a source operand as the thread's registers hold it. -/
def Src.value (th : Thread) : Src → DWord
  | .one n => (th.vreg n).setWidth 64
  | .two n => th.vpair n
  | .imm w => w.setWidth 64
  | .none => 0

/-- The registers of a source operand. -/
def Src.regs : Src → List Nat
  | .one n => [n] | .two n => [n, n + 1] | .imm _ => [] | .none => []

theorem State.src_value {s : State} {now : Nat} {t : ThreadId} {ns : List Nat} (h : (s.thread t).hasV now ns = true) {x : Src}
    (hx : ∀ n ∈ x.regs, n ∈ ns) : s.src now t x = x.value (s.thread t) := by
  cases x with
  | one n => simp [State.src, Src.value, State.readV_of h (hx n (by simp [Src.regs]))]
  | two n =>
    simp [State.src, Src.value, Thread.vpair, State.readV_of h (hx n (by simp [Src.regs])),
      State.readV_of h (hx (n + 1) (by simp [Src.regs]))]
  | imm w => rfl
  | none => rfl

/-- What an operation reads of a thread's registers. -/
def inputOf (a b d : Src) (rd cin : Bool) (th : Thread) : IntIn :=
  { a := a.value th, b := b.value th, d := if rd then d.value th else 0, cin := cin }

variable {i : Instr} {lat : Nat} {op : IntIn → IntOut} {d : Nat} {a b : Src} {rd : Bool} {cout : Option Nat} {ns : List Nat}

theorem vecInt_gives {f : Thread → Word} (hx : ∀ s, exec i s = vecInt i lat op (.one d) a b rd none cout s)
    (hc : true = i.checked) (ha : ∀ n ∈ a.regs, n ∈ ns) (hb : ∀ n ∈ b.regs, n ∈ ns)
    (hop : ∀ th, (op (inputOf a b (.one d) rd false th)).val.setWidth 32 = f th) : VecGives i ns d f := by
  refine vecGives_of (lat := lat) (e := 0) hx hc (fun s c x hv => ?_)
  have := hop (s.thread x)
  simp only [inputOf] at this
  simp only [State.src_value hv (fun n hn => List.mem_cons_of_mem d (ha n hn)),
    State.src_value hv (fun n hn => List.mem_cons_of_mem d (hb n hn)), Dst.writes, Dst.src]
  rw [show s.src c.now x (.one d) = (Src.one d).value (s.thread x) from State.src_value hv (by simp [Src.regs])]
  rw [this]

theorem vecInt_pairGives {f : Thread → DWord} (hx : ∀ s, exec i s = vecInt i lat op (.two d) a b rd none cout s)
    (hc : true = i.checked) (ha : ∀ n ∈ a.regs, n ∈ ns) (hb : ∀ n ∈ b.regs, n ∈ ns)
    (hop : ∀ th, (op (inputOf a b (.two d) rd false th)).val = f th) : PairGives i ns d f := by
  refine pairGives_of (lat := lat) (e := 0) hx hc (fun s c x hv => ?_)
  have := hop (s.thread x)
  simp only [inputOf] at this
  simp only [State.src_value hv (fun n hn => List.mem_cons_of_mem d (List.mem_cons_of_mem (d + 1) (ha n hn))),
    State.src_value hv (fun n hn => List.mem_cons_of_mem d (List.mem_cons_of_mem (d + 1) (hb n hn))), Dst.writes, Dst.src]
  rw [show s.src c.now x (.two d) = (Src.two d).value (s.thread x) from State.src_value hv (by simp [Src.regs])]
  rw [this]

theorem vecInt_predGives {f : Thread → Bool} (hx : ∀ s, exec i s = vecInt i lat op (.pred d) a b false none none s)
    (hc : true = i.checked) (hd : d < 8) (ha : ∀ n ∈ a.regs, n ∈ ns) (hb : ∀ n ∈ b.regs, n ∈ ns)
    (hop : ∀ th, (op (inputOf a b .none false false th)).pred = some (f th)) : PredGives i ns d f := by
  refine predGives_of (lat := lat) (e := 0) hx hc hd (fun s c x hv _ => ?_)
  have := hop (s.thread x)
  simp only [inputOf] at this
  simp only [State.src_value hv ha, State.src_value hv hb, Dst.preds, Bool.false_eq_true, if_false] at this ⊢
  rw [this]

theorem vecInt_flagGives {f : Flags} {w : Thread → Bool} {dst : Dst} {rd : Bool}
    (hx : ∀ s, exec i s = vecInt i lat op dst a b rd none cout s)
    (hc : true = i.checked) (ha : ∀ n ∈ a.regs, n ∈ ns) (hb : ∀ n ∈ b.regs, n ∈ ns)
    (hop : ∀ th v, (op { a := a.value th, b := b.value th, d := v, cin := false }).flags = if w th then f else 0) :
    FlagGives i ns f w := by
  refine flagGives_of (lat := lat) (e := 0) hx hc (fun s c x hv => ?_)
  simp only [State.src_value hv ha, State.src_value hv hb]
  exact hop _ _

/-- No flag where the operation sets none. -/
theorem vecInt_noFlags {dst : Dst} (hx : ∀ s, exec i s = vecInt i lat op dst a b rd none cout s) (hc : true = i.checked)
    (hop : ∀ x, (op x).flags = 0) : FlagGives i [] 0 (fun _ => false) :=
  flagGives_of (lat := lat) (e := 0) hx hc (fun _ _ _ _ => by simpa using hop _)

end Sys2Proof.Machine
end

