-- ==== Sys2Proof/Laws/Memory.lean ====
section
/-! SUPPORT. Lists of cells: their canonical form, which every operation on memory keeps, and what a byte reads as after one. -/

namespace Sys2Proof.Machine

/-! ### The canonical form -/

theorem cellWf_cons (a : Nat) (x : Byte) (m : List Host.Cell) :
    cellWf ((a, x) :: m) = (x != 0 && m.head?.all (fun c => decide (a < c.1)) && cellWf m) := by
  cases m with
  | nil => simp [cellWf]
  | cons c m => obtain ⟨b, y⟩ := c; simp [cellWf]

theorem cellWf_tail {c : Host.Cell} {m : List Host.Cell} (h : cellWf (c :: m) = true) : cellWf m = true := by
  obtain ⟨a, x⟩ := c
  simp only [cellWf_cons, Bool.and_eq_true] at h
  exact h.2

/-- In canonical form every later address is higher. -/
theorem cellWf_lt {c d : Host.Cell} {m : List Host.Cell} (h : cellWf (c :: m) = true) (hd : d ∈ m) : c.1 < d.1 := by
  induction m generalizing c with
  | nil => cases hd
  | cons e m ih =>
    obtain ⟨a, x⟩ := c
    have h' := h
    simp only [cellWf_cons, List.head?_cons, Option.all_some, Bool.and_eq_true, decide_eq_true_eq] at h'
    rcases List.mem_cons.mp hd with rfl | hm
    · exact h'.1.2
    · exact Nat.lt_trans h'.1.2 (ih (cellWf_tail h) hm)

theorem cellWf_ne {c : Host.Cell} {m : List Host.Cell} (h : cellWf m = true) (hc : c ∈ m) : c.2 ≠ 0 := by
  induction m with
  | nil => cases hc
  | cons e m ih =>
    rcases List.mem_cons.mp hc with rfl | hm
    · obtain ⟨a, x⟩ := c
      simp only [cellWf_cons, Bool.and_eq_true, bne_iff_ne] at h
      exact h.1.1
    · exact ih (cellWf_tail h) hm

/-- The canonical form by its parts. -/
theorem cellWf_of {a : Nat} {x : Byte} {m : List Host.Cell} (hx : x ≠ 0) (hm : cellWf m = true) (hlt : ∀ c ∈ m, a < c.1) :
    cellWf ((a, x) :: m) = true := by
  simp only [cellWf_cons, Bool.and_eq_true, bne_iff_ne]
  refine ⟨⟨hx, ?_⟩, hm⟩
  cases m with
  | nil => rfl
  | cons c m => simpa using hlt c (by simp)

theorem cellWf_filter (p : Host.Cell → Bool) {m : List Host.Cell} (h : cellWf m = true) : cellWf (m.filter p) = true := by
  induction m with
  | nil => rfl
  | cons c m ih =>
    have ht := ih (cellWf_tail h)
    rw [List.filter_cons]
    split
    · obtain ⟨a, x⟩ := c
      exact cellWf_of (cellWf_ne (c := (a, x)) h (by simp)) ht (fun d hd => cellWf_lt h (List.mem_filter.mp hd).1)
    · exact ht

theorem mem_cellSet {m : List Host.Cell} {a : Nat} {v : Byte} {c : Host.Cell} (h : c ∈ cellSet m a v) : c = (a, v) ∨ c ∈ m := by
  induction m with
  | nil => simp only [cellSet] at h; split at h <;> simp_all
  | cons d m ih =>
    obtain ⟨b, x⟩ := d
    simp only [cellSet] at h
    split at h
    · rcases List.mem_cons.mp h with rfl | h
      · simp
      · rcases ih h with rfl | h <;> simp_all
    · split at h
      · split at h
        · exact .inr (List.mem_cons_of_mem _ h)
        · rcases List.mem_cons.mp h with rfl | h
          · simp
          · exact .inr (List.mem_cons_of_mem _ h)
      · split at h
        · exact .inr h
        · rcases List.mem_cons.mp h with rfl | h
          · simp
          · exact .inr h

/-- A store keeps the canonical form. -/
theorem cellWf_cellSet {m : List Host.Cell} (h : cellWf m = true) (a : Nat) (v : Byte) : cellWf (cellSet m a v) = true := by
  induction m with
  | nil => simp only [cellSet]; split <;> simp_all [cellWf]
  | cons d m ih =>
    obtain ⟨b, x⟩ := d
    have hx := cellWf_ne h (by simp : (b, x) ∈ (b, x) :: m)
    simp only [cellSet]
    split
    · refine cellWf_of hx (ih (cellWf_tail h)) (fun c hc => ?_)
      rcases mem_cellSet hc with rfl | hc
      · assumption
      · exact cellWf_lt h hc
    · split
      · split
        · exact cellWf_tail h
        · subst b; exact cellWf_of ‹_› (cellWf_tail h) (fun c hc => cellWf_lt (c := (a, x)) h hc)
      · split
        · exact h
        · refine cellWf_of ‹_› h (fun c hc => ?_)
          have : a < b := by omega
          rcases List.mem_cons.mp hc with rfl | hc
          · exact this
          · exact Nat.lt_trans this (cellWf_lt h hc)

theorem cellWf_cellSetList {m : List Host.Cell} (h : cellWf m = true) (a : Nat) (bs : List Byte) :
    cellWf (cellSetList m a bs) = true := by
  induction bs generalizing m a with
  | nil => exact h
  | cons b bs ih => exact ih (cellWf_cellSet h a b) (a + 1)

theorem cellWf_cellClear {m : List Host.Cell} (h : cellWf m = true) (lo hi : Nat) : cellWf (cellClear m lo hi) = true :=
  cellWf_filter _ h

/-- Any run of stores keeps the canonical form. -/
theorem cellWf_foldl {α : Type} (f : α → Nat × Byte) (l : List α) {m : List Host.Cell} (h : cellWf m = true) :
    cellWf (l.foldl (fun m i => cellSet m (f i).1 (f i).2) m) = true := by
  induction l generalizing m with
  | nil => exact h
  | cons i l ih => exact ih (cellWf_cellSet h _ _)

theorem cellWf_mergeCells {m : List Host.Cell} (h : cellWf m = true) (image : List Host.Cell) : cellWf (mergeCells m image) = true :=
  cellWf_foldl (fun c => c) image h

/-! ### What a byte reads as -/

/-- Below every listed address a byte reads as zero. -/
theorem cellGet_below {m : List Host.Cell} {a : Nat} (h : ∀ c ∈ m, a < c.1) : cellGet m a = 0 := by
  cases m with
  | nil => rfl
  | cons d m =>
    obtain ⟨b, x⟩ := d
    have := h (b, x) (by simp)
    simp only [cellGet]
    rw [if_neg (by omega), if_neg (by omega)]

/-- A byte after a store: the byte stored at its address, and every other one as before. -/
theorem cellGet_cellSet {m : List Host.Cell} (h : cellWf m = true) (a b : Nat) (v : Byte) :
    cellGet (cellSet m a v) b = if b = a then v else cellGet m b := by
  induction m with
  | nil => simp only [cellSet]; split <;> simp only [cellGet] <;> split <;> simp_all <;> omega
  | cons d m ih =>
    obtain ⟨c, x⟩ := d
    have ih := ih (cellWf_tail h)
    have below : ∀ k, k ≤ c → cellGet m k = 0 := fun k hk =>
      cellGet_below (fun d hd => Nat.lt_of_le_of_lt hk (cellWf_lt h hd))
    simp only [cellSet]
    split
    · simp only [cellGet]
      by_cases hc : c = b
      · rw [if_pos hc, if_pos hc, if_neg (by omega)]
      · rw [if_neg hc, if_neg hc]
        by_cases hcb : c < b
        · rw [if_pos hcb, if_pos hcb, ih]
        · rw [if_neg hcb, if_neg hcb, if_neg (by omega)]
    · split
      · subst c
        split
        · by_cases hb : b = a
          · rw [if_pos hb, below b (by omega)]; simp_all
          · rw [if_neg hb]
            simp only [cellGet]
            rw [if_neg (fun e : a = b => hb e.symm)]
            by_cases hab : a < b
            · rw [if_pos hab]
            · rw [if_neg hab, below b (by omega)]
        · simp only [cellGet]
          by_cases hb : b = a
          · rw [if_pos hb.symm, if_pos hb]
          · rw [if_neg (fun e : a = b => hb e.symm), if_neg hb, if_neg (fun e : a = b => hb e.symm)]
      · split
        · by_cases hb : b = a
          · rw [if_pos hb]
            simp only [cellGet]
            rw [if_neg (by omega), if_neg (by omega)]; simp_all
          · rw [if_neg hb]
        · by_cases hb : b = a
          · rw [if_pos hb]; simp only [cellGet]; rw [if_pos hb.symm]
          · rw [if_neg hb]
            rw [cellGet, if_neg (fun e => hb e.symm)]
            by_cases hab : a < b
            · rw [if_pos hab]
            · rw [if_neg hab]
              simp only [cellGet]
              rw [if_neg (by omega), if_neg (by omega)]

/-- Bytes after a store of consecutive bytes. -/
theorem cellGet_cellSetList {m : List Host.Cell} (h : cellWf m = true) (a : Nat) (bs : List Byte) (b : Nat) :
    cellGet (cellSetList m a bs) b = if a ≤ b ∧ b < a + bs.length then bs.getD (b - a) 0 else cellGet m b := by
  induction bs generalizing m a with
  | nil => simp only [cellSetList, List.length_nil]; rw [if_neg (by omega)]
  | cons v bs ih =>
    simp only [cellSetList, ih (cellWf_cellSet h a v), cellGet_cellSet h, List.length_cons]
    by_cases h1 : b = a
    · subst h1
      rw [if_neg (by omega), if_pos rfl, if_pos (by omega)]; simp
    · rw [if_neg h1]
      by_cases h2 : a + 1 ≤ b ∧ b < a + 1 + bs.length
      · rw [if_pos h2, if_pos (by omega), show b - a = (b - (a + 1)) + 1 by omega]; simp
      · rw [if_neg h2, if_neg (by omega)]

/-! ### The machine's operations on memory -/

@[simp] theorem setUndef_mem (s : State) (l : Nat) (m : BitVec 128) : (s.setUndef l m).mem = s.mem := rfl
@[simp] theorem setUndef_kmem (s : State) (l : Nat) (m : BitVec 128) : (s.setUndef l m).kmem = s.kmem := rfl
@[simp] theorem noteWrite_mem (s : State) (p : Place) (n : Nat) : (s.noteWrite p n).mem = s.mem := rfl
@[simp] theorem noteWrite_kmem (s : State) (p : Place) (n : Nat) : (s.noteWrite p n).kmem = s.kmem := rfl
@[simp] theorem noteWrite_teams (s : State) (p : Place) (n : Nat) : (s.noteWrite p n).teams = s.teams := rfl
@[simp] theorem memWrite_mem (s : State) (a : Nat) (bs : List Byte) : (s.memWrite a bs).mem = cellSetList s.mem a bs := rfl
@[simp] theorem memWrite_kmem (s : State) (a : Nat) (bs : List Byte) : (s.memWrite a bs).kmem = s.kmem := rfl

theorem memWrite_memWf {s : State} (h : s.memWf) (a : Nat) (bs : List Byte) : (s.memWrite a bs).memWf := by
  exact ⟨cellWf_cellSetList h.1 a bs, h.2⟩

theorem foldl_memWf {α : Type} {f : State → α → State} (hf : ∀ s i, s.memWf → (f s i).memWf) (l : List α) {s : State}
    (h : s.memWf) : (l.foldl f s).memWf := by
  induction l generalizing s with
  | nil => exact h
  | cons i l ih => exact ih (hf s i h)

theorem memMerge_memWf {s : State} (h : s.memWf) (line : Nat) (mask : BitVec 128) (bs : List Byte) :
    (s.memMerge line mask bs).memWf := by
  unfold State.memMerge
  split
  · exact memWrite_memWf h _ _
  · refine foldl_memWf (fun s i hs => ?_) _ h
    split
    · exact memWrite_memWf hs _ _
    · exact hs

@[simp] theorem define_mem (s : State) (p : Nat → Place) (n : Nat) : (s.define p n).mem = s.mem := by unfold State.define; split <;> rfl
@[simp] theorem define_kmem (s : State) (p : Nat → Place) (n : Nat) : (s.define p n).kmem = s.kmem := by unfold State.define; split <;> rfl
@[simp] theorem define_teams (s : State) (p : Nat → Place) (n : Nat) : (s.define p n).teams = s.teams := by unfold State.define; split <;> rfl
@[simp] theorem kWrite_mem (s : State) (part a : Nat) (bs : List Byte) : (s.kWrite part a bs).mem = s.mem := by simp [State.kWrite]

theorem kWrite_memWf {s : State} (h : s.memWf) (part a : Nat) (bs : List Byte) : (s.kWrite part a bs).memWf := by
  exact ⟨by rw [kWrite_mem]; exact h.1, cellWf_foldl (fun i => (kKey (s.part part) (a + i), bs.getD i 0)) _ h.2⟩

/-- Taking a tag leaves memory alone, whatever the slice evicts for it. -/
@[simp] theorem toMem_mem (s : State) (l c : Nat) : (s.toMem l c).mem = s.mem := rfl
@[simp] theorem toMem_kmem (s : State) (l c : Nat) : (s.toMem l c).kmem = s.kmem := rfl
@[simp] theorem sideDrop_mem (s : State) (x : SideLine) (c : Nat) : (s.sideDrop x c).mem = s.mem := by simp only [State.sideDrop]; split <;> rfl
@[simp] theorem sideDrop_kmem (s : State) (x : SideLine) (c : Nat) : (s.sideDrop x c).kmem = s.kmem := by simp only [State.sideDrop]; split <;> rfl
@[simp] theorem sideEvict_mem (s : State) (l c : Nat) : (s.sideEvict l c).mem = s.mem := by
  unfold State.sideEvict; dsimp only; split
  · rfl
  · split
    · exact sideDrop_mem _ _ _
    · rfl
@[simp] theorem sideEvict_kmem (s : State) (l c : Nat) : (s.sideEvict l c).kmem = s.kmem := by
  unfold State.sideEvict; dsimp only; split
  · rfl
  · split
    · exact sideDrop_kmem _ _ _
    · rfl
@[simp] theorem sidePut_mem (s : State) (l : Nat) (d : Bool) (c : Nat) : (s.sidePut l d c).mem = s.mem := by
  unfold State.sidePut; dsimp only; split <;> first | rfl | exact sideEvict_mem _ _ _
@[simp] theorem sidePut_kmem (s : State) (l : Nat) (d : Bool) (c : Nat) : (s.sidePut l d c).kmem = s.kmem := by
  unfold State.sidePut; dsimp only; split <;> first | rfl | exact sideEvict_kmem _ _ _
@[simp] theorem ask_mem (s : State) (l c : Nat) : (s.ask l c).mem = s.mem := by unfold State.ask; split <;> simp
@[simp] theorem ask_kmem (s : State) (l c : Nat) : (s.ask l c).kmem = s.kmem := by unfold State.ask; split <;> simp
/-- All that a request to memory, and a walk's reads, can do: they change the requests and the memory-side caches. -/
theorem sideDrop_asks (s : State) (x : SideLine) (c : Nat) : ∃ q m, s.sideDrop x c = { s with memq := q, mside := m } := by
  simp only [State.sideDrop]; split <;> exact ⟨_, _, rfl⟩
theorem sideEvict_asks (s : State) (l c : Nat) : ∃ q m, s.sideEvict l c = { s with memq := q, mside := m } := by
  unfold State.sideEvict; dsimp only; split
  · exact ⟨s.memq, s.mside, rfl⟩
  · split
    · exact sideDrop_asks _ _ _
    · exact ⟨s.memq, s.mside, rfl⟩
theorem sidePut_asks (s : State) (l : Nat) (d : Bool) (c : Nat) : ∃ q m, s.sidePut l d c = { s with memq := q, mside := m } := by
  unfold State.sidePut; dsimp only; split
  · exact ⟨_, _, rfl⟩
  · obtain ⟨q, m, h⟩ := sideEvict_asks { s with mside := { line := l, dirty := d || s.mside.any (fun x => x.line == l && x.dirty) } :: s.mside.filter (fun x => x.line != l) } l c
    exact ⟨q, m, h⟩
theorem ask_asks (s : State) (l c : Nat) : ∃ q m, s.ask l c = { s with memq := q, mside := m } := by
  unfold State.ask; split
  · exact ⟨s.memq, s.mside, rfl⟩
  · obtain ⟨q, m, h⟩ := sidePut_asks (s.toMem l c) l false c
    exact ⟨q, m, h⟩
theorem askFor_asks (s : State) (sl l c : Nat) : ∃ q m, s.askFor sl l c = { s with memq := q, mside := m } := by
  unfold State.askFor; split
  · exact ⟨s.memq, s.mside, rfl⟩
  · exact ask_asks s l c
theorem foldl_asks {α : Type} {f : State → α → State} (hf : ∀ s i, ∃ q m, f s i = { s with memq := q, mside := m }) (l : List α) (s : State) :
    ∃ q m, l.foldl f s = { s with memq := q, mside := m } := by
  induction l generalizing s with
  | nil => exact ⟨s.memq, s.mside, rfl⟩
  | cons i l ih =>
    rw [List.foldl_cons]
    obtain ⟨q, m, h⟩ := hf s i
    obtain ⟨q', m', h'⟩ := ih (f s i)
    exact ⟨q', m', by rw [h', h]⟩
theorem askWalk_asks (s : State) (part root va : Nat) : ∃ q m, s.askWalk part root va = { s with memq := q, mside := m } := by
  refine foldl_asks (fun s n => ?_) _ s
  split
  · dsimp only; split
    · exact askFor_asks _ _ _ _
    · exact ⟨s.memq, s.mside, rfl⟩
  · exact ⟨s.memq, s.mside, rfl⟩
@[simp] theorem dropTag_mem (s : State) (sl : Nat) (t : Option (Nat × Nat)) : (s.dropTag sl t).mem = s.mem := by
  cases t with
  | none => rfl
  | some t => simp only [State.dropTag]; split <;> simp
@[simp] theorem dropTag_kmem (s : State) (sl : Nat) (t : Option (Nat × Nat)) : (s.dropTag sl t).kmem = s.kmem := by
  cases t with
  | none => rfl
  | some t => simp only [State.dropTag]; split <;> simp
@[simp] theorem fitData_mem (s : State) (sl : Nat) (keep : Option Nat) (n : Nat) : (s.fitData sl keep n).mem = s.mem := by
  induction n generalizing s with
  | zero => rfl
  | succ n ih => unfold State.fitData; dsimp only; split <;> first | rw [ih, dropTag_mem] | rfl
@[simp] theorem fitData_kmem (s : State) (sl : Nat) (keep : Option Nat) (n : Nat) : (s.fitData sl keep n).kmem = s.kmem := by
  induction n generalizing s with
  | zero => rfl
  | succ n ih => unfold State.fitData; dsimp only; split <;> first | rw [ih, dropTag_kmem] | rfl
@[simp] theorem takeTag_mem (s : State) (sl : Nat) : (s.takeTag sl).mem = s.mem := by simp [State.takeTag]
@[simp] theorem takeTag_kmem (s : State) (sl : Nat) : (s.takeTag sl).kmem = s.kmem := by simp [State.takeTag]
@[simp] theorem reevaluate_mem (s : State) (p sl : Nat) (k : Bool) (l : Nat) : (s.reevaluate p sl k l).mem = s.mem := by
  simp only [State.reevaluate]; split <;> rfl
@[simp] theorem reevaluate_kmem (s : State) (p sl : Nat) (k : Bool) (l : Nat) : (s.reevaluate p sl k l).kmem = s.kmem := by
  simp only [State.reevaluate]; split <;> rfl

theorem sliceStore_memWf {s : State} (h : s.memWf) (part : Nat) (k : Bool) (a : Nat) (bs : List Byte) :
    (s.sliceStore part k a bs).memWf := by
  have hw : (if k then s.kWrite part a bs else s.memWrite a bs).memWf := by
    cases k
    · exact memWrite_memWf h a bs
    · exact kWrite_memWf h part a bs
  simp only [State.memWf, State.sliceStore, reevaluate_mem, reevaluate_kmem, takeTag_mem, takeTag_kmem] at *
  exact hw

theorem sliceStoreSpan_memWf {s : State} (h : s.memWf) (part a : Nat) (bs : List Byte) :
    (s.sliceStoreSpan part a bs).memWf := by
  unfold State.sliceStoreSpan
  refine foldl_memWf (fun s i hs => ?_) _ h
  dsimp only
  split
  · exact sliceStore_memWf hs _ _ _ _
  · exact hs

/-- A store to core scratch keeps its canonical form, and leaves memory alone. -/
theorem scratchWrite_wf {s : State} (h : ∀ t ∈ s.teams, cellWf t.scratch = true) (team key : Nat) (bs : List Byte) :
    ∀ t ∈ (s.scratchWrite team key bs).teams, cellWf t.scratch = true := by
  intro t ht
  simp only [State.scratchWrite, State.modTeam, define_teams, noteWrite_teams] at ht
  obtain ⟨i, hi, rfl⟩ := List.mem_iff_getElem.mp ht
  rw [List.getElem_modify]
  split
  · exact cellWf_cellSetList (h _ (List.getElem_mem _)) _ _
  · exact h _ (List.getElem_mem _)

@[simp] theorem scratchWrite_mem (s : State) (t k : Nat) (bs : List Byte) : (s.scratchWrite t k bs).mem = s.mem := by simp [State.scratchWrite]
@[simp] theorem scratchWrite_kmem (s : State) (t k : Nat) (bs : List Byte) : (s.scratchWrite t k bs).kmem = s.kmem := by simp [State.scratchWrite]

theorem ask_memWf {s : State} (h : s.memWf) (l c : Nat) : (s.ask l c).memWf := by
  simpa only [State.memWf, ask_mem, ask_kmem] using h

theorem recrypt_memWf {s : State} (h : s.memWf) (l : Nat) (old : Option (BitVec 512)) (new : BitVec 512) : (s.recrypt l old new).memWf := by
  unfold State.recrypt
  dsimp only
  split
  · exact h
  · exact ⟨cellWf_cellSetList h.1 _ _, h.2⟩

theorem garbleSince_memWf {s : State} (h : s.memWf) (part : Nat) (i : Image) : (s.garbleSince part i).memWf := by
  refine foldl_memWf (fun s x hs => ?_) _ h
  split <;> exact hs

theorem ckLoad_memWf {s : State} (h : s.memWf) (part : Nat) : (s.ckLoad part).memWf := by
  unfold State.ckLoad
  dsimp only
  split
  · exact h
  · have ha := foldl_memWf (f := fun s l => s.ask l 6) (fun s l hs => ask_memWf hs l 6)
    refine foldl_memWf (fun s x hs => recrypt_memWf hs _ _ _) _ (garbleSince_memWf ?_ _ _)
    exact ⟨cellWf_mergeCells (cellWf_filter _ (ha _ h).1) _, (ha _ h).2⟩

theorem zeroUnits_memWf {s : State} (h : s.memWf) (mem : Nat → Bool) (sl c : Nat → Bool) : (s.zeroUnits mem sl c).memWf := by
  exact ⟨cellWf_filter _ h.1, cellWf_filter _ h.2⟩

/-- Memory right after reset is in canonical form. -/
theorem reset_cellsWf : State.reset.cellsWf := ⟨⟨rfl, rfl⟩, fun _ h => nomatch h⟩

end Sys2Proof.Machine
end

