-- ==== Sys2Proof/Machine/Ordering.lean ====
section
/-! DEFINITION. The ordering model (chapter 11): events of instructions and agents (Table 11.1), relations and the three axioms,
over finite candidate executions, and the outcomes of a small test. `Machine.step` is one deterministic machine; these
definitions say which outcomes R273 allows (log entry 82). -/

namespace Sys2Proof.Machine.Order

/-! ### Agents and scopes -/

/-- What an event's agent is (R264, R267). -/
inductive Agent where
  /-- A thread, or a quire's uniform instructions (R260). -/
  | thread
  /-- The copy streamer or the matrix unit of a core. -/
  | engine
  /-- A placer or a stamp machine. -/
  | memory
  /-- The host or a scale-up agent. -/
  | outside
  /-- A handle of a team (R249). -/
  | handle
  /-- No agent: a write-back by eviction stands in no thread's program order (R259). -/
  | eviction
  deriving DecidableEq, Repr, Inhabited

/-- An agent and where it stands. -/
structure Site where
  agent   : Agent := .thread
  quire   : Nat := 0
  core    : Nat := 0
  cluster : Nat := 0
  part    : Nat := 0
  deriving DecidableEq, Repr, Inhabited

/-- Table 11.2: `u` lies within scope S of `t`. -/
def within (sc : Scope) (u t : Site) : Bool :=
  let inPart := u.part == t.part && (u.agent == .thread || u.agent == .engine || u.agent == .memory)
  let inCore := u.core == t.core && (u.agent == .thread || u.agent == .engine)
  match sc with
  | .none => false
  | .q => u.agent == .thread && u.quire == t.quire && inCore
  | .cr => inCore
  | .cl => u.cluster == t.cluster && (u.agent == .thread || u.agent == .engine)
  | .dv => inPart
  | .sy => inPart || u.agent == .outside

/-! ### Events (R258, R259) -/

/-- A location is one byte: of a team's core scratch, of a partition's chip scratch, or of physical memory (R258); and an
accumulator of a core's matrix unit, which Table 11.1 names as read and written. -/
inductive Loc where
  | scratch (team byte : Nat)
  | chip (part byte : Nat)
  | mem (byte : Nat)
  | acc (core n : Nat)
  deriving DecidableEq, Repr, Inhabited

/-- The line of a location. -/
def Loc.line : Loc → Loc
  | .scratch t b => .scratch t (b / 128)
  | .chip p b => .chip p (b / 128)
  | .mem b => .mem (b / 128)
  | .acc c n => .acc c n
/-- Core scratch has no home slice. -/
def Loc.isScratch : Loc → Bool | .scratch .. => true | _ => false
/-- Physical memory. -/
def Loc.isMem : Loc → Bool | .mem _ => true | _ => false

/-- An instruction by its site and its place in program order there. -/
structure Place where
  site  : Nat
  instr : Nat
  deriving DecidableEq, Repr, Inhabited

/-- What a write leaves in a byte: a value; for an RMW the value read plus a number; what its agent read of a location at a place (a
copy, or a store of a register that a load wrote); or, for an RMW, what it read plus that (enough for the catalogue; an execution
in general gives each value). -/
inductive Val where
  | const (n : Nat) | plus (n : Nat) | copied (from_ : Place) (loc : Loc) | added (from_ : Place) (loc : Loc)
  deriving DecidableEq, Repr, Inhabited

/-- The work of an engine to which an event belongs (R267): a copy command, with the handle and phase that it delivers into; an
operation of the matrix unit; an operation of a bag at its placer. -/
inductive Job where
  | copy (n : Nat) (into : Option (Nat × Nat))
  | matrix (op : Nat)
  | bag (b n : Nat)
  deriving DecidableEq, Repr, Inhabited

/-- Operations of a bag (R342, R352). -/
inductive BagWhat where
  | put | cut | count | map | drain | grow | free
  deriving DecidableEq, Repr, Inhabited

/-- Where a thread or a handle meets an engine (R267): a copy command issues; a handle's phase changes to full, is taken, is freed
with the buffer named; MOPF before the station operations named; MWAIT's completion for them; an operation of a bag, by its
number: a put as it issues, another as the placer applies it and replies. -/
inductive Mark where
  | copy (n : Nat)
  | full (h phase : Nat)
  | take (h phase : Nat)
  | free (h phase : Nat) (buffer : List Loc)
  | mopf (ops : List Nat)
  | mwait (ops : List Nat)
  | bag (what : BagWhat) (b n : Nat)
  deriving DecidableEq, Repr, Inhabited

/-- A barrier: 0 a team's, 1 a gang's, 2 a grid's; its owner; its number (R236). -/
structure BarId where
  kind  : Nat := 0
  owner : Nat := 0
  n     : Nat := 0
  deriving DecidableEq, Repr, Inhabited

/-- Kinds of events (Table 11.1). A barrier's release or acquire part is a fence event with its barrier and phase; an invalidation
is no memory event, and stands in program order (R259). -/
inductive Kind where
  | read | write | rmw
  | fence (kind : FenceKind)
  | part (release : Bool) (bar : BarId) (phase : Nat)
  | inval
  | mark (m : Mark)
  deriving DecidableEq, Repr, Inhabited

/-- An event on one location (R258). Events of one site with rising `instr` are in program order (R260). -/
structure Event where
  site  : Nat
  instr : Nat
  kind  : Kind
  loc   : Loc := .mem 0
  val   : Val := .const 0
  /-- Scope of its acquire, and of its release; a FENCE and a barrier part carry theirs in both. -/
  acq   : Scope := .none
  rel   : Scope := .none
  /-- May be an early read: a `.g` or `.p` load (R262). -/
  early : Bool := false
  /-- A plain `.g` or `.p` load, which may hit a local-class copy (R262). -/
  plain : Bool := false
  /-- An atomic or a stamp, whether it writes or not (R220, R229). -/
  atomic : Bool := false
  /-- The read of a byte beside the access by the line fill that the access caused (Table 11.1). -/
  filled : Bool := false
  /-- The write-back merge of the local-class store at that place, whose byte it carries (R259, R261). -/
  merge : Option Place := none
  /-- The later store of its core at that place overwrote it in the L1 before any write-back (R261). -/
  behind : Option Place := none
  /-- The access at that place caused the fill whose value this read returns (R262). -/
  fill  : Option Place := none
  /-- The gathering's execution of the instruction, and the lane in it (R220, R229, R261). -/
  gath  : Option Nat := none
  lane  : Nat := 0
  job   : Option Job := none
  deriving DecidableEq, Repr, Inhabited

/-- Reads a location. -/
def Event.reads (e : Event) : Bool := e.kind == .read || e.kind == .rmw
/-- Writes a location. -/
def Event.writes (e : Event) : Bool := e.kind == .write || e.kind == .rmw
/-- A memory event. -/
def Event.mem (e : Event) : Bool := e.reads || e.writes
/-- Events of one instruction, or of one agent's step, on one line take one sequence tag (R206, R258); so do those of the threads
whose stores one request of a gathering carries (R198). -/
def Event.tag (e : Event) : Option Nat × Nat × Nat × Loc :=
  match e.gath with
  | some g => if e.atomic then (some g, e.site, e.instr, e.loc.line) else (some g, 0, 0, e.loc.line)
  | none => (none, e.site, e.instr, e.loc.line)

/-! ### The events of an instruction (Table 11.1) -/

/-- The place that a list names for a location. -/
def placeAt (ps : List (Loc × Place)) (l : Loc) : Option Place := (ps.find? (fun p => p.1 == l)).map (·.2)

/-- One thread's execution of an instruction: the bytes that its access reached and what it left there, the other bytes of the
lines that it filled, whether a CAS swapped, a stamp's run committed or a clean found dirty bytes, the phase of its barrier or
handle and which barrier it is, the copy command or the operation of a bag that it is, the station operations that an MOPF or
MWAIT concerns, and what R261 and R262 say of its bytes, byte by byte. Of a CMAINT `bytes` are those that
it cleans and `drops` those of a line that it invalidates; of HFREE `bytes` are those of the buffer. -/
structure Doing where
  instr : Instr
  bytes : List Loc := []
  fills : List Loc := []
  drops : List Loc := []
  val   : Val := .const 0
  ok    : Bool := true
  bar   : BarId := {}
  phase : Nat := 0
  bag   : Nat := 0
  num   : Nat := 0
  ops   : List Nat := []
  gath  : Option Nat := none
  lane  : Nat := 0
  merge : List (Loc × Place) := []
  behind : List (Loc × Place) := []
  fill  : List (Loc × Place) := []

/-- An acquire's scope, and a release's. -/
def acqOf (o : Order) (sc : Scope) : Scope := match o with | .acq | .acqrel => sc | _ => .none
/-- A release's scope. -/
def relOf (o : Order) (sc : Scope) : Scope := match o with | .rel | .acqrel => sc | _ => .none

/-- What an instruction gives at each byte of its access: kind, acquire, release, and whether a read may be early; and its events
that name no location. -/
structure Gives where
  access : Option (Kind × Scope × Scope × Bool) := none
  plain  : Bool := false
  atomic : Bool := false
  marks  : List (Kind × Scope) := []

/-- Table 11.1, with the marks of R267. PREF, NRED, queue ports and every instruction not named give no event; a CMAINT gives the
merge that it causes. -/
def Doing.gives (d : Doing) : Gives :=
  let load := fun (o : Order) (sc : Scope) (sp : Space) (sh : Bool) =>
    ({ access := some (.read, acqOf o sc, .none, sp == .g || sp == .p), plain := (sp == .g || sp == .p) && !sh && o == .plain } : Gives)
  let store := fun (o : Order) (sc : Scope) => ({ access := some (.write, .none, relOf o sc, false) } : Gives)
  let update := fun (o : Order) (sc : Scope) (done : Bool) =>
    ({ access := some (if done then .rmw else .read, acqOf o sc, if done then relOf o sc else .none, false), atomic := true } : Gives)
  let part := fun (r : Bool) (sc : Scope) => ((.part r d.bar d.phase, sc) : Kind × Scope)
  let mark := fun (m : Mark) => ({ marks := [(.mark m, .none)] } : Gives)
  let bag := fun (w : BagWhat) => mark (.bag w d.bag d.num)
  match d.instr with
  | .ld _ m | .ldq _ m => load m.order m.scope m.space false
  | .ldSh _ m | .ldqSh _ m => load m.order m.scope m.space true
  | .st _ m | .stSh _ m | .stq _ m | .stqSh _ m => store m.order m.scope
  | .atom _ m | .red _ m | .atomq _ m => update m.order m.scope true
  | .cas _ m => update m.order m.scope d.ok
  | .stamp .. => update .plain .none d.ok
  | .cmaint .. => if d.ok && !d.bytes.isEmpty then store .plain .none else {}
  | .waitc _ _ _ _ sc _ _ _ => { access := some (.read, sc, .none, false) }
  | .fence _ k sc => { marks := [(.fence k, sc)] }
  | .bararv _ f => { marks := [part true f.scope] }
  | .barwt _ f => { marks := [part false f.scope] }
  | .barsyn _ f => { marks := [part true f.scope, part false f.scope] }
  | .gbar _ k _ _ sc _ => { marks := match k.toNat with | 0 => [part true sc] | 1 => [part false sc] | _ => [part true sc, part false sc] }
  | .cpdesc .. | .cpload .. | .cpstore .. | .cpgather .. | .cpmcast .. | .cpfill .. | .fetchw .. | .growg .. => mark (.copy d.num)
  | .htake .. => mark (.take d.num d.phase)
  | .hfree .. => mark (.free d.num d.phase d.bytes)
  | .mopf .. => mark (.mopf d.ops)
  | .mwait .. => mark (.mwait d.ops)
  | .bagput .. => bag .put
  | .bagcut .. => bag .cut
  | .bagcnt .. => bag .count
  | .bagmap .. => bag .map
  | .bagdrn .. => bag .drain
  | .baggrow .. => bag .grow
  | .bagfree .. => bag .free
  | _ => {}

/-- R258, R259, Table 11.1: the events of an execution of an instruction at a place: one for each byte of its access, one for each
other byte of the lines that it fills, one for each byte that it invalidates, and its others. -/
def Doing.events (d : Doing) (p : Place) : List Event :=
  let base : Event := { site := p.site, instr := p.instr, kind := .read, gath := d.gath, lane := d.lane }
  let g := d.gives
  (match g.access with
    | none => []
    | some (k, acq, rel, early) => d.bytes.map (fun l => { base with
        kind := k, loc := l, val := d.val, acq := acq, rel := rel, early := early, plain := g.plain, atomic := g.atomic,
        merge := placeAt d.merge l, behind := placeAt d.behind l, fill := placeAt d.fill l })) ++
  d.fills.map (fun l => { base with loc := l, filled := true }) ++ d.drops.map (fun l => { base with kind := .inval, loc := l }) ++
  g.marks.map (fun x => { base with kind := x.1, acq := x.2, rel := x.2 })

/-- What the agents of Table 11.1 that are no threads do: a copy command's bytes, from and to, and the handle phase that it delivers
into; a pass or load of the matrix unit with what it reads, the accumulators it writes and the value that it leaves there; a drain
of accumulators, `.add` where it is an RMW; the record and move writes of an operation of a bag; a handle's change to full; the
write-back of an evicted line, with the stores whose bytes it carries (R259). -/
inductive Work where
  | copy (n : Nat) (into : Option (Nat × Nat)) (bytes : List (Loc × Loc))
  | pass (op : Nat) (reads accs : List Loc) (val : Val)
  | drain (op : Nat) (add : Bool) (bytes : List (Loc × Loc))
  | bag (b n : Nat) (writes : List (Loc × Val))
  | full (h phase : Nat)
  | evict (bytes : List (Loc × Place))
  deriving DecidableEq, Repr, Inhabited

/-- R258, Table 11.1: the events of such work at a place. -/
def Work.events (w : Work) (p : Place) : List Event :=
  let base : Event := { site := p.site, instr := p.instr, kind := .read }
  let job := fun (j : Job) => { base with job := some j }
  let wr := fun (j : Job) (l : Loc) (v : Val) => { job j with kind := .write, loc := l, val := v }
  match w with
  | .copy n into bs => bs.map (fun b => { job (.copy n into) with loc := b.1 }) ++ bs.map (fun b => wr (.copy n into) b.2 (.copied p b.1))
  | .pass op rs as_ v => rs.map (fun l => { job (.matrix op) with loc := l }) ++ as_.map (fun l => wr (.matrix op) l v)
  | .drain op add bs => bs.map (fun b => { job (.matrix op) with loc := b.1 }) ++
      bs.map (fun b => if add then { wr (.matrix op) b.2 (.added p b.1) with kind := .rmw } else wr (.matrix op) b.2 (.copied p b.1))
  | .bag b n ws => ws.map (fun x => wr (.bag b n) x.1 x.2)
  | .full h ph => [{ base with kind := .mark (.full h ph) }]
  | .evict bs => bs.map (fun b => { base with kind := .write, loc := b.1, merge := some b.2 })

/-- The events of an agent that does such work in this order. -/
def workEvents (site : Nat) (ws : List Work) : List Event := ws.zipIdx.flatMap (fun w => w.1.events ⟨site, w.2⟩)

/-- The events of a thread that carries out instructions in this order (R260). -/
def threadEvents (site : Nat) (ds : List Doing) : List Event := ds.zipIdx.flatMap (fun d => d.1.events ⟨site, d.2⟩)

/-! ### Candidate executions (R260 to R263) -/

/-- One entry of a bag's order (R342): the bag, and the number of the operation. -/
structure BagEntry where
  bag : Nat
  n   : Nat
  deriving DecidableEq, Repr, Inhabited

/-- A candidate execution: events, and the relations that R261, R262 and R267 leave to it. The initial write of each location
is left out of `events`: it precedes all others, so no cycle passes through it. -/
structure Exec where
  sites  : List Site
  events : List Event
  /-- For each read its write, none for the initial value. -/
  rf     : List (Nat × Option Nat)
  /-- The reads that are early. -/
  early  : List Nat
  /-- Coherence order, location by location: a local-class store stands there by its merge, or by itself where a later store
  overwrote it in the L1 (R261). -/
  co     : List Nat
  /-- The placer's order of each bag (R267). -/
  bag    : List BagEntry := []
  /-- Initial values, where not zero. -/
  init   : List (Loc × Nat) := []
  deriving DecidableEq, Repr

/-- An edge, with the scopes that must cover every thread of a cycle for it to count (R272). -/
structure Edge where
  src    : Nat
  dst    : Nat
  scopes : List (Scope × Nat) := []
  deriving DecidableEq, Repr

namespace Exec

/-- An event by number. -/
def ev (x : Exec) (i : Nat) : Event := x.events.getD i default
/-- Its site. -/
def site (x : Exec) (i : Nat) : Site := x.sites.getD (x.ev i).site default
/-- Every event number. -/
def all (x : Exec) : List Nat := List.range x.events.length
/-- Program order of one thread (R260); the host's accesses keep the order in which its port receives them (R399). -/
def po (x : Exec) (a b : Nat) : Bool :=
  (x.ev a).site == (x.ev b).site && ((x.site a).agent == .thread || (x.site a).agent == .outside) && decide ((x.ev a).instr < (x.ev b).instr)
/-- R220, R229, R260: the atomics and stamps of one gathering on one line go by rising lane rank, those that write nothing too. -/
def laneOrder (x : Exec) (a b : Nat) : Bool :=
  let ea := x.ev a
  let eb := x.ev b
  ea.gath.isSome && ea.gath == eb.gath && ea.atomic && eb.atomic && ea.loc.line == eb.loc.line && decide (ea.lane < eb.lane)
/-- The event of a kind at a place on the location of another event. -/
def at_ (x : Exec) (p : Place) (i : Nat) (f : Event → Bool) : Option Nat :=
  x.all.find? (fun j => let e := x.ev j; e.site == p.site && e.instr == p.instr && e.loc == (x.ev i).loc && f e)
/-- The write that a read reads from; none for the initial value. -/
def source (x : Exec) (r : Nat) : Option Nat := ((x.rf.find? (fun z => z.1 == r)).map (·.2)).getD none
/-- The store whose byte a merge carries. -/
def carries (x : Exec) (m : Nat) : Option Nat := (x.ev m).merge.bind (fun p => x.at_ p m Event.writes)
/-- The fill that represents a read (R262). -/
def fillOf (x : Exec) (r : Nat) : Option Nat := (x.ev r).fill.bind (fun p => x.at_ p r Event.reads)
/-- The write that stands in co for a write: its merge where it has one. -/
def placeOf (x : Exec) (w : Nat) : Nat :=
  if x.co.contains w then w else (x.all.find? (fun m => x.carries m == some w)).getD w
/-- R261: `a` is co-before `b`, writes of one location. -/
def coBefore (x : Exec) (a b : Nat) : Bool :=
  a != b && x.co.contains a && x.co.contains b && (x.ev a).loc == (x.ev b).loc && decide (x.co.idxOf a < x.co.idxOf b)
/-- Nothing stands between two writes in co. -/
def coNext (x : Exec) (a b : Nat) : Bool := x.coBefore a b && x.co.all (fun w => !(x.coBefore a w && x.coBefore w b))
/-- Pairs of events that a relation holds of, as edges. -/
def pairs (x : Exec) (f : Nat → Nat → Option (List (Scope × Nat))) : List Edge :=
  x.all.flatMap fun a => x.all.filterMap fun b => (f a b).map (fun s => { src := a, dst := b, scopes := s })

/-- R261, as edges; a local-class store precedes its merge. -/
def coEdges (x : Exec) : List Edge := x.pairs fun a b =>
  if x.coBefore a b || x.carries b == some a then some [] else none
/-- R262: reads-from, without the early reads where `rfn`. -/
def rfEdges (x : Exec) (rfn : Bool) : List Edge := x.rf.filterMap fun z =>
  if rfn && x.early.contains z.1 then none else z.2.map (fun w => { src := w, dst := z.1 })
/-- R263: a read and the writes that come co-after its own. A local-class store is itself before what its own core sees, and by
its merge before what the other cores see. -/
def frEdges (x : Exec) : List Edge := x.pairs fun r w =>
  let m := x.placeOf w
  let after := match x.source r with
    | none => x.co.contains m
    | some w0 => x.coBefore (x.placeOf w0) m
  if (x.ev r).reads && (x.ev w).writes && (x.ev r).loc == (x.ev w).loc && r != w && after &&
      (m == w || (x.site r).core == (x.site w).core) then some [] else none

/-! ### Order within threads, between threads and with engines (R265 to R268) -/

/-- The acquire side of an event: an ordered read or RMW, WAITC, an acquire or full FENCE, the acquire part of a wait. -/
def isAcq (x : Exec) (i : Nat) : Bool := let e := x.ev i
  e.acq != .none && (e.reads || match e.kind with | .fence k => k != .rel | .part r .. => !r | _ => false)
/-- The release side: an ordered write or RMW, a release or full FENCE, the release part of an arrival. -/
def isRel (x : Exec) (i : Nat) : Bool := let e := x.ev i
  e.rel != .none && (e.writes || match e.kind with | .fence k => k != .acq | .part r .. => r | _ => false)
/-- A memory operation in R255 and R352: a memory event, a copy command, a handle instruction, an operation of a bag. -/
def isOp (x : Exec) (i : Nat) : Bool := (x.ev i).mem || match (x.ev i).kind with
  | .mark (.copy _) | .mark (.take ..) | .mark (.free ..) | .mark (.bag ..) => true
  | _ => false
/-- R352: what an acquire fence waits for: a read, BAGCNT and BAGMAP among them. -/
def isRead (x : Exec) (i : Nat) : Bool := (x.ev i).reads || match (x.ev i).kind with
  | .mark (.bag .count ..) | .mark (.bag .map ..) => true
  | _ => false
/-- The event is a FENCE. -/
def isFence (x : Exec) (i : Nat) : Bool := match (x.ev i).kind with | .fence _ => true | _ => false

/-- R265, cases 1 to 4. A FENCE is an event of its own: what it holds back comes after it, and it after what it waits for, so
case 4 is the path through it; two FENCEs are ordered where the first is an acquire or full one, or the second a release or full
one. -/
def lobEdges (x : Exec) : List Edge :=
  let mems := fun a b => (x.ev a).mem && (x.ev b).mem
  (x.pairs fun a b => if x.po a b && mems a b && (x.ev a).loc == (x.ev b).loc then some [] else none) ++
  (x.pairs fun a b => if x.po a b && x.isAcq a then some [((x.ev a).acq, (x.ev a).site)] else none) ++
  (x.pairs fun a b => if x.po a b && x.isRel b then some [((x.ev b).rel, (x.ev b).site)] else none) ++
  (x.pairs fun a b => if x.po a b && ((x.isFence a && x.isOp b) || ((x.ev b).kind == .fence .acq && x.isRead a))
    then let f := if x.isFence a then a else b; some [((x.ev f).rel, (x.ev f).site)] else none)
/-- R265, case 5: the write that a thread read early, before a later release of scope `.cl` or wider. -/
def lobEarly (x : Exec) : List Edge := x.early.flatMap fun r => match x.source r with
  | none => []
  | some w => x.all.filterMap fun b =>
    let s := (x.ev b).rel
    if x.po r b && x.isRel b && (s == .cl || s == .dv || s == .sy) then some { src := w, dst := b, scopes := [(s, (x.ev b).site)] } else none

/-- R266: the writes whose reading makes release `a` synchronise: its own, those that follow a release fence, and from each on
an unbroken chain of RMWs in co. -/
def sequence (x : Exec) (a : Nat) : List Nat :=
  let heads := if (x.ev a).writes then [a] else if x.isFence a then x.all.filter (fun w => x.po a w && (x.ev w).writes) else []
  heads.flatMap fun w =>
    let later := (x.co.filter (fun b => x.coBefore (x.placeOf w) b)).takeWhile (fun b => (x.ev b).kind == .rmw)
    w :: x.placeOf w :: later
/-- R266: an acquire's reads: its own, or those that precede an acquire fence. -/
def acqReads (x : Exec) (b : Nat) : List Nat :=
  if (x.ev b).reads then [b] else if x.isFence b then x.all.filter (fun r => x.po r b && (x.ev r).reads) else []
/-- R266. -/
def swEdges (x : Exec) : List Edge := x.pairs fun a b =>
  let ea := x.ev a
  let eb := x.ev b
  let meets := match ea.kind, eb.kind with
    | .part true b p, .part false b' p' => b == b' && p == p'
    | _, _ => (x.acqReads b).any fun r => match x.source r with | some w => (x.sequence a).contains w | none => false
  if a != b && x.isRel a && x.isAcq b && meets && within ea.rel (x.site b) (x.site a) && within eb.acq (x.site a) (x.site b)
  then some [(ea.rel, ea.site), (eb.acq, eb.site)] else none

/-- A FENCE that waits for earlier operations, copy commands among them (R255). -/
def isWaiting (x : Exec) (i : Nat) : Bool := match (x.ev i).kind with | .fence .rel | .fence .full => true | _ => false
/-- The events of a copy command. -/
def ofCopy (x : Exec) (n : Nat) : List Nat := x.all.filter fun i => match (x.ev i).job with | some (.copy m _) => m == n | _ => false
/-- Events of an operation of the matrix unit. -/
def ofMatrix (x : Exec) (ops : List Nat) : List Nat := x.all.filter fun i => match (x.ev i).job with | some (.matrix m) => ops.contains m | _ => false
/-- What the placer writes for an operation of a bag. -/
def ofBag (x : Exec) (b n : Nat) : List Nat := x.all.filter fun i => (x.ev i).job == some (.bag b n)
/-- Deliveries into a handle, with their phases. -/
def deliveries (x : Exec) (h : Nat) : List (Nat × Nat) := x.all.filterMap fun i => match (x.ev i).job with
  | some (.copy _ (some (h', p))) => if h' = h ∧ (x.ev i).writes then some (i, p) else none
  | _ => none
/-- Every pair of two lists, as edges. -/
def join (as_ bs : List Nat) : List Edge := as_.flatMap fun a => bs.map fun b => { src := a, dst := b }
/-- Events po-before an event, and po-after it. -/
def before (x : Exec) (i : Nat) : List Nat := x.all.filter fun a => x.po a i
/-- Events po-after an event. -/
def after (x : Exec) (i : Nat) : List Nat := x.all.filter fun b => x.po i b

/-- R267: the edges that a mark gives. -/
def markEdges (x : Exec) (i : Nat) (m : Mark) : List Edge :=
  match m with
  | .copy n =>
    -- a copy follows its command and what precedes a release FENCE before it; what follows a FENCE that waits follows the copy
    join [i] (x.ofCopy n) ++
    join ((x.before i).filter x.isWaiting |>.flatMap x.before) (x.ofCopy n) ++
    join (x.ofCopy n) ((x.after i).filter x.isWaiting |>.flatMap x.after)
  | .full h p => join ((x.deliveries h).filter (·.2 == p) |>.map (·.1)) [i]
  | .take h p => join (x.all.filter fun j => (x.ev j).kind == .mark (.full h p)) [i] ++ join [i] (x.after i)
  | .free h p locs =>
    join ((x.before i).filter fun r => (x.ev r).reads && locs.contains (x.ev r).loc) ((x.deliveries h).filter (fun d => decide (p < d.2)) |>.map (·.1))
  | .mopf ops => join (x.before i) ((x.ofMatrix ops).filter fun j => (x.ev j).reads)
  | .mwait ops => join ((x.ofMatrix ops).filter fun j => (x.ev j).writes) [i] ++ join [i] (x.after i)
  | .bag what b n =>
    -- a put issues before its record is written; a release of scope `.cl` or wider waits for what the placer writes; the thread's
    -- later events follow the reply to BAGCNT or BAGMAP (R352)
    (if what = .put then join [i] (x.ofBag b n) else []) ++
    join (x.ofBag b n) ((x.after i).filter fun r => x.isRel r && [.cl, .dv, .sy].contains (x.ev r).rel) ++
    (if what = .count ∨ what = .map then join [i] (x.after i) else [])

/-- The mark of an operation of a bag. -/
def bagMark (x : Exec) (e : BagEntry) : Option (Nat × BagWhat) := x.all.findSome? fun i => match (x.ev i).kind with
  | .mark (.bag w b n) => if b = e.bag ∧ n = e.n then some (i, w) else none
  | _ => none
/-- The operation is of this kind. -/
def bagIs (x : Exec) (e : BagEntry) (w : BagWhat) : Bool := (x.bagMark e).any (·.2 == w)
/-- The events at which the placer applies an operation: its writes, and its reply where that is no put's. -/
def entryEvents (x : Exec) (e : BagEntry) : List Nat :=
  x.ofBag e.bag e.n ++ match x.bagMark e with | some (i, w) => if w = .put then [] else [i] | none => []
/-- R267, R352: the operations of one bag in the placer's order: the writes of each, moves among them, come before the replies of
the later ones. -/
def bagEdges (x : Exec) : List Edge := x.bag.zipIdx.flatMap fun a => x.bag.zipIdx.flatMap fun b =>
  if a.2 < b.2 ∧ a.1.bag = b.1.bag then join (x.entryEvents a.1) (x.entryEvents b.1) else []
/-- R267: agent order. -/
def aoEdges (x : Exec) : List Edge :=
  (x.all.flatMap fun i => match (x.ev i).kind with | .mark m => x.markEdges i m | _ => []) ++ x.bagEdges
/-- R267: the puts that a cut covers: those that precede it in bag order. -/
def covered (x : Exec) (e : BagEntry) : Nat :=
  ((x.bag.takeWhile (fun y => y != e)).filter fun y => y.bag == e.bag && x.bagIs y .put).length
/-- The cuts, in event order. -/
def cuts (x : Exec) : List BagEntry := x.all.filterMap fun i => match (x.ev i).kind with | .mark (.bag .cut b n) => some ⟨b, n⟩ | _ => none

/-- R268: the edges of ob. A read that a fill represents has none of its own (R262). -/
def obEdges (x : Exec) : List Edge :=
  (x.lobEdges ++ x.lobEarly ++ x.swEdges ++ x.aoEdges ++ x.coEdges ++ x.frEdges ++ x.rfEdges true).filter fun e =>
    (x.fillOf e.src).isNone && (x.fillOf e.dst).isNone

/-! ### The axioms (R269 to R273) -/

/-- No cycle: events without a predecessor among those left are taken away until none is left. -/
def acyclic (es : List Edge) : Nat → List Nat → Bool
  | 0, left => left.isEmpty
  | n + 1, left =>
    let more := left.filter (fun i => es.any (fun e => e.dst == i && left.contains e.src))
    more.isEmpty || (more.length < left.length && acyclic es n more)

/-- Every choice of some of a list's members. -/
def choices : List Nat → List (List Nat)
  | [] => [[]]
  | i :: is => let r := choices is; r ++ r.map (i :: ·)

/-- R269: coherence, the order of each location. -/
def coherence (x : Exec) : Bool :=
  let sameLoc := x.pairs fun a b =>
    if (x.po a b || x.laneOrder a b) && (x.ev a).mem && (x.ev b).mem && (x.ev a).loc == (x.ev b).loc then some [] else none
  acyclic (sameLoc ++ x.rfEdges false ++ x.coEdges ++ x.frEdges) x.events.length x.all
/-- R270: atomicity: an RMW's write comes right after the write that it reads. -/
def atomicity (x : Exec) : Bool := x.all.all fun i => (x.ev i).kind != .rmw ||
  x.co.all fun w => !x.coBefore w i || match x.source i with
    | none => false
    | some w0 => w == x.placeOf w0 || x.coBefore w (x.placeOf w0)
/-- R271 with R272: no cycle whose threads are `ts`, an edge with scopes counting only where they cover every one of them. -/
def propagationAmong (x : Exec) (ts : List Nat) : Bool :=
  let inside := fun (i : Nat) => (x.site i).agent != .thread || ts.contains (x.ev i).site
  let counts := fun (e : Edge) => e.scopes.all fun z => ts.all fun t => within z.1 (x.sites.getD t default) (x.sites.getD z.2 default)
  let left := x.all.filter inside
  acyclic (x.obEdges.filter (fun e => counts e && inside e.src && inside e.dst)) left.length left
/-- R271, R272: propagation. -/
def propagation (x : Exec) : Bool :=
  (choices ((List.range x.sites.length).filter (fun t => (x.sites.getD t default).agent == .thread))).all x.propagationAmong

/-- R262: an early read is a `.g` or `.p` load of a write by a thread of its core. -/
def earlyOk (x : Exec) : Bool := x.early.all fun r => (x.ev r).kind == .read && (x.ev r).early && (x.ev r).loc.isMem && match x.source r with
  | some w => (x.site w).agent == .thread && (x.site w).core == (x.site r).core
  | none => false
/-- R259, R262: read `r` may return what fill `f` brought: a plain load of the fill's core, the fill po-before it where one thread made
both, and po-after every invalidation of the line that precedes the load in po. -/
def fillOk (x : Exec) (f r : Nat) : Bool :=
  f != r && (x.ev r).plain && (x.ev r).kind == .read && (x.ev f).loc.isMem && (x.site f).core == (x.site r).core &&
  ((x.ev f).site != (x.ev r).site || x.po f r) &&
  x.all.all fun i => !((x.ev i).kind == .inval && (x.ev i).loc.line == (x.ev r).loc.line && x.po i r) || x.po i f
/-- R258, R261, R262: every read reads from a write of its location, of its own core and early where that write is a local-class
store and not its merge; a read that a fill represents reads what the fill of its core did. -/
def rfOk (x : Exec) : Bool :=
  (x.rf.map (·.1) == x.all.filter (fun i => (x.ev i).reads)) && x.rf.all fun z =>
    (match z.2 with
      | none => true
      | some w => (x.ev w).writes && (x.ev w).loc == (x.ev z.1).loc && w != z.1 &&
          ((x.placeOf w == w && (x.ev w).behind.isNone) || ((x.site w).core == (x.site z.1).core && x.early.contains z.1))) &&
    (match x.fillOf z.1 with
      | none => (x.ev z.1).fill.isNone
      | some f => x.fillOk f z.1 && x.source f == z.2)
/-- R261: co holds every write once, a merged store by its merge; a store that a later one overwrote in the L1 stands immediately
before that one; the updates of one tag are ordered alike at every byte. -/
def coOk (x : Exec) : Bool :=
  let ws := x.all.filter fun i => (x.ev i).writes
  (ws.all fun i => x.co.count i == (if x.all.any (fun m => x.carries m == some i) then 0 else 1) &&
    (match (x.ev i).behind with
      | none => true
      | some p => (match x.at_ p i Event.writes with
        | some w => (x.site w).core == (x.site i).core && x.coNext i (x.placeOf w)
        | none => false))) &&
  ws.all fun a => ws.all fun b => ws.all fun a' => ws.all fun b' =>
    (x.ev a).tag == (x.ev b).tag || (x.ev a).tag != (x.ev a').tag || (x.ev b).tag != (x.ev b').tag || !x.coBefore a b || !x.coBefore b' a'
/-- R197, R220, R229, R261: the stores of one gathering to a location go by rising lane rank, and so do its atomics, with nothing
between them. -/
def lanesOk (x : Exec) : Bool :=
  let ws := x.all.filter fun i => (x.ev i).writes && (x.ev i).gath.isSome
  ws.all fun a => ws.all fun b =>
    let ea := x.ev a
    let eb := x.ev b
    if ea.gath == eb.gath && ea.loc == eb.loc && decide (ea.lane < eb.lane) && ea.merge.isNone && eb.merge.isNone && ea.atomic == eb.atomic && x.co.contains a && x.co.contains b then
      x.coBefore a b && x.co.all fun w => !(x.coBefore a w && x.coBefore w b) || (x.ev w).gath == ea.gath
    else true
/-- R267, R342: the order of the bags holds every operation once, and those that one thread issues to a bag in issue order. -/
def bagOk (x : Exec) : Bool := x.all.all fun i =>
  (match (x.ev i).kind with
    | .mark (.bag _ b n) => x.bag.count ⟨b, n⟩ == 1 && x.all.all fun j => (match (x.ev j).kind with
      | .mark (.bag _ b' n') => !(x.po i j && b == b') || decide (x.bag.idxOf ⟨b, n⟩ < x.bag.idxOf ⟨b', n'⟩)
      | _ => true)
    | _ => true) &&
  (match (x.ev i).job with | some (.bag b n) => x.bag.count ⟨b, n⟩ == 1 | _ => true)
/-- The relations fit the events. -/
def fits (x : Exec) : Bool := x.rfOk && x.coOk && x.lanesOk && x.bagOk

/-- R273: the execution is one that the device may show. -/
def allowed (x : Exec) : Bool := x.fits && x.earlyOk && x.coherence && x.atomicity && x.propagation

/-- The initial value of a location. -/
def start (x : Exec) (l : Loc) : Nat := ((x.init.find? (fun z => z.1 == l)).map (·.2)).getD 0
/-- The value that a write leaves, where the reads named return the values claimed for them; another read returns what the write that
it reads from leaves, as far as `n` writes back. The axioms bound no value: on a cycle of reads-from any claim that fits is
one (R273). -/
def written (x : Exec) (claim : List (Nat × Nat)) : Nat → Nat → Nat
  | 0, _ => 0
  | n + 1, w =>
    let read := fun (r : Nat) => match claim.find? (fun z => z.1 == r) with
      | some z => z.2
      | none => match x.source r with | none => x.start (x.ev r).loc | some w' => x.written claim n w'
    let readAt := fun (p : Place) (l : Loc) =>
      ((x.all.find? (fun r => (x.ev r).site == p.site && (x.ev r).instr == p.instr && (x.ev r).loc == l && (x.ev r).reads)).map read).getD 0
    match x.carries w, (x.ev w).val with
    | some s, _ => x.written claim n s
    | none, .const k => k
    | none, .plus k => k + read w
    | none, .copied p l => readAt p l
    | none, .added p l => readAt p l + read w
/-- The value that a read returns: what the write that it reads from leaves. -/
def got (x : Exec) (claim : List (Nat × Nat)) (r : Nat) : Nat :=
  match x.source r with | none => x.start (x.ev r).loc | some w => x.written claim x.events.length w
/-- R262, R273: the reads named return these values. -/
def agrees (x : Exec) (claim : List (Nat × Nat)) : Bool := claim.all fun z => x.got claim z.1 == z.2
/-- The final value of a location: that of its last write in co. -/
def final (x : Exec) (claim : List (Nat × Nat)) (loc : Loc) : Nat :=
  match (x.co.filter (fun w => (x.ev w).loc == loc)).getLast? with | none => x.start loc | some w => x.written claim x.events.length w

end Exec

/-! ### The outcomes of a test -/

/-- Every order of a list. -/
def orders : List Nat → List (List Nat)
  | [] => [[]]
  | i :: is => (orders is).flatMap fun r => (List.range (r.length + 1)).map fun k => r.take k ++ i :: r.drop k

/-- Every way to choose one member of each list. -/
def product : List (List (Nat × Option Nat × Bool)) → List (List (Nat × Option Nat × Bool))
  | [] => [[]]
  | xs :: rest => let r := product rest; xs.flatMap fun a => r.map (a :: ·)

/-- Every order of some entries of bags. -/
def bagOrders : List BagEntry → List (List BagEntry)
  | [] => [[]]
  | i :: is => (bagOrders is).flatMap fun r => (List.range (r.length + 1)).map fun k => r.take k ++ i :: r.drop k

/-- A small test: its sites, its events, and the initial values that are not zero. -/
structure Litmus where
  sites  : List Site
  events : List Event
  init   : List (Loc × Nat) := []
  deriving DecidableEq, Repr

/-- Its candidate executions: every reads-from, early or not, every coherence order, and every order of its bags. -/
def Litmus.executions (t : Litmus) : List Exec :=
  let x0 : Exec := { sites := t.sites, events := t.events, rf := [], early := [], co := [], init := t.init }
  let merged := fun (i : Nat) => x0.all.any (fun m => x0.carries m == some i)
  let writes := x0.all.filter (fun i => (x0.ev i).writes)
  let reads := (x0.all.filter (fun i => (x0.ev i).reads)).map fun r =>
    (r, none, false) :: (writes.filter (fun w => (x0.ev w).loc == (x0.ev r).loc && w != r)).flatMap fun w =>
      if (x0.ev r).early then [(r, some w, false), (r, some w, true)] else [(r, some w, false)]
  let locs := (writes.map (fun w => (x0.ev w).loc)).eraseDups
  let cos := locs.foldl (fun cs l => cs.flatMap fun c =>
    (orders (writes.filter (fun w => (x0.ev w).loc == l && !merged w))).map (c ++ ·)) [[]]
  let entries := (x0.all.filterMap fun i => match (x0.ev i).kind, (x0.ev i).job with
    | .mark (.bag _ b n), _ | _, some (.bag b n) => some (⟨b, n⟩ : BagEntry)
    | _, _ => none).eraseDups
  (product reads).flatMap fun choice => cos.flatMap fun co => (bagOrders entries).map fun bag =>
    { x0 with rf := choice.map (fun z => (z.1, z.2.1)), early := (choice.filter (·.2.2)).map (·.1), co := co, bag := bag }

/-- The reads of a test whose values are its outcome: those of accesses of threads, fills left out. -/
def Litmus.reads (t : Litmus) : List Nat :=
  (List.range t.events.length).filter fun i => let e := t.events.getD i default
    e.reads && (t.sites.getD e.site default).agent == .thread && !e.filled

/-- R273: some allowed execution in which the reads of threads return `vs`, in event order, each location of `fin` ends with its
value, and the cuts cover `cuts` puts each. -/
def Litmus.shows (t : Litmus) (vs : List Nat) (fin : List (Loc × Nat) := []) (cuts : List Nat := []) : Bool :=
  let claim := t.reads.zip vs
  vs.length == t.reads.length && t.executions.any fun x =>
    x.agrees claim && fin.all (fun z => x.final claim z.1 == z.2) && x.cuts.map x.covered == cuts && x.allowed

end Sys2Proof.Machine.Order
end

