-- ==== Sys2Proof/Tests/Slice0.lean ====
section
/-! SUPPORT. The model's own tests: ill-formed instructions refused, words from the spec's encoding tables decoded, and for each
statement of Certificates/Slice0/Obligations.lean with hypotheses a state and operands that meet them (the words on a test
name the statement and the clause). -/

namespace Sys2Proof.Tests

open Sys2Proof Sys2Proof.Machine

set_option maxRecDepth 100000
set_option Elab.async false

/-! ### Well-formedness (R33 to R35, R43 to R51): one ill-formed term for each check -/

/-- COUNT 0 is refused (R29). -/
theorem test_header_count : headerBad 0x00000010 = true := by decide +kernel

/-- The fields of an access at [q10], plain, `.g`, one word. -/
def acc : MemF := ⟨8, 10, 0xFF, false, 0, .plain, .none, .g, .w32, 0⟩
/-- The same of a slice atomic: a word added. -/
def atm : AtomF := ⟨8, 10, 0xFF, false, 0, .plain, .none, 0, 0, 0⟩
/-- F2 headers: no counter, and counter 0. -/
def h0 : Hdr := ⟨0, false, 0⟩
def h1 : Hdr := ⟨0, true, 0⟩

theorem test_wf_vector : ([.madwI32 5 6 8 0, .madwN32 5 6 8 0, .isetI32 0 6 5 6 0, .isetN32 0 15 5 6 0, .isetI64 0 0 5 6 0, .isetN64 0 0 6 5 0,
    .add64 4 6 9 0, .sub64 5 6 8 0, .mul64 4 7 8 0, .shl64 4 7 9 0, .shr64 5 6 9 0, .shra64 5 6 9 0, .icvt 5 6 0x18 0, .icvt 4 7 3 0,
    .leaI32 0 5 6 8 0, .leaN32 0 4 7 8 0, .fset 0 6 5 6 0, .fset 0 7 5 6 0, .frnd 5 6 4 0, .cvt 5 6 0x40 0, .qnt 5 6 8 0, .dqnt 5 6 8 0,
    .had 5 6 8 0, .unpk4 5 6 4 0, .fslot 5 8 0 0, .fslot 5 0 5 0, .moviLi 128 0 0, .addLi 5 128 0 0, .isetI32Li 0 6 5 0 0,
    .isetN32Li 0 0 128 0 0, .fsetLi 0 7 5 0 0, .faddLi 128 5 0 0] : List Instr).all (fun i => !i.wf) = true := by decide +kernel

theorem test_wf_uniform_control : ([.uniformAluReg 0x2F 4 5 6 0, .uniformAluImm 0x1F 4 5 0 0, .uniformAluImm 0x2E 4 5 0 0,
    .uniformAluReg 0x1F 4 5 6 0, .uniformAluReg 0x28 5 6 8 0, .uniformAluReg 0x28 4 7 8 0, .uniformAluReg 0x0B 160 5 6 0,
    .uniformAluReg 0x24 0x80 5 6 0, .uniformAluReg 0x24 0x30 5 6 0, .uniformAluReg 0 4 162 162 0, .uniformAluReg 0 166 5 6 0,
    .uniformAluReg 0x26 2 4 5 0, .uniformAluReg 0x2E 5 6 0x18 0, .moviQ 166 0 0, .addQLi 4 166 0 0, .moviI64 5 0 0, .movVq 128 4 0,
    .movVq 4 166 0, .brx 5 0, .brx 128 0, .callx 5 0, .vote 3 0 0 0, .ballot 160 0 0, .lxch 5 5 6 0 0 0 0, .lxch 0 5 6 9 0 1 0,
    .lxch 1 5 6 9 0 1 0, .lxch 1 128 6 0 0 1 0, .qred 11 4 5 0, .qred 0 160 5 0, .qscan 11 4 5 false 0, .qscan 0 4 128 false 0,
    .match_ true 4 5 0, .match_ false 128 5 0] : List Instr).all (fun i => !i.wf) = true := by decide +kernel

theorem test_wf_access : ([.ld h0 acc, .st ⟨0, false, 1⟩ acc, .ld h1 { acc with order := .acq }, .ld h1 { acc with scope := .cl },
    .ld h1 { acc with order := .acqrel, scope := .cl }, .ld h1 { acc with order := .rel, scope := .cl },
    .st h0 { acc with order := .acq, scope := .cl }, .ld h1 { acc with space := .s, order := .acq, scope := .dv },
    .ld h1 { acc with space := .p, order := .acq, scope := .q }, .ldSh h1 { acc with space := .k }, .ld h1 { acc with space := .k, ep := 1 },
    .ld h1 { acc with space := .s, lu := true }, .ld h1 { acc with a := 11 }, .ld h1 { acc with a := 160, space := .p },
    .ld h1 { acc with b := 128 }, .ld h1 { acc with d := 9, size := .w64 }, .ld h1 { acc with d := 6, size := .x4 }, .st h0 { acc with size := .i8 },
    .st h0 { acc with size := .i16 }, .ldq h1 { acc with space := .p, a := 4 }, .ldq h1 { acc with d := 160 }, .ldqSh h1 { acc with space := .s },
    .stq h0 { acc with b := 160 }, .stqSh h0 { acc with order := .acq, scope := .cl }, .stSh h0 { acc with size := .i8 },
    .pref 0 3 .g 0 10 0xFF 0, .pref 0 0 .s 0 10 0xFF 0, .pref 0 0 .g 0 11 0xFF 0, .cmaint h0 3 .g 10 0xFF 0, .cmaint h0 0 .k 10 0xFF 0,
    .carve h0 160 0] : List Instr).all (fun i => !i.wf) = true := by decide +kernel

theorem test_wf_atomics : ([.atom h0 atm, .atom h1 { atm with w := 2, d := 8 }, .atom h1 { atm with op := 15 }, .atom h1 { atm with w := 1, op := 12 },
    .atom h1 { atm with k := true, ep := 1 }, .atom h1 { atm with a := 11 }, .atom h1 { atm with d := 9, w := 1 }, .cas h1 { atm with op := 1 },
    .cas h1 { atm with d := 9 }, .red h0 { atm with order := .acq, scope := .dv }, .red h0 { atm with order := .acqrel, scope := .dv },
    .red h0 { atm with w := 2, op := 9 }, .red h0 { atm with w := 3 }, .atomq h1 { atm with w := 2, op := 10 }, .atomq h1 { atm with d := 6, w := 2 },
    .stamp h0 false 1 0 0 0 8 10 0xFF, .stamp h0 false 0 17 0 0 8 10 0xFF, .stamp h1 false 3 0 0 17 8 10 0xFF, .stamp h0 false 0 16 0 0 113 10 0xFF,
    .stamp h1 false 3 0 0 0 113 10 0xFF, .stamp h0 false 0 0 0 0 8 11 0xFF, .stampsync ⟨0, false, 1⟩ true 0, .nred h0 0 8 10 4 5,
    .nred h1 11 8 10 4 5, .nred h1 0 8 11 4 5, .nred h1 0 8 10 160 5] : List Instr).all (fun i => !i.wf) = true := by decide +kernel

theorem test_wf_sync : ([.fence h0 .acq .none, .bararv h0 ⟨false, 9, .imm 0, .none⟩, .bararv h1 ⟨true, 9, .imm 4, .none⟩,
    .bararv h1 ⟨false, 128, .imm 0, .none⟩, .barwt h0 ⟨false, 9, .reg 160, .none⟩, .barsyn h0 ⟨false, 1, .imm 0, .none⟩, .gbar h0 3 0 0 .none 0,
    .gbar h0 0 9 0 .none 0, .gbar h0 1 9 0 .none 0, .gbar h0 2 0 9 .none 0, .stdef 0 160 (.imm 0), .hacq h0 (.imm 32) 10 11, .hexp h0 (.imm 0) 160,
    .htake h0 (.imm 0) 9, .hfree h0 (.imm 32), .waitc h1 false 6 false .none 9 10 8, .waitc h1 true 0 true .none 9 7 8,
    .waitc h0 false 0 true .none 9 7 8] : List Instr).all (fun i => !i.wf) = true := by decide +kernel

theorem test_wf_units : ([.mload h0 (.imm 0) false 0 160 11, .mswap 0 (.reg 160), .mstream h0 (.imm 0) false 0 0 10 11 160, .mzero h0 (.reg 165) 0 12,
    .mfill h0 (.imm 0) .p 0 10 11 12, .mfill h0 (.imm 0) .g 0 11 11 12, .mdrain h0 (.imm 0) false false .p 0 10 11 12, .mdrainv h0 (.imm 0) 0 0 8 10,
    .mdrainv h1 (.imm 0) 3 0 8 10, .mdrainv h1 (.imm 0) 2 0 97 10, .mwait ⟨0, false, 1⟩, .mstat h1 false 5 9, .mstat h0 false 0 9, .cpdesc h1 0 11,
    .cpdesc h0 0 10, .cpload h0 0 (.imm 0) 9 156, .cpstore h0 0 160 9, .cpgather h0 0 (.imm 32) 9 9 9, .cpmcast h0 0 (.imm 0) 9 156 9,
    .cpfill h0 (.imm 0) 9 160 9, .fetchw h0 (.imm 0) 9, .growg h1 160 9, .spend h0 false 160, .bagnew h1 8 11 12 13, .bagput h0 0 8 9 10 0,
    .bagput h1 3 113 9 10 0, .bagcut h0 160, .bagcnt h1 true 9 8 7, .bagmap h1 9 8 7, .bagmap h1 126 8 7, .bagdrn h0 160, .baggrow h0 8 160, .bagfree h0 160,
    .trap ⟨0, false, 1⟩ 0, .svc ⟨0, false, 1⟩ 0, .tret ⟨0, false, 1⟩, .movs 0 false false 8 15, .movs 0 true false 8 0, .movs 0 false true 8 0, .movs 0 true true 9 7,
    .movsw 0 false false 8 8, .movsw 0 false true 8 17, .ctxsv ⟨0, false, 1⟩ 0, .ctxld ⟨0, false, 1⟩ 0] : List Instr).all (fun i => !i.wf) = true := by decide +kernel

/-! ### Decoding: every instruction, by a word composed from the spec's tables -/

/-- Words that decode to the instruction beside them, and nothing is left of them. -/
def readsAs (x : List Word × Instr) : Bool := match decode x.1 with | .ok (i, []) => i == x.2 | _ => false

/-- Table 2.6, layout of R31: `B` [31:25], `A` [24:18], `D` [17:11], STALL [10:8]. -/
def wordsInteger : List (List Word × Instr) :=
  [([0x10182B00], .add 5 6 8 3), ([0x10182B01], .addI32Sat 5 6 8 3), ([0x10182B02], .addN32Sat 5 6 8 3),
   ([0x10182B03], .addc 5 6 8 3), ([0x10182B04], .sub 5 6 8 3), ([0x10182B05], .subI32Sat 5 6 8 3),
   ([0x10182B06], .subN32Sat 5 6 8 3), ([0x10182B07], .subb 5 6 8 3), ([0x10182B08], .mul 5 6 8 3),
   ([0x10182B09], .mulhI32 5 6 8 3), ([0x10182B0A], .mulhN32 5 6 8 3), ([0x10182B0B], .mad 5 6 8 3),
   ([0x1018230C], .madwI32 4 6 8 3), ([0x1018230D], .madwN32 4 6 8 3), ([0x10182B0E], .minI32 5 6 8 3),
   ([0x10182B0F], .minN32 5 6 8 3), ([0x10182B10], .maxI32 5 6 8 3), ([0x10182B11], .maxN32 5 6 8 3),
   ([0x10182B12], .and 5 6 8 3), ([0x10182B13], .or 5 6 8 3), ([0x10182B14], .xor 5 6 8 3), ([0x10182B15], .andn 5 6 8 3)]
theorem test_decode_integer : wordsInteger.all readsAs = true := by decide +kernel

/-- Table 2.6, shifts to LEA, SEL: a pc field has the condition in bits [6:3], ICVT its selector in `B`. -/
def wordsShifts : List (List Word × Instr) :=
  [([0x10182B16], .shl 5 6 8 3), ([0x10182B17], .shr 5 6 8 3), ([0x10182B18], .shra 5 6 8 3), ([0x10182B19], .rot 5 6 8 3),
   ([0x10182B1A], .funnel 5 6 8 3), ([0x10182B1B], .bfeI32 5 6 8 3), ([0x10182B1C], .bfeN32 5 6 8 3),
   ([0x10182B1D], .bfi 5 6 8 3), ([0x10182B1E], .bswz 5 6 8 3), ([0x00182B1F], .neg 5 6 3), ([0x00182B20], .abs 5 6 3),
   ([0x00182B21], .popc 5 6 3), ([0x00182B22], .clz 5 6 3), ([0x00182B23], .brev 5 6 3),
   ([0x10195124], .isetI32 2 5 6 8 1), ([0x10195125], .isetN32 2 5 6 8 1), ([0x10195126], .isetI64 2 5 6 8 1),
   ([0x10195127], .isetN64 2 5 6 8 1), ([0x10182328], .add64 4 6 8 3), ([0x10182329], .sub64 4 6 8 3),
   ([0x1018232A], .mul64 4 6 8 3), ([0x1218232B], .shl64 4 6 9 3), ([0x1218232C], .shr64 4 6 9 3),
   ([0x1218232D], .shra64 4 6 9 3), ([0xB618202E], .icvt 4 6 0x5B 0), ([0x12182031], .leaI32 1 4 6 9 0),
   ([0x12182037], .leaN32 3 4 6 9 0), ([0x1218283D], .sel 5 5 6 9 0)]
theorem test_decode_shifts : wordsShifts.all readsAs = true := by decide +kernel

/-- Tables 2.7, 2.5: the modifier of `A` is OP[1:0], FRND has its mode in `B`. -/
def wordsFloat : List (List Word × Instr) :=
  [([0x12182A41], .fadd 1 5 6 9 2), ([0x12182A46], .fsub 2 5 6 9 2), ([0x12182A4B], .fmul 3 5 6 9 2),
   ([0x12182A4C], .ffma 0 5 6 9 2), ([0x12182A51], .fmin 1 5 6 9 2), ([0x12182A57], .fmax 3 5 6 9 2),
   ([0x101B4858], .fset 1 13 6 8 0), ([0x06182859], .frnd 5 6 3 0), ([0x00182B5A], .fclass 5 6 3),
   ([0x00182B5B], .fsqrt 5 6 3), ([0x00182B5C], .frcp 5 6 3), ([0x00182B5D], .frsq 5 6 3), ([0x00182B5E], .fex2 5 6 3),
   ([0x00182B5F], .flg2 5 6 3), ([0x10182B60], .pkaddF16 5 6 8 3), ([0x10182B61], .pkmulF16 5 6 8 3),
   ([0x10182B62], .pkfmaF16 5 6 8 3), ([0x10182B63], .pkfmaBf16 5 6 8 3)]
theorem test_decode_float : wordsFloat.all readsAs = true := by decide +kernel

/-- Table 2.7: CVT, UNPK4 and FSLOT have selectors in `B`, QNT, DQNT and HAD the format slot, FSLOT its slot in `A`. -/
def wordsNarrow : List (List Word × Instr) :=
  [([0x54182870], .cvt 5 6 0x2A 0), ([0x0E1A8071], .qnt 80 6 7 0), ([0x0E1A8072], .dqnt 80 6 7 0),
   ([0x0E1A8073], .had 80 6 7 0), ([0x10182B74], .pack4 5 6 8 3), ([0x06182875], .unpk4 5 6 3 0),
   ([0x10182B76], .scale 5 6 8 3), ([0x08182877], .fslot 5 6 4 0)]
theorem test_decode_narrow : wordsNarrow.all readsAs = true := by decide +kernel

/-- Table 2.8, Table 2.3: SUB [21:16] of word 1 holds the operation, IMM10 [31:22]; q159 is 0x9F, qd 0xA0. -/
def wordsUniform : List (List Word × Instr) :=
  [([0x504F8480, 0x001B0007], .uniformAluReg 0x1B 159 160 7 4),
   ([0x04840481, 0xFFA40000], .uniformAluImm 0x24 8 9 0x3FE 4), ([0x00508182, 0x89ABCDEF], .moviQ 161 0x89ABCDEF 1),
   ([0x04838183, 0xFFFFFFFF], .addQLi 7 9 0xFFFFFFFF 1), ([0x00040084, 0x80000000], .moviI64 8 0x80000000 0),
   ([0x513F8085, 0x00000000], .movVq 127 162 0)]
theorem test_decode_uniform : wordsUniform.all readsAs = true := by decide +kernel

/-- Table 4.3. -/
def wordsControl : List (List Word × Instr) :=
  [([0x00000090, 0xFFFFFFF0], .bra 0xFFFFFFF0 0), ([0x06800091, 0x00000004], .brq true 5 4 0),
   ([0x00000792, 0x00000009], .call 9 7), ([0x02000093, 0x00000000], .brx 4 0), ([0x3F000094, 0x00000000], .callx 126 0),
   ([0x00000095, 0x00000000], .ret 0), ([0x00000095, 0x00010000], .exit 0), ([0x00000096, 0x00000000], .nop 0),
   ([0x00000096, 0x00010000], .yield 0), ([0x00000397, 0x00000000], .qsync 3),
   ([0x01008098, 0x26800403], .plop 1 2 3 4 0x9A 0), ([0x01008099, 0x26800403], .qplop 1 2 3 4 0x9A 0),
   ([0x0103009A, 0x00020000], .vote 2 6 2 0), ([0x0194009B, 0x00000000], .ballot 40 3 0),
   ([0x0302809C, 0x00000209], .lxch 0 5 6 9 2 0 0), ([0x0302809C, 0x07C30200], .lxch 3 5 6 0 2 31 0),
   ([0x0346009D, 0x000A0000], .qred 10 140 6 0), ([0x0302809E, 0x00040100], .qscan 4 5 6 true 0),
   ([0x0302809F, 0x00010000], .match_ true 5 6 0)]
theorem test_decode_control : wordsControl.all readsAs = true := by decide +kernel

/-- Table 2.8, 0xE0 to 0xEC: `D` is a v register, or a pc field. -/
def wordsLong : List (List Word × Instr) :=
  [([0x000280E0, 0xDEADBEEF], .moviLi 5 0xDEADBEEF 0), ([0x030282E1, 0x80000001], .addLi 5 6 0x80000001 2),
   ([0x030282E2, 0x80000001], .mulLi 5 6 0x80000001 2), ([0x030282E3, 0x80000001], .madLi 5 6 0x80000001 2),
   ([0x030282E4, 0x80000001], .andLi 5 6 0x80000001 2), ([0x030282E5, 0x80000001], .orLi 5 6 0x80000001 2),
   ([0x030282E6, 0x80000001], .xorLi 5 6 0x80000001 2), ([0x031300E7, 0x00000007], .isetI32Li 6 4 6 7 0),
   ([0x031300E8, 0x00000007], .isetN32Li 6 4 6 7 0), ([0x030280E9, 0x3F800000], .faddLi 5 6 0x3F800000 0),
   ([0x030280EA, 0x3F800000], .fmulLi 5 6 0x3F800000 0), ([0x030280EB, 0x3F800000], .ffmaLi 5 6 0x3F800000 0),
   ([0x033F00EC, 0x00000007], .fsetLi 6 15 6 7 0)]
theorem test_decode_long : wordsLong.all readsAs = true := by decide +kernel

/-- Tables 2.10 and 8.10: C is last use [7], priority [6:5], order [4:3], scope [2:0]; SUB is space [5:3], size [2:0]. -/
def wordsAccess : List (List Word × Instr) :=
  [([0x050458A0, 0xFF66C003], .ld ⟨0, true, 3⟩ ⟨8, 10, 3, true, 2, .plain, .none, .g, .x4, 1021⟩),
   ([0x050440A1, 0x01630CFF], .ldSh ⟨0, true, 0⟩ ⟨8, 10, 255, false, 0, .acq, .dv, .g, .i16, 5⟩),
   ([0x7F8400A2, 0x00406000], .st ⟨0, false, 0⟩ ⟨8, 255, 0, false, 3, .plain, .none, .p, .n8, 1⟩),
   ([0x050478A3, 0x00251303], .stSh ⟨0, true, 7⟩ ⟨8, 10, 3, false, 0, .rel, .cl, .g, .w64, 0⟩),
   ([0x058448A4, 0x000C0AFF], .ldq ⟨0, true, 1⟩ ⟨8, 11, 255, false, 0, .acq, .cr, .s, .w32, 0⟩),
   ([0x060448A5, 0x00260D9F], .ldqSh ⟨0, true, 1⟩ ⟨8, 12, 159, false, 0, .acq, .sy, .g, .x4, 0⟩),
   ([0x058480A6, 0x00121105], .stq ⟨0, false, 0⟩ ⟨9, 11, 5, false, 0, .rel, .q, .c, .n16, 0⟩),
   ([0x060480A7, 0x0024A005], .stqSh ⟨0, false, 0⟩ ⟨9, 12, 5, true, 1, .plain, .none, .g, .w32, 0⟩),
   ([0x050001A8, 0xFFE24003], .pref 1 2 .g 2 10 3 0x3FF), ([0x038050A9, 0x024100FF], .cmaint ⟨0, true, 2⟩ 1 .p 7 0xFF 9),
   ([0x038050AA, 0x03400000], .carve ⟨0, true, 2⟩ 7 13)]
theorem test_decode_access : wordsAccess.all readsAs = true := by decide +kernel

/-- Table 9.5, R226, R229, R231: C[7] is the space, SUB the width [5:4] and operation [3:0]. -/
def wordsAtomics : List (List Word × Instr) :=
  [([0x060748B0, 0xFF1B5CFF], .atom ⟨0, true, 1⟩ ⟨14, 12, 255, false, 2, .acqrel, .dv, 1, 11, 1020⟩),
   ([0x058848B1, 0x00108003], .cas ⟨0, true, 1⟩ ⟨16, 11, 3, true, 0, .plain, .none, 1, 0, 0⟩),
   ([0x060800B2, 0x042C1303], .red ⟨0, false, 0⟩ ⟨16, 12, 3, false, 0, .rel, .cl, 2, 12, 16⟩),
   ([0x060468B3, 0x00290009], .atomq ⟨0, true, 5⟩ ⟨8, 12, 9, false, 0, .plain, .none, 2, 9, 0⟩),
   ([0x050A60B4, 0x043F70FF], .stamp ⟨0, true, 4⟩ false 3 16 63 16 20 10 0xFF),
   ([0x000000B5, 0x00050100], .stampsync ⟨0, false, 0⟩ true 5), ([0x0A0440B6, 0x00080309], .nred ⟨0, true, 0⟩ 8 8 20 9 3)]
theorem test_decode_atomics : wordsAtomics.all readsAs = true := by decide +kernel

/-- Tables 10.2 and 2.10, R49: a number comes from `B` when C[7] is 1, a handle word from C when IMM10[9] is 1. -/
def wordsSynchronisation : List (List Word × Instr) :=
  [([0x000000B8, 0x001D0000], .fence ⟨0, false, 0⟩ .full .sy),
   ([0x0004D0B9, 0x02C00300], .bararv ⟨0, true, 2⟩ ⟨false, 9, .imm 11, .cl⟩),
   ([0x048000BA, 0x00018428], .barwt ⟨0, false, 0⟩ ⟨true, 9, .reg 40, .dv⟩),
   ([0x000000BB, 0x00C10200], .barsyn ⟨0, false, 0⟩ ⟨true, 0, .imm 3, .cr⟩),
   ([0x0004C0BC, 0x00C00500], .gbar ⟨0, true, 0⟩ 0 9 0 .sy 3),
   ([0x048000BC, 0x00010000], .gbar ⟨0, false, 0⟩ 1 0 9 .none 0), ([0x038000BD, 0x01400000], .stdef 0 7 (.imm 5)),
   ([0x038000BD, 0x0000801E], .stdef 0 7 (.reg 30)), ([0x050000BE, 0x0100000B], .hacq ⟨0, false, 0⟩ (.imm 4) 10 11),
   ([0x060000BE, 0x80010300], .hexp ⟨0, false, 0⟩ (.reg 3) 12),
   ([0x000740BE, 0x09020000], .htake ⟨0, true, 0⟩ (.imm 0x24) 14),
   ([0x000000BE, 0x07C30000], .hfree ⟨0, false, 0⟩ (.imm 31)),
   ([0x0384C0BF, 0x00058208], .waitc ⟨0, true, 0⟩ false 5 true .cr 9 7 8)]
theorem test_decode_synchronisation : wordsSynchronisation.all readsAs = true := by decide +kernel

/-- Table 12.6, R294: IMM10 names the station. -/
def wordsMatrix : List (List Word × Instr) :=
  [([0x050000C0, 0x03CD000B], .mload ⟨0, false, 0⟩ (.imm 15) true 5 10 11), ([0x000000C1, 0x82400000], .mswap 0 (.reg 9)),
   ([0x050048C2, 0x013B0C0B], .mstream ⟨0, true, 1⟩ (.imm 4) true 6 3 10 11 12),
   ([0x000000C3, 0x01020C00], .mzero ⟨0, false, 0⟩ (.imm 4) 2 12),
   ([0x050000C4, 0x01110C0B], .mfill ⟨0, false, 0⟩ (.imm 4) .g 1 10 11 12),
   ([0x048080C5, 0x012D0C0B], .mdrain ⟨0, false, 0⟩ (.imm 4) true true .k 1 9 11 12),
   ([0x050440C6, 0x010B0000], .mdrainv ⟨0, true, 0⟩ (.imm 4) 2 3 8 10), ([0x000002C7, 0x00000000], .mopf 2),
   ([0x000058C8, 0x00000000], .mwait ⟨0, true, 3⟩), ([0x0010C0C9, 0x00240000], .mstat ⟨0, true, 0⟩ true 4 33)]
theorem test_decode_matrix : wordsMatrix.all readsAs = true := by decide +kernel

/-- Table 13.6, R323. -/
def wordsCopy : List (List Word × Instr) :=
  [([0x0F0048D0, 0x000F0000], .cpdesc ⟨0, true, 1⟩ 15 30),
   ([0x4D8600D1, 0x01030000], .cpload ⟨0, false, 0⟩ 3 (.imm 4) 12 155),
   ([0x080680D2, 0x00050000], .cpstore ⟨0, false, 0⟩ 5 13 16),
   ([0x0C0600D3, 0x80020919], .cpgather ⟨0, false, 0⟩ 2 (.reg 9) 12 24 25),
   ([0x080600D4, 0x0103001A], .cpmcast ⟨0, false, 0⟩ 3 (.imm 4) 12 16 26),
   ([0x0D8600D5, 0x0180001C], .cpfill ⟨0, false, 0⟩ (.imm 6) 12 27 28),
   ([0x000650D6, 0x01C00000], .fetchw ⟨0, true, 2⟩ (.imm 7) 12), ([0x149458D6, 0x00010000], .growg ⟨0, true, 3⟩ 40 41),
   ([0x150000D7, 0x00010000], .spend ⟨0, false, 0⟩ true 42)]
theorem test_decode_copy : wordsCopy.all readsAs = true := by decide +kernel

/-- Table 14.7. -/
def wordsBag : List (List Word × Instr) :=
  [([0x050440D8, 0x00000D0C], .bagnew ⟨0, true, 0⟩ 8 10 12 13),
   ([0x040A00D9, 0x00030715], .bagput ⟨0, false, 0⟩ 3 20 8 21 7), ([0x040000DA, 0x00000000], .bagcut ⟨0, false, 0⟩ 8),
   ([0x0404C0DB, 0x00010000], .bagcnt ⟨0, true, 0⟩ true 9 8 0),
   ([0x0404C0DB, 0x00000007], .bagcnt ⟨0, true, 0⟩ false 9 8 7), ([0x043E40DC, 0x00000007], .bagmap ⟨0, true, 0⟩ 124 8 7),
   ([0x040000DD, 0x00000000], .bagdrn ⟨0, false, 0⟩ 8), ([0x040000DE, 0x00000009], .baggrow ⟨0, false, 0⟩ 8 9),
   ([0x040070DF, 0x00000000], .bagfree ⟨0, true, 6⟩ 8)]
theorem test_decode_bag : wordsBag.all readsAs = true := by decide +kernel

/-- Table 15.5, Table 15.1. -/
def wordsSystem : List (List Word × Instr) :=
  [([0x000000F0, 0x32000000], .trap ⟨0, false, 0⟩ 200), ([0x000000F1, 0x00C00000], .svc ⟨0, false, 0⟩ 3),
   ([0x000000F2, 0x00000000], .tret ⟨0, false, 0⟩), ([0x000400F3, 0x00020012], .movs 0 true false 8 18),
   ([0x000480F3, 0x00010008], .movs 0 false true 9 8), ([0x048000F4, 0x00010027], .movsw 0 false true 9 39),
   ([0x000001F5, 0x3FC00000], .brk 1 255), ([0x000048F6, 0x00030000], .ctxsv ⟨0, true, 1⟩ 3),
   ([0x000000F7, 0x00020000], .ctxld ⟨0, false, 0⟩ 2)]
theorem test_decode_system : wordsSystem.all readsAs = true := by decide +kernel

/-! ### Instructions that only compute: witnesses -/

/-- The state in which the turn of a placed gathering to issue `i` has come (State.withFetchWord). -/
def on (i : Instr) : State :=
  let ws := encode i
  { State.reset.withFetchWord (32 * ws.length) ((ws.getD 0 0).toNat + 2 ^ 32 * (ws.getD 1 0).toNat) with
    cur := some ⟨0, ws.length, 0⟩, agenda := [] }
/-- In state `s` instruction `i` issues, no soft error meets it, and `more` holds. -/
def issues (s : State) (i : Instr) (more : State → Ctx → Bool) : Bool := (s.ctxOf i).any fun c => c.upset.isNone && more s c
/-- The v and p registers that the instruction names are there and settled in every taking thread. -/
def vecReady (i : Instr) (s : State) (c : Ctx) : Bool :=
  let u := s.usesOf c.q i
  c.takers.length == 32 && c.takers.all fun x => (s.thread x).hasV c.now (u.rv ++ u.wv) && (s.thread x).hasP c.now (u.rp ++ u.wp)
/-- The q and qp registers that it names are there and settled in its quire, and none is a port. -/
def uniReady (i : Instr) (s : State) (c : Ctx) : Bool :=
  let u := s.usesOf c.q i
  decide (c.q < s.quires.length) && portsOf (u.rq ++ u.wq) == [] && (s.quire c.q).hasQ c.now c.hand (u.rq ++ u.wq) &&
  (s.quire c.q).hasQp c.now (u.rqp ++ u.wqp)

/-- The statements from IntegerTwoOperand to NibbleMoves and VectorFrame, for each F1 instruction and long immediate: it issues
with every register it names settled. -/
theorem test_vector_met : (wordsInteger ++ wordsShifts ++ wordsFloat ++ wordsNarrow ++ wordsLong).all
    (fun x => x.2.wf && x.2.vecForm && issues (on x.2) x.2 (vecReady x.2)) = true := by decide +kernel
/-- The same at the last register, and with one register for every operand. -/
theorem test_vector_met_edge : ([.add 127 127 127 0, .addc 0 0 0 7, .madwI32 126 126 126 0, .bfi 127 0 127 0, .fmin 3 0 0 0 0,
    .isetI64 7 5 126 126 0, .sel 7 127 0 127 0, .qnt 0 96 7 0] : List Instr).all (fun i => issues (on i) i (vecReady i)) = true := by decide +kernel

/-- UniformAlu, UniformImmediates, UniformFrame, SelectAndMove (MOV): register and immediate forms, pairs, a compare, ICVT, SEL, ADDC. -/
theorem test_uniform_met : ([.uniformAluReg 0 159 158 157 0, .uniformAluReg 3 4 4 4 0, .uniformAluReg 0x28 4 6 158 0, .uniformAluReg 0x27 0x2F 4 6 0,
    .uniformAluReg 0x2E 4 6 0x5B 0, .uniformAluReg 0x3F 4 5 6 0, .uniformAluReg 0x23 4 5 0 0, .uniformAluImm 0x1B 4 5 0x200 0,
    .uniformAluImm 0x28 4 6 0x3FF 0, .uniformAluImm 7 4 4 0 0, .moviQ 0 5 0, .addQLi 159 0 5 0, .moviI64 158 0x80000000 0] : List Instr).all
    (fun i => i.wf && i.uniForm && issues (on i) i (uniReady i)) = true := by decide +kernel
theorem test_mov_met : issues (on (.movVq 127 159 0)) (.movVq 127 159 0) (fun s c => uniReady (.movVq 127 159 0) s c && vecReady (.movVq 127 159 0) s c)
    = true := by decide +kernel

/-- The placed state with words waiting in every queue of its team (R250). -/
def queued (s : State) : State := s.modTeam 0 (fun t => { t with queues := List.replicate 6 [⟨1, 0, 0⟩, ⟨2, 0, 0⟩] })
/-- QueuePorts: each clause, a push on `qr` and pops of `qd` and `qx0`. -/
theorem test_ports_met : ([.moviQ 161 7 0, .addQLi 162 160 7 0, .addQLi 162 162 7 0, .movVq 5 160 0] : List Instr).all
    (fun i => issues (queued (on i)) i (fun s c => decide ((s.quire c.q).team < s.teams.length) && (s.team 0).queues.length == 6 &&
      c.takers.all fun x => (s.thread x).hasV c.now [5])) = true := by decide +kernel

/-- The placed state with block 0 of the address space mapped to itself, with every permission, 64 KiB (R183, R185), and
limits that make the other spaces usable. -/
def mapped (s : State) : State :=
  let s := s.modCore 0 (fun k => { k with tlb := [{ root := 0, page := 0, pte := 0x3F, size := 16 }] })
  (s.modTeam 0 (fun t => { t with allot := 1 })).modGrid 0 (fun g => { g with record := { g.record with privLim := 64, ksize := 4096 } })

/-- The thread may go to the target (R30). -/
def mayBranch (a : Addr) (s : State) (x : ThreadId) : Bool := match s.checkTarget x a with | .ok _ => true | _ => false
/-- The placed state whose partition has a vector for its handlers. -/
def vectored (s : State) : State := s.modPart 0 (fun p => { p with tvec := 0x2000, svec := 0x3000, rvec := 0x4000 })
/-- A trap of the thread enters its handler at once. -/
def entersOk (s : State) (x : ThreadId) : Bool := (s.quire x.quire).role != .spine && !(s.thread x).hand && !s.olderWrites x &&
  (s.part (s.partOfCore (s.quire x.quire).core)).tvec != 0
/-- Branches: BRA; BRQ with its predicate settled. -/
theorem test_branches_met : issues (mapped (on (.bra 0xFFFFFFFF 0))) (.bra 0xFFFFFFFF 0) (fun s c => c.takers.all (mayBranch (c.g.hdr - 4) s)) = true ∧
    issues (mapped (on (.brq true 0 5 0))) (.brq true 0 5 0) (fun s c => (s.quire c.q).hasQp c.now [0] && c.takers.all (mayBranch (c.g.hdr + 20) s)) = true := by decide +kernel
/-- The second clause of Branches: a target in a page without X, taken by one thread. -/
theorem test_branch_trap_met : (let s := (vectored (mapped (on (.bra 0x10000 0)))).modCore 0 (fun k => { k with tlb := k.tlb ++ [{ root := 0, page := 4, pte := 0x4002F, size := 16 }] })
    let s := s.modQuire 0 (fun q => { q with threads := q.threads.zipIdx.map (fun z => { z.1 with gov := z.2 == 0 }) })
    issues s (.bra 0x10000 0) (fun s c => c.takers == [⟨0, 0⟩] && entersOk s ⟨0, 0⟩ &&
      (match s.checkTarget ⟨0, 0⟩ (c.g.hdr + 0x40000) with | .trap _ => true | _ => false))) = true := by decide +kernel
/-- A register-indirect target of every taking thread passes its checks (R92). -/
def targetOk (a : Nat) (s : State) (c : Ctx) : Bool := c.takers.all fun x => (s.thread x).hasV c.now [a, a + 1] &&
  (match s.checkTarget x (((s.thread x).vpair a).setWidth 48) with | .ok _ => true | _ => false)
/-- IndirectBranches. -/
theorem test_brx_met : issues (mapped (on (.brx 4 0))) (.brx 4 0) (targetOk 4) = true := by decide +kernel
/-- Every taking thread may push. -/
def pushOk (s : State) (c : Ctx) : Bool := c.takers.all fun x => match s.checkPush x with | .ok _ => true | _ => false
/-- Every thread of quire `q` with the return stack given. -/
def withStack (q n spilled : Nat) (s : State) : State := s.modQuire q (fun x => { x with threads := x.threads.map (fun th =>
  { th with rstack := List.replicate n 8, spilled := spilled }) })
/-- ReturnStack: CALL with room in the thread, and with all eight entries held; CALLX. -/
theorem test_call_met : [0, 8].all (fun n => issues (withStack 0 n 0 (mapped (on (.call 2 0)))) (.call 2 0) (fun s c => pushOk s c && c.takers.all (mayBranch (c.g.hdr + 8) s))) = true ∧
    issues (mapped (on (.callx 4 0))) (.callx 4 0) (fun s c => pushOk s c && targetOk 4 s c) = true := by decide +kernel
/-- Every taking thread may pop, and no write of the core is on its way to what it pops. -/
def popOk (s : State) (c : Ctx) : Bool := c.takers.all fun x => match s.checkPop x with
  | .ok ps => !s.chunksBusy c.g.core [{ thread := x, chunks := ps }] &&
      (match s.checkTarget x (((s.thread x).rstack.getLast?).getD (BitVec.ofNat 48 (leNat (s.chunkBytes c.g.core ps)))) with | .ok _ => true | _ => false)
  | _ => false
/-- ReturnStack: RET with an entry in the thread, and with one to be filled from memory. -/
theorem test_ret_met : issues (withStack 0 1 0 (mapped (on (.ret 0)))) (.ret 0) popOk = true ∧
    issues (withStack 0 0 1 (mapped (on (.ret 0)))) (.ret 0) popOk = true := by decide +kernel
/-- SimpleControl, PredicatesAndVotes, LaneReductions: each instruction issues with its registers settled. -/
theorem test_control_met : ([.nop 0, .qsync 0, .yield 0, .exit 0] : List Instr).all (fun i => issues (on i) i (fun _ _ => true)) = true ∧
    ([.plop 7 0 6 7 0x96 0, .lxch 0 5 6 9 2 0 0, .lxch 1 5 6 0 7 31 0, .lxch 4 5 5 0 2 31 0, .qscan 7 5 6 true 0, .qscan 10 5 6 false 0, .match_ true 5 6 0,
      .match_ false 6 6 0] : List Instr).all (fun i => i.wf && issues (on i) i (vecReady i)) = true ∧
    ([.qplop 7 0 6 7 0x96 0, .vote 0 6 2 0, .vote 2 7 7 0, .ballot 159 3 0, .qred 0 4 6 0, .qred 8 4 6 0] : List Instr).all (fun i => i.wf && issues (on i) i
      (fun s c => uniReady i s c && vecReady i s c)) = true := by decide +kernel
/-- FloatMinMax: QRED with a NaN in a participant's register 6. -/
theorem test_qred_nan_met : (let s := (on (.qred 9 4 6 0)).modThread ⟨0, 0⟩ (fun th => { th with v := th.v.set 6 0x7F800001 })
    issues s (.qred 9 4 6 0) (fun s c => uniReady (.qred 9 4 6 0) s c && vecReady (.qred 9 4 6 0) s c && decide (c.q < s.quires.length) &&
      c.takers.any (fun z => z.quire == c.q && z.lane < 32 && isNaN32 ((s.thread z).vreg 6)))) = true := by decide +kernel

/-! ### Accesses and barriers: witnesses -/

/-- No thread's record is out, when none of those listed has one out. -/
theorem noneOut_of (s : State) (h : (s.quires.all fun q => q.threads.all fun th => !th.out) = true) : s.noneOut := by
  intro x
  simp only [State.thread, State.quire, List.getD_eq_getElem?_getD]
  cases hq : s.quires[x.quire]? with
  | none => simp [Quire.absent, Thread.absent, Thread.placed]
  | some q =>
    simp only [Option.getD_some]
    cases ht : q.threads[x.lane]? with
    | none => simp [Thread.absent, Thread.placed]
    | some th =>
      have := List.all_eq_true.mp h q (List.mem_of_getElem? hq)
      simpa using List.all_eq_true.mp this th (List.mem_of_getElem? ht)

/-- `State.goes`, with the places that the checks give. -/
def goesOk (i : Instr) (s : State) (c : Ctx) : Bool :=
  (c.accessors i).all (fun x => match s.accessOf c x i with | .ok ps => !s.lineHeld { thread := x, chunks := ps } | _ => false) &&
  decide (s.outstanding c.g.core + (c.accessors i).length * 4 ≤ 3072)
/-- AccessesIssue and StoredBytes, first clauses: every access instruction, in each space, at both ends of its range. -/
theorem test_access_met : ([.ld h1 acc, .ld h1 { acc with space := .p, a := 0xFF, imm := 60 }, .ldSh h1 { acc with order := .acq, scope := .dv, d := 12, size := .x4 },
    .st h0 acc, .st h0 { acc with space := .s, a := 4, imm := 0x1FC }, .st h0 { acc with space := .c, a := 4 }, .st h0 { acc with space := .k, a := 4, size := .n8 },
    .stSh h0 { acc with order := .rel, scope := .sy }, .ldq h1 acc, .ldqSh h1 acc, .stq h0 acc, .stq h0 { acc with space := .s, a := 5 }, .stqSh h0 acc,
    .cmaint h0 2 .g 10 0xFF 0, .atom h1 atm, .cas h1 { atm with w := 1 }, .red h0 { atm with k := true, a := 5 }, .atomq h1 { atm with w := 2 },
    .stamp h1 false 3 16 0 16 8 10 0xFF, .nred h1 8 8 10 4 5, .waitc h1 true 0 false .dv 8 10 12] : List Instr).all
    (fun i => i.wf && i.accesses && issues (mapped (on i)) i (goesOk i)) = true := by decide +kernel

/-- AccessesIssue, second clause: an address that is not aligned, one outside the private limit, one that lies on no page. -/
theorem test_access_trap_met : ([.ld h1 { acc with imm := 1 }, .st h0 { acc with space := .p, a := 0xFF, imm := 61, size := .n16 },
    .ldq h1 { acc with space := .s, a := 4, imm := 0x3FC }, .red h0 { atm with w := 2, imm := 8, d := 8 }] : List Instr).all (fun i =>
      issues (vectored (mapped (on i))) i (fun s c => decide c.takers.Nodup && c.takers.all (entersOk s) &&
        (c.accessors i).all fun x => match s.accessOf c x i with | .trap _ => true | _ => false)) = true := by decide +kernel
/-- AccessesIssue, third clause. -/
theorem test_pref_met : ([.pref 1 2 .g 2 10 3 0x3FF, .pref 0 0 .p 0 0xFF 0xFF 0] : List Instr).all (fun i => issues (on i) i (fun _ _ => true)) = true := by decide +kernel
/-- StoredBytes, second and third clauses: a quad at the top of the registers. -/
theorem test_data_met : issues (on (.st h0 { acc with d := 124, size := .x4 })) (.st h0 { acc with d := 124, size := .x4 }) (fun s c =>
    c.takers.all (fun x => (s.thread x).hasV c.now (span 124 ((16 + 3) / 4))) && (s.quire c.q).hasQ c.now c.hand (span 156 ((16 + 3) / 4))) = true := by decide +kernel
/-- CoreStores: one access, in one line of memory that it maps. -/
theorem test_core_store_met : issues (mapped (on (.stq h0 { acc with d := 156, size := .x4, imm := 112 }))) (.stq h0 { acc with d := 156, size := .x4, imm := 112 })
    (fun s c => decide (c.g.core < s.cores.length) && c.accessors (.stq h0 { acc with d := 156, size := .x4, imm := 112 }) == [⟨0, 0⟩] &&
      (match s.accessOf c ⟨0, 0⟩ (.stq h0 { acc with d := 156, size := .x4, imm := 112 }) with
        | .ok ps => ps.map (fun ch => (ch.place, ch.off, ch.size)) == [(.g 112, 0, 16)] | _ => false)) = true := by decide +kernel

/-- Every taking thread has owner `T` for barriers of this kind, and is of their population. -/
def ownersOk (kind : BarKind) (T : Nat) (s : State) (c : Ctx) : Bool :=
  c.takers.all fun x => s.ownerOf kind x == T && (s.population kind T).contains x && (s.thread x).hasV c.now [9]
/-- BarrierArrivals: each form, with a scope and without, and the barrier free of a CARVE. -/
theorem test_arrivals_met : ([(.bararv h1 ⟨false, 9, .imm 15, .none⟩, .team), (.bararv h1 ⟨true, 9, .imm 3, .sy⟩, .gang), (.barsyn h0 ⟨false, 0, .reg 40, .none⟩, .team),
    (.barsyn h0 ⟨true, 0, .imm 0, .none⟩, .gang), (.gbar h1 0 9 0 .none 3, .grid), (.gbar h0 2 0 0 .q 0, .grid)] : List (Instr × BarKind)).all
    (fun z => issues (on z.1) z.1 (fun s c => (s.arrivalOf c z.1).any (fun a => a.1 == z.2 && decide (a.2.1 < 16)) && ownersOk z.2 0 s c &&
      (s.grid (s.gridOf c.q)).multi != .reserved && (s.bar .team 0 15).carve.isNone && decide ((s.team 0).barriers.length = 16))) = true := by decide +kernel
/-- BarrierWaits: a phase that is reached, one that is not, with and without a scope; CARVE as first and as last arrival. -/
theorem test_waits_met : ([.barwt h0 ⟨false, 9, .imm 15, .none⟩, .barwt h0 ⟨true, 9, .imm 3, .cl⟩, .gbar h0 1 0 9 .dv 3] : List Instr).all (fun i =>
      issues (on i) i (ownersOk .team 0) && issues (on i) i (ownersOk .gang 0) && issues (on i) i (ownersOk .grid 0)) = true ∧
    issues (on (.carve h0 7 15)) (.carve h0 7 15) (fun s c => uniReady (.carve h0 7 15) s c && ownersOk .team 0 s c && (s.bar .team 0 15).carve.isNone &&
      s.carveFits 0 0) = true ∧
    issues (vectored ((on (.carve h0 7 15)).modQuire 0 (fun q => { q with q := q.q.set 7 200 }))) (.carve h0 7 15) (fun s c => uniReady (.carve h0 7 15) s c && ownersOk .team 0 s c &&
      c.takers.all (entersOk s) && decide c.takers.Nodup && s.qn c 7 == 200 && !s.carveFits 0 200 && !(s.bar .team 0 15).hold && (s.teamLive 0).all c.takers.contains) = true := by decide +kernel
/-- The hypothesis on thread records, in the placed state of BarrierArrivals, BarrierWaits and TrapReturn. -/
theorem test_none_out : (on (.carve h0 7 15)).noneOut := noneOut_of _ (by decide)

/-- OutstandingOperations: the operations of the machine have identities of their own in the placed state, and a privileged one
issues in handler mode. -/
def handler (s : State) : State := { s with quires := s.quires.map (fun q => { q with threads := q.threads.map (fun th => { th with hand := true }) }) }
theorem test_outstanding_met : ([.fence h0 .full .sy, .fence h0 .acq .q, .stampsync h0 true 0, .mwait h0, .mopf 0, .mstat h1 false 0 9, .mstat h1 true 4 9] : List Instr).all
    (fun i => issues (on i) i (fun s c => decide s.opsOk && s.ops.isEmpty && decide (c.g.core < s.cores.length) && (s.unit c.g.core).status.length == 4 &&
      (s.unit c.g.core).ops.isEmpty)) = true ∧
    ([.ctxsv h0 0, .ctxsv h0 3, .ctxld h0 1, .ctxld h0 2] : List Instr).all (fun i => issues (handler (on i)) i (fun _ _ => true)) = true := by decide +kernel
/-- An access of thread 0 of quire 0 that is outstanding. -/
def busyOp : Op :=
  { id := 1, kind := .mem, threads := [⟨0, 0⟩], ctr := none, core := 0, quire := 0, hdr := 0, pos := 0, phase := .active, rel := .none,
    acq := .none, reads := true, wrThru := false, lines := [], dests := [], uniform := false }
theorem test_mopf_late_met : issues { (on (.mopf 0)) with ops := [busyOp] } (.mopf 0) (fun _ c => c.takers.contains ⟨0, 0⟩) = true := by decide +kernel

/-! ### Stations, handles, copies, bags and the system: witnesses -/

/-- Station 5 of core 0 owned by team 0, for `n` threads, and the unit held by it. -/
def stationed (n : Nat) (s : State) : State := s.modCore 0 (fun k =>
  { k with stations := k.stations.set 5 { owner := some 0, n := n, signers := [], set := none }, unit := { k.unit with holder := some 0 } })
theorem test_stdef_met : ([.stdef 0 7 (.imm 15), .stdef 0 7 (.reg 30)] : List Instr).all (fun i => issues (on i) i (fun s c => uniReady i s c &&
    decide (s.qn c 7 ≤ 3072) && decide ((s.core c.g.core).stations.length = 16) && ((s.core c.g.core).stations.getD 15 Station.reset).owner.isNone)) = true := by decide +kernel
/-- Registers for matrix rounds: a pass word of 16 rows in q12, a stride of 1024 in q11. -/
def passed (s : State) : State := s.modQuire 0 (fun q => { q with q := (q.q.set 12 16).set 11 1024 })
/-- The checks of the round that the gathering completes all pass. -/
def roundOk (i : Instr) (s : State) (c : Ctx) : Bool :=
  match s.roundCheck 0 0 c.lead false (opcodeSet i) (i.uses.rq.map ((s.quire c.q).qreg c.hand)) with | .ok _ => true | .error _ => false
/-- Stations: each signing instruction, when the round is not complete with it, and when it is. -/
theorem test_signing_met : ([.mload h0 (.imm 5) false 0 10 10, .mswap 0 (.imm 5), .mzero h0 (.imm 5) 0 12, .mfill h0 (.imm 5) .g 0 8 11 12,
    .mdrain h0 (.imm 5) false false .s 0 10 11 12, .mdrainv h1 (.imm 5) 2 3 8 10] : List Instr).all (fun i =>
      issues (passed (mapped (stationed 64 (on i)))) i (fun s c => uniReady i s c && i.station?.isSome && decide s.opsOk && decide (c.takers.length < 64)) &&
      issues (passed (mapped (stationed 32 (on i)))) i (fun s c => decide (c.takers.length = 32) && roundOk i s c)) = true := by decide +kernel
/-- The same for MSTREAM, when an MLOAD has filled the active plane with its format. -/
theorem test_mstream_met : issues ((passed (mapped (stationed 32 (on (.mstream h0 (.imm 5) true 0 3 10 10 12))))).modUnit 0 (fun u =>
    { u with issued := [some 0x80000200, none] })) (.mstream h0 (.imm 5) true 0 3 10 10 12) (fun s c => roundOk (.mstream h0 (.imm 5) true 0 3 10 10 12) s c) = true := by decide +kernel

/-- Handle 4 of team 0 in a state, with a buffer of 4096 bytes. -/
def handled (st : HState) (err : Bool) (s : State) : State :=
  let x : Handle := { Handle.reset with state := st, err := err, size := 4096 }
  (s.modTeam 0 (fun t => { t with allot := 1, handles := t.handles.set 4 x })).modQuire 0 (fun q => { q with q := (q.q.set 11 128).set 12 4096 })
/-- Handles: HACQ of a free handle and of one that is not, HEXP that meets the deliveries and one that does not, HTAKE and HFREE. -/
theorem test_handles_met : ([(.hacq h0 (.imm 4) 10 11, .free, false), (.hacq h0 (.imm 4) 10 11, .full, false), (.hexp h0 (.imm 4) 10, .filling, false),
    (.hexp h0 (.imm 4) 12, .filling, false), (.htake h1 (.imm 4) 8, .full, false), (.htake h1 (.imm 0x24) 8, .full, false), (.hfree h0 (.imm 4), .draining, false),
    (.hfree h0 (.imm 4), .filling, true)] : List (Instr × HState × Bool)).all (fun z => issues (handled z.2.1 z.2.2 (on z.1)) z.1 (fun s c =>
      uniReady z.1 s c && decide s.opsOk && (s.handle 0 4).state == z.2.1 && (s.team 0).hwait.isEmpty && decide (s.qn c 10 + s.qn c 11 ≤ 65536))) = true ∧
    ([(.filling, true), (.free, false), (.draining, false)] : List (HState × Bool)).all (fun z => issues (vectored (handled z.1 z.2 (on (.hexp h0 (.imm 4) 12)))) (.hexp h0 (.imm 4) 12)
      (fun s c => uniReady (.hexp h0 (.imm 4) 12) s c && c.takers.all (entersOk s) && decide c.takers.Nodup)) = true := by decide +kernel

/-- A tensor descriptor (Tables 13.4, 13.5): two dimensions of 4 elements of 4 bytes, rows 16 bytes apart, in a box of 4 by 4. -/
def descBytes : List Byte := leBytes 8 0 ++ leBytes 8 0x22 ++ leBytes 4 4 ++ leBytes 4 4 ++ List.replicate 16 0 ++ leBytes 8 4 ++ leBytes 8 16 ++
  List.replicate 24 0 ++ leBytes 4 4 ++ leBytes 4 4 ++ List.replicate 40 0
/-- The placed state with that descriptor in slot 3, and in memory at the address in q30, handle 4 filling, and q12 the mask of team 0,
q13 a count. -/
def copying (s : State) : State :=
  let s := handled .filling false (mapped s)
  let s := s.modTeam 0 (fun t => { t with desc := t.desc.set 3 (some descBytes) })
  ((s.modQuire 0 (fun q => q)).modQuire 1 (fun q => { q with q := ((q.q.set 30 256).set 12 1).set 13 4 })).memWrite 256 descBytes
/-- What the copy commands that move a box share: a place in flight, the slot loaded and not busy, room in the handle, every page sound. -/
def boxOk (i : Instr) (d a : Nat) (kind : AccKind) (s : State) (c : Ctx) : Bool :=
  decide (s.inFlight c.g.core < 16) && uniReady i s c && decide ((s.quire c.q).team = 0) && !s.descBusy 0 0 3 &&
  ((s.quire c.q).qreg c.hand d).toNat % 16 == 0 &&
  (s.descOf 0 3).any (fun ds => ds.ok && decide (((s.quire c.q).qreg c.hand d).toNat + ds.bytes ≤ (s.handle 0 4).size) && ds.bytes == 64 &&
    (s.elemFault 0 0 kind ds.e ((ds.boxAddrs (fun k => ((s.quire c.q).qreg c.hand (a + k)).toInt)).filterMap id)).isNone)
/-- CopyCommands: each clause. -/
theorem test_copy_met : issues (copying (on (.cpdesc h1 2 30))) (.cpdesc h1 2 30) (fun s c => boxOk (.cpdesc h1 2 30) 8 16 .read s c &&
      (match s.translateNow 0 0 false .read 256 128 with | .ok pa => (Desc.parse (s.memBytes pa 128)).ok | .error _ => false)) = true ∧
    issues (copying (on (.cpload h0 3 (.imm 4) 8 16))) (.cpload h0 3 (.imm 4) 8 16) (boxOk (.cpload h0 3 (.imm 4) 8 16) 8 16 .read) = true ∧
    issues (copying (on (.cpstore h0 3 8 155))) (.cpstore h0 3 8 155) (boxOk (.cpstore h0 3 8 155) 8 155 .write) = true ∧
    issues (copying (on (.cpgather h0 3 (.imm 4) 8 9 13))) (.cpgather h0 3 (.imm 4) 8 9 13) (fun s c => boxOk (.cpgather h0 3 (.imm 4) 8 9 13) 8 16 .read s c &&
      s.qn c 13 == 4 && s.qn c 9 == 0 && decide ((s.team 0).allot = 1)) = true ∧
    issues (copying (on (.cpmcast h0 3 (.imm 4) 8 16 12))) (.cpmcast h0 3 (.imm 4) 8 16 12) (fun s c => boxOk (.cpmcast h0 3 (.imm 4) 8 16 12) 8 16 .read s c &&
      s.qn c 12 == 1 && (s.gang 0).teams == [0]) = true ∧
    issues (copying (on (.cpfill h0 (.imm 4) 8 9 13))) (.cpfill h0 (.imm 4) 8 9 13) (fun s c => boxOk (.cpfill h0 (.imm 4) 8 9 13) 8 16 .read s c && s.qn c 13 == 4) = true ∧
    issues (copying (on (.fetchw h1 (.imm 4) 8))) (.fetchw h1 (.imm 4) 8) (boxOk (.fetchw h1 (.imm 4) 8) 8 16 .read) = true := by decide +kernel
/-- WorkCreation: GROWG in a grid that is not co-resident, SPEND. -/
theorem test_work_met : issues ((on (.growg h1 8 9)).modGrid 0 (fun g => { g with record := { g.record with attr := 0 } })) (.growg h1 8 9) (fun s c =>
      uniReady (.growg h1 8 9) s c && decide s.opsOk && (s.grid 0).record.cor == false && s.qn c 9 % (s.grid 0).record.gangN == 0) = true ∧
    issues (on (.spend h0 true 9)) (.spend h0 true 9) (fun s c => uniReady (.spend h0 true 9) s c && s.ops.isEmpty && (s.core 0).copies.isEmpty) = true ∧
    issues { (on (.spend h0 false 9)) with cores := (on (.spend h0 false 9)).cores.map (fun k => { k with copies := [⟨1, 0, 0, .fill, [], [], 0, [], false, 1⟩] }) }
      (.spend h0 false 9) (fun s c => uniReady (.spend h0 false 9) s c && (s.core 0).copies.any (fun y => y.team == 0)) = true := by decide +kernel

/-- Four pages for a bag under scheme 7 (R339), in the TLB of core 0, a shape word of 4 shares in q12 and a capacity in q13. -/
def baggy (s : State) : State :=
  (s.modCore 0 (fun k => { k with tlb := (List.range 4).map (fun n => { root := 0, page := n, pte := BitVec.ofNat 64 (0x700000000007F + 65536 * n), size := 16 }) })).modQuire 0
    (fun q => { q with q := (q.q.set 12 0x400).set 13 1 })
/-- BagInstructions: BAGNEW whose checks pass, and each other bag instruction. -/
theorem test_bags_met : issues (baggy (on (.bagnew h1 8 10 12 13))) (.bagnew h1 8 10 12 13) (fun s c => uniReady (.bagnew h1 8 10 12 13) s c &&
      (match s.newBag c 0 (s.qv c 12) (s.qv c 13) with | .ok b => b.frames == [0, 65536, 131072, 196608] | .error _ => false)) = true ∧
    ([.bagput h1 3 112 8 21 0, .bagput h0 0 0 8 21 7, .bagcut h0 8, .bagcnt h1 true 9 8 0, .bagcnt h1 false 9 8 7, .bagmap h1 124 8 7, .bagdrn h0 8, .baggrow h0 8 9,
      .bagfree h0 159] : List Instr).all (fun i => i.wf && issues (on i) i (fun s c => uniReady i s c && vecReady i s c)) = true := by decide +kernel

/-- TrapInstructions: with the debugger off and on. -/
theorem test_traps_met : ([.trap h0 255, .svc h0 0, .brk 0 255] : List Instr).all (fun i => issues (vectored (on i)) i (fun s c => decide c.takers.Nodup &&
      c.takers.all (entersOk s) && !(s.part 0).dbg.getLsbD 0)) = true ∧
    issues ((on (.brk 0 1)).modPart 0 (fun p => { p with dbg := 1 })) (.brk 0 1) (fun s c => (s.part (s.partOfCore c.g.core)).dbg.getLsbD 0 &&
      c.takers.all (fun x => decide (s.gangOf x.quire < s.gangs.length) && !(s.gang (s.gangOf x.quire)).dead)) = true := by decide +kernel
/-- Memory with a clause header of COUNT 2 at 0x1000, and its words mapped, for threads in their handlers that trapped in that clause. -/
def returning (cause : Word) (tpc : DWord) (s : State) : State :=
  let set := fun (th : Thread) => { th with hand := true, tcause := cause, tpc := tpc, thdr := 0x1000 }
  let s := vectored (mapped s)
  State.memWrite { s with quires := s.quires.map (fun q => { q with threads := q.threads.map set }) } 0x1000 (leBytes 4 0x00038002)
/-- TrapReturn, first clause: after a save; to the last word of the clause; to the word after it. -/
theorem test_tret_met : ([(0x18, 0x1000), (0x13, 0x1008), (0x13, 0x100C), (0x13, 0x1000)] : List (Word × DWord)).all (fun z =>
    issues (returning z.1 z.2 (on (.tret h0))) (.tret h0) (fun s c => c.takers.all fun x => (s.thread x).tcause == z.1 && !(s.thread x).preempt &&
      (s.thread x).waitK.isNone && (s.thread x).tset.isEmpty && s.codeWord? x 0x1000 == some 0x00038002)) = true ∧
    issues ((returning 0x118 0x1000 (on (.tret h0))).modTeam 0 (fun t => { t with phase := .restoring })) (.tret h0) (fun s c => c.takers.all fun x => (s.thread x).tset.isEmpty &&
      (s.thread x).tcause == 0x118 && (s.team (s.quire x.quire).team).phase == .restoring) = true := by decide +kernel
/-- TrapReturn, second clause: each privileged instruction out of handler mode. -/
theorem test_privileged_met : ([.tret h0, .movsw 0 false false 8 17, .movsw 0 false true 8 32, .ctxsv h0 0, .ctxld h0 3] : List Instr).all (fun i =>
    let s := vectored (on i)
    i.privileged && i.wf && s.cur.isSome && (s.gaths[0]?).any (fun g => !(s.takersOf g).isEmpty && decide (s.takersOf g).Nodup && (s.takersOf g).all (entersOk s))) = true := by decide +kernel
/-- SystemRegisters: reads of each kind of register, at both ends of the numbers with a value; writes in handler mode. -/
theorem test_system_met : ([.movs 0 false false 127 0, .movs 0 true false 126 28, .movs 0 false false 8 24, .movs 0 true false 8 7, .movs 0 false true 159 3, .movs 0 true true 158 7,
      .movs 0 false true 9 9] : List Instr).all (fun i => i.wf && issues (on i) i (fun s c => uniReady i s c && vecReady i s c)) = true ∧
    ([.movsw 0 false false 8 16, .movsw 0 true false 8 20, .movsw 0 false false 8 24, .movsw 0 false true 9 32, .movsw 0 false true 9 39] : List Instr).all
      (fun i => i.wf && issues (handler (on i)) i (fun s c => uniReady i s c && vecReady i s c && (s.quire c.q).fset.isEmpty && (s.quire c.q).hasQ c.now false (span 152 8))) = true ∧
    issues (on (.movsw 0 false true 9 8)) (.movsw 0 false true 9 8) (fun s c => uniReady (.movsw 0 false true 9 8) s c && (s.quire c.q).fset.isEmpty) = true := by decide +kernel

/-! ### Steps of other agents: witnesses -/

/-- A team placed in one grid that is not co-resident, its quire active (R73 to R76), on a device that is enabled. -/
def placed : State :=
  let s : State := { State.reset with dev := { Dev.reset with enok := true, featAcc := [0xF, 0, 0, 0] },
                                      grids := [Grid.fresh 0 7 { placedRecord with attr := 0 } 0 false] }
  mapped ((s.placeNew 0 0 0).modQuire 0 (fun q => { q with active := true }))
/-- The threads of quire 0. -/
def lanes : List ThreadId := (List.range 32).map (fun l => ⟨0, l⟩)
/-- Each thread of quire 0 changed alike. -/
def each (f : Thread → Thread) (s : State) : State := s.modQuire 0 (fun q => { q with threads := q.threads.map f })
/-- A clause at 0x1000 of COUNT 2 that waits on counter 0: ADD and NOP, or the words given. -/
def coded (h : Word) (ws : List Word) (s : State) : State := s.memWrite 0x1000 ((h :: ws).flatMap (fun w => leBytes 4 w.toNat))
/-- The words at 0x1000, checked for every thread listed. -/
def readsOk (s : State) (ms : List ThreadId) (w : Word) (ws : List Word) : Bool :=
  (match s.fetchCheck (ms.headD ⟨0, 0⟩) 0x1000 0 1, s.fetchCheck (ms.headD ⟨0, 0⟩) 0x1000 1 (hdrCount w) with
    | .ok ps, .ok qs => ms.all (fun x => s.fetchCheck x 0x1000 0 1 == .ok ps && s.fetchCheck x 0x1000 1 (hdrCount w) == .ok qs) &&
        (s.fetchWords 0 ps).head? == some w && s.fetchWords 0 qs == ws
    | _, _ => false) && !headerBad w && !wordsBad ws
/-- SchedulerSteps, first clause: threads at the header, with the counter it waits on at zero; and at word 2 of the clause. -/
theorem test_clause_met : (let s := coded 0x00038182 [0x10182800, 0x00182B1F] placed
    s.mayGather lanes && readsOk s lanes 0x00038182 [0x10182800, 0x00182B1F] && (clauseInstrs [0x10182800, 0x00182B1F]).all (fun i => !i.quireWide) &&
    lanes.all (fun x => (s.thread x).waitOk (hdrWait 0x00038182) && (s.thread x).pos == 0)) = true ∧
    (let s := each (fun th => { th with pos := 2 }) (coded 0x00038002 [0x10182800, 0x00182B1F] placed)
    s.mayGather lanes && readsOk s lanes 0x00038002 [0x10182800, 0x00182B1F]) = true := by decide +kernel
/-- Second clause: every thread parked; or ready after a YIELD, when another quire of the issue partition would run. -/
def twoQuires : State := { placed with quires := placed.quires ++ [{ placed.quire 0 with active := false }] }
theorem test_swap_out_met : (let s := each (fun th => { th with stat := .parked .port }) placed
    (s.quire 0).active && (s.quire 0).role != .spine && (s.reconvReady 0).isEmpty && lanes.all (fun x => (s.thread x).stat != .ready && (s.thread x).stat != .gathered)) = true ∧
    (let s := twoQuires.modQuire 0 (fun q => { q with yielded := true })
    (s.quire 0).yielded && lanes.all (fun x => (s.thread x).stat != .gathered) && (s.sameIp 0).contains 2 && s.resolvedQuire 2 && !(s.quire 2).active) = true := by decide +kernel
/-- Third clause. -/
theorem test_activate_met : (let s := twoQuires.modQuire 2 (fun q => { q with resolved := 1 })
    (s.quire 2).resolved == 1 && !(s.quire 2).active && decide (((s.sameIp 2).filter (fun r => (s.quire r).active)).length < 8) &&
    (s.sameIp 2).all (fun r => (s.quire r).active || (s.quire r).resolved == 0 || decide (1 ≤ (s.quire r).resolved))) = true := by decide +kernel
/-- Fourth clause: QSYNC, for threads held at it outside handler mode while others have trapped, and in handler mode. -/
theorem test_reconvergence_met : (let s := (each (fun th => { th with stat := .held }) (coded 0x00038002 [0x97, 0] placed)).modThread ⟨0, 3⟩ (fun th => { th with stat := .saved })
    let s := s.modQuire 0 (fun q => { q with reconv := [(0x1000, false)] })
    (s.quire 0).active && (s.heldAt 0 0x1000 false).length == 31 && (s.heldAt 0 0x1000 false).all s.mayRun && (s.liveOf 0).all (fun x => (s.thread x).stat == .held || (s.thread x).stat == .saved) &&
    readsOk s (s.heldAt 0 0x1000 false) 0x00038002 [0x97, 0]) = true ∧
    (let s := (each (fun th => { th with stat := .held, hand := true }) (coded 0x00038002 [0x97, 0] placed)).modQuire 0 (fun q => { q with reconv := [(0x1000, true)] })
    (s.quire 0).reconv.head? == some (0x1000, true) && (s.heldAt 0 0x1000 false).isEmpty && (s.heldAt 0 0x1000 true).length == 32 && (s.heldAt 0 0x1000 true).all s.mayRun) = true := by decide +kernel
/-- Fifth and sixth clauses: a thread that exits; a trap that waits, a pre-emption that is taken. -/
theorem test_retire_trap_met : (let s := vectored (each (fun th => { th with stat := .exiting }) placed)
    (s.thread ⟨0, 31⟩).d.all (· == 0) && (s.thread ⟨0, 31⟩).stat == .exiting) = true ∧
    (let s := vectored (each (fun th => { th with stat := .trapping { code := .preempt, detail := 1 } }) placed)
    !s.olderWrites ⟨0, 0⟩ && (s.thread ⟨0, 0⟩).stat == .trapping { code := .preempt, detail := 1 }) = true ∧
    (let s := vectored (each (fun th => { th with preempt := true }) placed)
    !s.olderWrites ⟨0, 0⟩ && (s.thread ⟨0, 0⟩).preempt && (s.thread ⟨0, 0⟩).stat == .ready && (s.part 0).svec != 0) = true := by decide +kernel
theorem test_placed_none_out : placed.noneOut := noneOut_of _ (by decide +kernel)

/-- The bytes of a sound launch record for one matrix quire of 16 registers (Table 13.1); `teams` of it. -/
def recordBytes (teams : Nat) : List Byte := leBytes 4 0 ++ leBytes 4 teams ++ leBytes 4 1 ++ leBytes 4 1 ++ leBytes 8 0x1000 ++ leBytes 8 0x1000 ++
  List.replicate 40 0 ++ leBytes 4 (16 + 2 ^ 8 + 2 ^ 15) ++ List.replicate 180 0
/-- A launch queue of four entries at 0x800, its first naming the record at 0x400. -/
def queuedLaunch (teams : Nat) : State :=
  let s : State := { State.reset with dev := { Dev.reset with enok := true } }
  ((s.modPart 0 (fun p => { p with lqBase := 0x800, lqSize := 4, lqHead := 4, lqTail := 5 })).memWrite 0x800 (leBytes 8 0x400 ++ leBytes 8 9)).memWrite 0x400 ((recordBytes teams).take 128)
/-- DistributorSteps, first clause: a sound record, and one that R314 refuses by its second item. -/
theorem test_launch_met : (LaunchRec.parse ((queuedLaunch 1).memBytes 0x400 256)).refusal (256 * 2 ^ 19) = none ∧
    (LaunchRec.parse ((queuedLaunch 0).memBytes 0x400 256)).refusal (256 * 2 ^ 19) = some 2 ∧
    (queuedLaunch 1).memWf ∧ (queuedLaunch 1).partOfPa 0x8FF = 0 ∧ ((queuedLaunch 1).memBytes 0x800 4) = [0, 4, 0, 0] := by decide +kernel
/-- Second clause: the first gang of the first grid, and the last core of a cluster. -/
theorem test_placement_met : (let s : State := { State.reset with dev := { Dev.reset with enok := true }, grids := [Grid.fresh 0 7 { placedRecord with attr := 0 } 0 false] }
    s.firstGrid 0 == some 0 && s.firstOf 0 == some (.new 0) && s.gangFits 0 (.new 0) 255 && !(s.grid 0).record.cor && !(s.part 0).ckSaving && !s.dev.fatal && (s.grid 0).multi == .none && s.cleanReady 255 && s.ops.isEmpty) = true := by decide +kernel
/-- Third to fifth clauses. -/
theorem test_team_steps_met : (let s := (each (fun th => { th with stat := .saved }) placed).modTeam 0 (fun t => { t with phase := .saving })
    s.gangSaved 0 && !(s.team 0).ended && decide ((s.gang 0).grid < s.grids.length)) = true ∧
    (let s : State := { placed with quires := placed.quires.map (fun q => { q with threads := q.threads.map (fun th => { th with stat := ThreadStat.retired }) }) };
    ((s.team 0).spine :: (s.team 0).quires).all (fun q => (s.quire q).threads.all (fun th => th.stat == .retired)) && !(s.team 0).ended && (s.team 0).phase == .none &&
    s.kills.isEmpty && (s.core 0).copies.isEmpty && decide s.memWf && decide ((s.grid 0).part < s.parts.length)) = true ∧
    (let s := placed.modTeam 0 (fun t => { t with carving := [(15, 0), (3, 1)] })
    !s.scratchBusy 0 && decide (15 < (s.team 0).barriers.length) && cellWf (s.team 0).scratch) = true := by decide +kernel

/-- A request 1 of core 0 for line 2 of memory that its home slice has next, with the item given (R198). -/
def request (kind : ReqKind) (it : Item) : Req :=
  { Req.blank 0 0 with id := 1, op := 5, kind := kind, line := 2, slice := 2, items := [it], stage := .sent }
/-- An item of thread 0: bytes from offset 4 of the line, for v register 7. -/
def item (data : List Byte) (size : Nat) : Item :=
  { thread := ⟨0, 0⟩, off := 124 - 4 * (size / 5), size := size, data := data, regs := [.v 7], ext := .w32, own := [], res := [] }
/-- The operation that the request belongs to. -/
def operation (kind : OpKind) : Op := { busyOp with id := 5, kind := kind, dests := [.v 7], ctr := some 7 }
/-- The placed state with one request and one operation. -/
def asking (r : Req) (kind : OpKind) : State := { placed with net := [r], ops := [operation kind], nextId := 9 }
/-- The request is the next one at its slice, whose update no replay log gates, in memory in canonical form. -/
def atHome (s : State) : Bool := (s.req? 1).any (fun r => s.atSlice r && (r.quire?).all (fun q => s.replayOn q == 0) && decide (r.slice < s.slices.length) &&
  r.items.all (fun it => decide (it.off + it.size ≤ 128)) && decide s.memWf)
/-- SliceUpdates: a store up to the line's last byte, each kind of atomic, a write-back; a stamp whose entry and code are in memory. -/
theorem test_slice_updates_met : ([request .store (item [1, 2, 3, 4] 4), request (.atomic 11 0 false true) (item (leBytes 4 7) 4),
    request (.atomic 0 0 false false) (item (leBytes 4 7) 4), request (.atomic 0 1 true true) (item (leBytes 8 0) 4)] : List Req).all
      (fun r => atHome (asking r .mem)) = true ∧
    (request (.atomic 11 0 false true) (item (leBytes 4 7) 4)).slice = placed.sliceFor 0 false (2 * 128 + 124) ∧
    (let s := asking { (request .writeback (item [] 0)) with items := [], op := 0, mask := 1 } .mem
    s.net.find? (fun x => x.core == 0 && x.line == 2 && x.kind == .writeback && s.atSlice x) == s.req? 1 && (s.req? 1).isSome) = true ∧
    (let s := ((asking (request (.stamp 63 3 16) (item (List.replicate 64 1) 4)) .stamp).modPart 0 (fun p => { p with stBase := 0x8000 })).memWrite (0x8000 + 16 * 63)
      (leBytes 8 (2 ^ 63 + 0x9000))
    (s.req? 1).any s.atSlice && (match s.stampFetch 0 2 63 with | .ok e => e.code == [0] | .error _ => false)) = true := by decide +kernel
/-- The line's home slice is the one named (R207). -/
theorem test_home : placed.sliceFor 0 false (2 * 128) = 2 := by decide +kernel

/-- RequestSteps: a load and a prefetch at the slice; a refused request; the reply of a load; a stamp-cache drop. -/
theorem test_requests_met : ([request .load (item [] 4), request (.fetch 0) (item [] 4), request (.fetch 2) (item [] 4)] : List Req).all
      (fun r => ((asking r .mem).req? 1).any (asking r .mem).atSlice) = true ∧
    (let s := asking { (request .load (item [] 4)) with stage := .refused } .mem
    !s.fabric.busy && (s.req? 1).any (·.stage == .refused)) = true ∧
    (let s := asking { (request .load (item [] 4)) with stage := .replied } .mem
    s.net.filter (fun z => z.op == 5) == s.net && s.bagOps.isEmpty && (s.op? 5).any (fun o => o.threads == [⟨0, 0⟩] && o.acq == .none && !o.uniform) &&
      decide (7 < (s.thread ⟨0, 0⟩).v.length) && (s.thread ⟨0, 0⟩).busy.isEmpty) = true ∧
    (let s := asking (request .load (item [] 4)) (.stampsync true 0 [255])
    (s.op? 5).any (fun o => o.kind == .stampsync true 0 [255] && o.phase == .active)) = true := by decide +kernel
/-- A walk of block 1, whose tables hold a leaf of 64 KiB; and one of a block without (R183). -/
def walking (block : Nat) : State :=
  let t0 : Nat := 0x20000
  ((((placed.modGrid 0 (fun g => { g with record := { g.record with ptroot := t0 } })).modCore 0 (fun k =>
    { k with walks := [{ id := 3, root := t0, va := block * 65536, come := .at_ 3 t0, waiters := [(⟨0, 0⟩, block * 65536)] }] })).memWrite t0 (leBytes 8 0x21001)).memWrite 0x21000
      (leBytes 8 0x22001)).memWrite 0x22000 (leBytes 8 0x23001) |>.memWrite 0x23008 (leBytes 8 0x1003F)
theorem test_walks_met : (walking 1).walkSteps 0 65536 4 (.at_ 3 0x20000) = .leaf 0x1003F 16 ∧
    (walking 2).walkSteps 0 131072 4 (.at_ 3 0x20000) = .xlate ∧
    (let s := vectored (walking 2)
    entersOk s ⟨0, 0⟩ && (s.thread ⟨0, 0⟩).stat == .ready && ((s.core 0).walks.find? (fun z => z.id == 3)).isSome) = true := by decide +kernel
theorem test_walk_leaf_met (a : Nat) : ((walking 1).useLeaf 0 0x20000 65536 0x1003F 16).memByte a = (walking 1).memByte a := by
  have h : (walking 1).useLeaf 0 0x20000 65536 0x1003F 16 = { walking 1 with leaves := ((walking 1).useLeaf 0 0x20000 65536 0x1003F 16).leaves } := by decide +kernel
  rw [h]; rfl
/-- The steps of the fabric: a leaf without progress, a plane declared dead, a request replayed, the rehash at its end. -/
theorem test_fabric_met : (let s := asking (request .load (item [] 4)) .mem
    s.net.all (fun r => leafOf r.core == 0 && r.plane == 0 && r.kind != .local_ && r.stage != .held) && s.fabric.alive.getLsbD 3 &&
      (s.fabric.alive &&& ~~~ BitVec.twoPow 4 3) != 0) = true ∧
    (let s := asking { (request .load (item [] 4)) with stage := .replay true } .mem
    (s.req? 1).any (fun r => r.stage == .replay true) && s.fabric.alive != 0) = true ∧
    (let s : State := { placed with fabric := { Fabric.reset with busy := true, alive := 7 } }; s.fabric.busy && s.net.isEmpty) = true := by decide +kernel

/-- SynchronisationSteps: an arrival that does not complete the phase and one that does, at a gang's and a grid's barrier, and a retirement. -/
theorem test_barrier_unit_met : ([(.gang, 3, 1), (.gang, 0, 32), (.grid, 3, 32)] : List (BarKind × Nat × Nat)).all (fun z =>
      let s : State := { asking (request (.barrier z.1 0 z.2.1 false) (item [] 4)) (.barrier z.1 z.2.1 none true) with
        ops := [{ operation (.barrier z.1 z.2.1 none true) with threads := lanes.take z.2.2 }] };
      (s.req? 1).any s.atSlice && (s.op? 5).any (fun o => o.threads.all (s.population z.1 0).contains) && !(s.population z.1 0).isEmpty &&
      (s.bar z.1 0 z.2.1).carve.isNone && decide (z.2.1 < (s.gang 0).barriers.length) && decide (z.2.1 < (s.grid 0).barriers.length) && decide ((s.grid 0).chips ≤ 1)) = true ∧
    (let s := asking (request (.barrier .grid 0 1 true) (item [] 4)) .mem
    (s.req? 1).any s.atSlice && !(s.population .grid 0).isEmpty) = true := by decide +kernel
/-- A handle instruction at the head of its handle's waiters. -/
def waitingHandle (st : HState) (what : HandleOp) : State :=
  let s := each (fun th => { th with stat := .parked (.handle 5) }) (handled st false placed)
  ({ s with ops := [operation .handle] }).modTeam 0 (fun t => { t with hwait := [{ op := 5, h := 4, what := what, quire := 0, threads := lanes }] })
theorem test_handle_waiters_met : ([(.free, .acq 65408 128), (.full, .take false 8), (.filling, .exp 4096)] : List (HState × HandleOp)).all (fun z =>
    let s := waitingHandle z.1 z.2
    (s.team 0).hwait.length == 1 && (s.op? 5).isSome && (s.handle 0 4).state == z.1 && !(s.handle 0 4).err && decide ((s.team 0).allot * 65536 = 65536) &&
    decide ((s.handle 0 4).exp + 4096 ≤ (s.handle 0 4).size)) = true := by decide +kernel
/-- A gathering whose port has become ready; a fence with nothing older. -/
theorem test_port_fence_met : (let s := queued (each (fun th => { th with stat := .parked .port }) placed)
    let g : Gath := { core := 0, ip := 0, hdr := 0x1000, header := 0x00038002, words := [0x50000085, 0], pos := 1, members := lanes }
    let s : State := { s with gaths := [g] };
    (s.gaths.find? (fun g => g.members.contains ⟨0, 31⟩)).isSome && g.instr? == some (.movVq 0 160 0) && s.portsReady (s.quire 0).team (Instr.movVq 0 160 0).uses) = true ∧
    (let s := asking (request .load (item [] 4)) (.fence .full)
    (s.op? 5).any (fun o => decide o.threads.Nodup && (s.opsBefore o).all (fun y => !(s.opIsMem y && y.threads.any o.threads.contains) && !(y.wrThru && y.core == o.core)))) = true := by decide +kernel
/-- A reduction round that opens; one that this arrival completes; its answer. -/
def reducing (d : List Round) : State := (asking (request (.nred 8 2) (item [] 4)) .nred).modSlice 2 (fun x => { x with rounds := d })
theorem test_reduction_met : (let s := (asking (request (.nred 8 1) (item [] 4)) .nred); (s.req? 1).any s.atSlice && (s.op? 5).isSome && (s.slices.getD 2 Slice.reset).rounds.isEmpty) = true ∧
    (let s := reducing []; decide (2 ≤ (s.part 0).units.clusters.length) && (s.req? 1).any s.atSlice && (s.op? 5).isSome && (s.slices.getD 2 Slice.reset).rounds.isEmpty && s.net.all (fun x => !s.nredWaits x)) = true ∧
    (let s := reducing [{ line := 2, n := 2, sub := 8, arrivals := [(31, 1, 4)] }]
    ((s.slices.getD 2 Slice.reset).rounds.find? (fun d => d.line == 2)).any (fun d => d.n == 2 && d.arrivals.length + 1 == 2 && d.arrivals.all (fun a => a.1 != 0))) = true ∧
    (let r := { request (.nred 8 2) { item [] 4 with regs := [.q 159], res := leBytes 4 7 } with stage := .replied }
    let s := asking r .nred
    s.net.find? (fun r => r.op == 5 && r.stage == .replied && (match r.kind with | .nred .. => true | _ => false)) == some r &&
      decide (159 < (s.quire 0).q.length) && !(s.quire 0).out && (s.quire 0).busy.isEmpty) = true := by decide +kernel
/-- A registration whose condition holds, one that is recorded, one told to poll; and its retry. -/
theorem test_monitor_met : ([0, 1] : List Nat).all (fun cond => let s := asking (request (.monitor false cond 0) (item [] 4)) .waitc
      (s.req? 1).any s.atSlice && (condMet cond false 0 0 == (cond == 0)) && (s.slices.getD 2 Slice.reset).monitors.isEmpty) = true ∧
    (let s := asking { (request (.monitor false 0 0) { item [] 4 with regs := [.q 0], res := leBytes 8 7 }) with stage := .replied } .waitc
    (s.op? 5).any (fun o => o.acq == .none) && (s.req? 1).any (·.stage == .replied)) = true ∧
    ((asking { (request (.monitor false 0 0) (item [] 4)) with stage := .poll } .waitc).req? 1).any (·.stage == .poll) = true := by decide +kernel

/-- An operation of core 0's matrix unit, started or not, of team 0. -/
def matrixRun (what : MatOp) (started : Bool) : MatRun :=
  { id := 3, team := 0, what := what, signers := [(⟨0, 0⟩, 5)], started := started, rows := [], result := [], scales := [], bands := [], flags := [], chkr := false }
/-- A slot with ELEM E4M3 and no scales (Table 7.5). -/
def plainSlot : Slot := { w0 := 0x80000001, seed := 0 }
/-- UnitSteps: operations that start and complete, after one they do not conflict with. -/
theorem test_matrix_met : ([.load false plainSlot 0 0, .zero 3 112 16, .swap, .drainv 4 3 96 124] : List MatOp).all (fun what =>
    let s := placed.modUnit 0 (fun u => { u with ops := [matrixRun what false] })
    let t := placed.modUnit 0 (fun u => { u with ops := [matrixRun what true] })
    (s.unit 0).ops.find? (fun z => z.id == 3) == some (matrixRun what false) && (t.unit 0).ops.find? (fun z => z.id == 3 && z.started) == some (matrixRun what true) &&
    t.watch.isEmpty && (t.unit 0).tiles.length == 4 && (t.unit 0).planes.length == 2) = true ∧
    (MatOp.zero 3 0 16).conflicts (.stream true plainSlot 2 0 0 0 16) = false := by decide +kernel
/-- A copy of core 0, with its pieces, as the only one. -/
def copyOf (kind : CopyKind) (started : Bool) (ps : List Piece) : Copy :=
  { id := 5, team := 0, core := 0, kind := kind, dests := if kind == .store then [] else [(0, 4, 0)], pieces := ps, prio := 0, got := [], started := started, op := 5 }
/-- The state with it, and its operation. -/
def moving (x : Copy) : State := { ((handled .filling false placed).modCore 0 (fun k => { k with copies := [x] })) with ops := [{ operation (if x.kind == .growg then .growg 1 8 else .copy) with dests := [] }] }
/-- A piece of two bytes at the end of the buffer. -/
def piece (done : Bool) : Piece := { off := 4094, src := [some 256, some 257], from_ := [0, 1], data := [], done := done }
theorem test_copies_met : ([copyOf .load false [piece false], copyOf .fetchw false [piece false], copyOf .growg false [], copyOf .growg true [piece true], copyOf .load true [piece false], copyOf .store true [piece false],
      copyOf (.desc 15) true [piece true]] : List Copy).all (fun x => let s := moving x
      s.copy? 5 == some x && (s.core 0).copies.contains x && (s.op? 5).any (·.phase == .active) && decide ((s.gang 0).grid < s.grids.length) && s.replayOn (s.spineOf x) == 0 &&
      x.pieces.all (fun p => !s.pieceLate x p) && cellWf (s.team 0).scratch && decide (4 < (s.team 0).handles.length) && (s.handle 0 4).state == .filling && decide s.memWf &&
      (s.team 0).desc.length == 16) = true := by decide +kernel
/-- An operation of a bag at the placer of stack 0. -/
def bagOp (what : BagWhat) (stage : BagStage) : BagOp :=
  { id := 3, op := 5, bag := 0x00010001, part := 0, stack := 0, core := 0, team := 0, quire := 0, threads := [⟨0, 0⟩], what := what, stage := stage, placed := [], values := [], fault := none }
/-- A bag of four shares of one group each, of 8-byte records, with room for one frame (Table 14.4). -/
def aBag : Bag := { num := 1, gen := 1, part := 0, stack := 0, shape := 0x400, cap := 1, vb := 0, frames := [0, 65536, 131072, 196608], keys := [0, 0, 0, 0], groups := [], r := [0, 0, 0, 0],
                    fp := [0, 0, 0, 0], cut := [0, 0, 0, 0], n := 0, k := 0 }
/-- The state with that operation, queued at its placer or not, and the bags given. -/
def placing (o : BagOp) (bags : List Bag) : State :=
  { (placed.modCtrl 0 (fun k => { k with bagq := if o.stage == .queued then [3] else [] })) with bagOps := [o], bags := bags, ops := [{ operation (.bag 3) with dests := [] }] }
theorem test_placer_met : ([(bagOp .cut .sent, []), (bagOp .cut .queued, []), (bagOp (.cnt none 7) .queued, [aBag]), (bagOp (.put [(⟨0, 0⟩, 0xFF, [1, 2])] 6) .queued, [aBag])] : List (BagOp × List Bag)).all
      (fun z => let s := placing z.1 z.2; s.placerChoices 0 == [z.1] && s.replayOn 0 == 0 && (s.bag? 0 aBag.word).isSome == !z.2.isEmpty) = true ∧
    (aBag.place 0xFF).isSome = true ∧ shapeRS aBag.shape = 8 ∧ placed.bagSealed aBag = none ∧ ({ aBag with cap := 0 }.place 0).isNone = true := by decide +kernel
theorem test_verdict_met : (let s := placing (bagOp .cut .refused) []; s.bagOps.any (·.stage == .refused)) = true ∧
    (let s := each (fun th => { th with stat := .parked (.op 5) }) (placing { bagOp (.put [] 0) .applied with placed := [(⟨0, 0⟩, false)], values := [0] } [])
    s.bagOps.any (fun b => b.id == 3 && b.stage == .applied && b.fault.isNone && b.values.headD 0 != 1) && (s.op? 5).any (fun o => o.threads == [⟨0, 0⟩]) &&
      (s.thread ⟨0, 0⟩).stat == .parked (.op 5)) = true := by decide +kernel

/-- ReliabilitySteps: memory in canonical form, and the clauses that need more than numbers in range. -/
def slotted : State := State.reset.modCtrl 11 (fun k => { k with channels := [(63, { Channel.empty with queues := [[], [⟨1, 9, 0, 6, 15⟩, ⟨0, 12, 7, 6, 15⟩, ⟨2, 5, 7, 7, 15⟩], [], []], arrived := 3 }), (62, { Channel.empty with postponed := [(15, 8)] })] })
theorem test_memory_controller_met : slotted.memWf ∧ slotted.ctrls.length = 12 ∧ (let ch := (slotted.ctrls.getD 11 Ctrl.reset).channel 63
    ch.queues.length == 4 && (List.range 4).all (fun u => (ch.queues.getD u []).isEmpty == (u != 1)) && ch.holds.all (·.isEmpty) && ch.alerts.isEmpty && ch.postponed.isEmpty && ch.away.isEmpty) = true ∧
    (let s : State := { slotted with memq := [⟨5, 16, 7⟩, ⟨6, 16, 7⟩, ⟨6, 16, 2⟩] }
    let h := s.memHome ⟨6, 16, 7⟩
    s.memq.find? (fun y => y.line == 6) == some ⟨6, 16, 7⟩ && s.partOfPa (6 * 128) == 0 && decide (h.1 < s.ctrls.length) &&
      ((s.ctrls.getD h.1 Ctrl.reset).channel h.2.1).queues.length == 4 && ((s.ctrls.getD h.1 Ctrl.reset).channel h.2.1).holds.length == 4) = true := by decide +kernel
theorem test_debug_met : (let s := placed.modPart 0 (fun p => { p with dbgGrid := 7 })
      s.dbgGang 0 2 == some 0 && s.dbgGang 0 4 == some 0 && s.dbgGang 0 8 == some 0 && s.kills.isEmpty && !(s.part 0).ckSaving && s.parts.length == 8) = true ∧
    ((placed.modPart 0 (fun p => { p with tlbinv := 3 })).part 0).tlbinv.getLsbD 1 = true ∧ placed.partOfPa (255 * 128) = 0 := by decide +kernel
/-- A checkpoint refused for want of save areas, one taken, and one that restores an image. -/
theorem test_checkpoint_met : (placed.ckRefusal 0).isSome = true ∧ (State.reset.ckRefusal 0).isNone = true ∧ (State.reset.part 0).ckCtl.getLsbD 31 = false ∧
    (let s := State.reset.modPart 0 (fun p => { p with ckCtl := 0x80000002, ckImage := some { mem := [(5, 1)], undef := [], poison := [], saves := [], garbled := [], forms := [], pages := [], base := 0 } })
    (s.part 0).ckCtl.getLsbD 31 && !(s.part 0).ckCtl.getLsbD 0 && (s.part 0).ckImage.any (fun i => cellWf i.mem && i.mem.all (fun z => (s.part 0).holds z.1))) = true := by decide +kernel
/-- A gang with a kill of each kind of cause. -/
theorem test_kill_met : placed.partOfPa 0 = (placed.grid 0).part ∧ (placed.gang 0).resident = true ∧ (placed.gang 0).dead = false ∧ (placed.grid 0).multi = .none ∧
    (placed.grid 0).record.cor = false ∧ (placed.grid 0).creates = false ∧ (placed.grid 0).kills = [] ∧ (placed.grid 0).chips = 0 ∧ placed.cores.all (fun k => k.unit.ops.isEmpty) = true ∧
    ([0x17, 0x80, 0x81, 0x82] : List Nat).all (fun k => ({ placed with kills := [⟨0, k⟩] } : State).kills.find? (fun z => z.gang == 0) == some ⟨0, k⟩) = true := by decide +kernel

/-- DeviceSteps: an assignment that keeps Table 1.4, and one that does not; accesses that pass and one to no partition. -/
theorem test_assign_met : assignOk (UnitSet.all :: List.replicate 7 UnitSet.empty) = true ∧ assignOk (List.replicate 8 UnitSet.all) = false ∧ State.reset.parts.length = 8 ∧
    State.reset.partOfPa (768 * 10 ^ 9 - 128) = 0 ∧ State.reset.partOfPa (768 * 10 ^ 9) = 8 ∧ State.reset.keySlot 0 = 0 ∧ (State.reset.part 7).held = [] ∧ State.reset.dev.ready = false ∧ State.reset.dev.recovery = false ∧
    (∀ p < 8, (State.reset.part p).keyst = 0) := by decide +kernel
/-- PacketsAndSessions: the bytes of a LAUNCH and a RESERVE packet for partition 0, sound and not; a reservation that fits. -/
def packetBytes (kind : Byte) (teams : Nat) : List Byte := [kind, 0] ++ List.replicate 30 0 ++ recordBytes teams
theorem test_packets_met : (LaunchRec.parse ((packetBytes 1 1).drop 32)).refusal (256 * 2 ^ 19) = none ∧ (LaunchRec.parse ((packetBytes 2 0).drop 32)).refusal (256 * 2 ^ 19) = some 2 ∧
    (let bs := packetBytes 2 1
    let k := Packet.parse bs
    let r := LaunchRec.parse (bs.drop 32)
    let s : State := { State.reset with dev := { Dev.reset with enok := true }, grids := [{ k.grid State.reset r with chips := max k.chips 1, chipRank := k.rank, team0 := k.team0, multi := .reserved }] }
    !s.dev.fatal && (s.placeAll 0 (s.nextOf 0) [255]).isSome) = true := by decide +kernel
theorem test_session_met : ({ placed.sec with sessions := [⟨3, 0, [], true, [], 0⟩] } : Sec).sessions.find? (fun y => y.number == 3) = some ⟨3, 0, [], true, [], 0⟩ ∧
    (let s := placed.modGrid 0 (fun g => { g with multi := .reserved, chips := 2 }); (s.grid 0).multi == .reserved && !(s.grid 0).dead && !(s.grid 0).reported && (s.grid 0).chips == 2 && decide (0 < s.grids.length) && decide ((s.grid 0).part < s.parts.length) && s.cores.all (fun k => k.unit.ops.isEmpty)) = true := by decide +kernel

/-! ### The rest -/

/-- StepRunsDecoded: the step after State.withFetchWord issues the instruction that its words decode to. -/
theorem test_step_met : (let s := State.reset.withFetchWord 64 0x1024000305045080
    s.agenda == [.issue 0 0] && (s.gaths[0]?).any (fun g => s.mayIssue g && !(s.takersOf g).isEmpty && !(g.members.any s.isHalted)) && State.reset.agenda.isEmpty) = true := by decide +kernel
/-- Every instruction placed for the first step after reset leads to a next state. -/
theorem test_first_step : (wordsInteger ++ wordsShifts ++ wordsFloat ++ wordsNarrow ++ wordsUniform ++ wordsControl ++ wordsLong ++ wordsAccess ++
    wordsAtomics ++ wordsSynchronisation ++ wordsMatrix ++ wordsCopy ++ wordsBag ++ wordsSystem).all (fun x =>
    match step (State.reset.withFetchWord (32 * x.1.length) ((x.1.getD 0 0).toNat + 2 ^ 32 * (x.1.getD 1 0).toNat)) with | .next _ => true | _ => false) = true := by decide +kernel
/-- MemoryInvariant and MemoryCells: reset meets the invariant, and a store at the end of a line. -/
theorem test_invariant_met : State.reset.cellsWf := reset_cellsWf
theorem test_cells_met : cellWf (cellSet (cellSet [] 5 1) 4 2) = true ∧ (1279 % 128 + [(1 : Byte)].length ≤ 128) := by decide
/-- RoundTrip: an instruction whose fields are admissible, for each list above. -/
theorem test_round_trip_met : (wordsAccess ++ wordsAtomics ++ wordsMatrix ++ wordsBag).all (fun x => x.2.isInstr && x.2.wf) = true := by decide
/-- DecodeRefuses: unassigned opcodes at both ends of each range, and reserved fields. -/
theorem test_decode_refuses : ([0x2F, 0x64, 0x6F, 0x78, 0x7F, 0x86, 0x8F, 0xAB, 0xAF, 0xB7, 0xCA, 0xCF, 0xED, 0xEF, 0xF8, 0xFF, 0x80000090, 0x182B1F + 0x2000000] : List Word).all
    (fun w => match decode [w, 0] with | .error _ => true | .ok _ => false) = true := by decide

/-! ### Results that the spec works out -/

/-- The placed state with v registers of thread 0 set, after instruction `i`; `%flags` with every set shown. -/
def after (i : Instr) (vs : List (Nat × Word)) : Option (Thread × Flags) :=
  let s := (on i).modThread ⟨0, 0⟩ (fun th => { th with v := vs.foldl (fun v z => v.set z.1 z.2) th.v, p := 0x02 })
  match exec i s with | .next t => some (t.thread ⟨0, 0⟩, ((t.quire 0).flagsAll).setWidth 7) | _ => none
/-- v register `d` afterwards, and the flags. -/
def gives (i : Instr) (vs : List (Nat × Word)) (d : Nat) (w : Word) (f : Flags) : Bool := (after i vs).any fun x => x.1.v[d]? == some w && x.2 == f

/-- Chapter 05: the worked clause (LEA, ADD.sat, ISET), and the table of corners: SHL by 0x100, SHRA by 40, ABS and NEG of 0x80000000, BFE
of position 30 and width 8, FUNNEL by 32, BSWZ. -/
theorem test_integer_results : (gives (.leaN32 2 10 12 3 0) [(12, 0x40000000), (13, 0x12), (3, 0xFFFFFFF0)] 10 0x3FFFFFC0 0 &&
    gives (.leaN32 2 10 12 3 0) [(12, 0x40000000), (13, 0x12), (3, 0xFFFFFFF0)] 11 0x16 0 && gives (.addN32Sat 5 6 7 3) [(6, 0xFFFFFF00), (7, 0x200)] 5 0xFFFFFFFF fSAT &&
    ((after (.isetI32 2 2 5 6 0) [(5, 0xFFFFFFFF), (6, 0xFFFFFF00)]).any (fun x => !x.1.preg 2)) && gives (.shl 5 6 8 0) [(6, 1), (8, 0x100)] 5 0 0 &&
    gives (.shra 5 6 8 0) [(6, 0x80000000), (8, 40)] 5 0xFFFFFFFF 0 && gives (.abs 5 6 0) [(6, 0x80000000)] 5 0x80000000 0 && gives (.neg 5 6 0) [(6, 0x80000000)] 5 0x80000000 0 &&
    gives (.bfeN32 5 6 8 0) [(6, 0xC0000000), (8, 0x81E)] 5 3 0 && gives (.funnel 5 6 8 0) [(5, 32), (6, 7), (8, 9)] 5 7 0 && gives (.funnel 5 6 8 0) [(5, 0), (6, 7), (8, 9)] 5 9 0 &&
    gives (.bswz 5 6 8 0) [(5, 0x03020100), (6, 0xA1B2C3D4), (8, 9)] 5 0xA1B2C3D4 0) = true := by decide +kernel
/-- Chapter 06: the worked clause, and the table of corners. -/
theorem test_float_results : (gives (.frcp 5 3 0) [(3, 0x80000000)] 5 0xFF800000 fDZ && gives (.ffma 1 4 1 2 4) [(1, 0x3FC00000), (2, 0x40000000), (4, 0x40400000)] 4 0 0 &&
    gives (.fmax 0 6 4 3 3) [(4, 0), (3, 0x80000000)] 6 0 0 && ((after (.fset 1 2 6 8 0) [(6, 0), (8, 0x7FC01234)]).any (fun x => !x.1.preg 1 && x.2 == fNV)) &&
    gives (.fadd 0 5 6 7 0) [(6, 0x7F800000), (7, 0xFF800000)] 5 0x7FC00000 fNV && gives (.fmax 0 5 6 7 0) [(6, 0), (7, 0x7FC01234)] 5 0x7FC00000 0 &&
    gives (.ffma 0 5 6 7 0) [(6, 0), (7, 0x7F800000), (5, 0x7FC00000)] 5 0x7FC00000 fNV && gives (.fsub 0 5 6 7 0) [(6, 0x00800000), (7, 0x00800001)] 5 0x80000001 0 &&
    gives (.pkaddF16 5 6 7 0) [(6, 0x7C003C00), (7, 0xFC003C00)] 5 0x7E004000 fNV) = true := by decide +kernel
/-- Chapter 07: the table of corners, and a 16-point transform of 1.0. -/
theorem test_narrow_results : (gives (.cvt 5 6 0x0F 0) [(6, 0x43F00000)] 5 0x7F (fOF ||| fNX) && gives (.cvt 5 6 0x4F 0) [(6, 0x43F00000)] 5 0x7E (fOF ||| fNX) &&
    gives (.cvt 5 6 0x07 0) [(6, 0x40E00000)] 5 7 (fOF ||| fNX) && gives (.cvt 5 6 0x07 0) [(6, 0xBE4CCCCD)] 5 0 (fUF ||| fNX) && gives (.cvt 5 6 0x27 0) [(6, 0x43488000)] 5 0x7F fNV &&
    gives (.cvt 5 6 0x38 0) [(6, 8)] 5 0x7FC00000 fNV && gives (.scale 5 6 8 0) [(6, 0x3F800000), (8, 0xFF)] 5 0x7FC00000 fNV && gives (.had 20 6 7 0) [(6, 0x3F800000)] 35 0x3E800000 0) = true := by
  decide +kernel
/-- Chapter 09, Tables 9.12 to 9.14: the stamp body. -/
theorem test_stamp_result : (StampSt.entry ([41, 700, 0, 9] ++ List.replicate 28 0) (1000 :: List.replicate 15 0)).run
    [0xB0010001, 0xB1010000, 0x081D0001, 0xB0020002, 0xB1020000, 0x301A0000] = .commit ([42, 1000, 0, 9] ++ List.replicate 28 0) := by decide +kernel

/-! ### Traps, ports and the steps of the units: witnesses -/

/-- UniformAlu and UniformFrame: ports as sources, as a destination, and as both; QueuePorts: a port with a register. -/
theorem test_uniform_ports_met : ([.uniformAluReg 0 161 160 5 0, .uniformAluReg 0 162 162 5 0, .uniformAluImm 0 5 165 3 0, .uniformAluReg 0 159 160 163 0, .addQLi 5 160 7 0, .addQLi 161 5 7 0] : List Instr).all
    (fun i => i.wf && i.uniForm && portsOf (i.uses.rq ++ i.uses.wq) != [] && issues (queued (on i)) i (fun s c => decide (c.q < s.quires.length) && decide ((s.quire c.q).team < s.teams.length) &&
      (s.quire c.q).hasQ c.now c.hand (notPorts (i.uses.rq ++ i.uses.wq)) && (s.quire c.q).hasQp c.now (i.uses.rqp ++ i.uses.wqp) &&
      (portsOf (i.uses.rq ++ i.uses.wq)).all (fun n => decide (n - 160 < (s.team 0).queues.length)))) = true := by decide +kernel
/-- FloatResults and CanonicalNaN: finite operands of each format, the smallest and the largest, and results that are NaNs. -/
theorem test_finite_met : ([1, 0x80000000, 0x7F7FFFFF, 0xFF7FFFFF] : List Word).all (fun w => isFinite 8 23 w.toNat) = true ∧ unitsOf 8 23 1 = 1 ∧
    ([1, 0x7BFF, 0xFBFF] : List Nat).all (isFinite 5 10) = true ∧ ([1, 0x7F7F, 0xFF7F] : List Nat).all (isFinite 8 7) = true ∧
    unitsOf 5 10 0x7BFF = 65504 * 2 ^ unitExp 5 10 ∧ unitsOf 8 23 0xBF800000 = -2 ^ unitExp 8 23 ∧
    isNaN32 (f32Special .ex2 0x7F800001).1 = true ∧ isNaN32 (f32Rnd 3 0x7F800001).1 = true ∧ isNaNCode 5 10 ((pkAdd 0x7C000000 0xFC000000).1.toNat / 65536) = true ∧
    isNaNCode 8 7 ((pkFmaBf 0x7F80 0 0).1.toNat % 65536) = true := by decide +kernel

/-- Thread 0 alone takes the clause's instructions. -/
def alone (s : State) : State := s.modQuire 0 (fun q => { q with threads := q.threads.zipIdx.map (fun z => { z.1 with gov := z.2 == 0 }) })
/-- The vectored and mapped state, with a page without X at 0x40000, where register 4 points; and with an odd address there. -/
def pageless (aim : Word) (s : State) : State :=
  let s := (vectored (mapped s)).modCore 0 (fun k => { k with tlb := k.tlb ++ [{ root := 0, page := 4, pte := 0x4002F, size := 16 }] })
  s.modQuire 0 (fun q => { q with threads := q.threads.map (fun th => { th with v := th.v.set 4 aim }) })
/-- Every taking thread would enter its handler. -/
def allEnter (s : State) (c : Ctx) : Bool := decide c.takers.Nodup && c.takers.all (entersOk s)
/-- A thread may not go to the target. -/
def mayNotBranch (a : Addr) (s : State) (x : ThreadId) : Bool := match s.checkTarget x a with | .trap _ => true | _ => false
/-- Branches, IndirectBranches, ReturnStack: each transfer traps on its target in all of its threads. -/
theorem test_transfer_traps_met : issues ((pageless 0 (on (.brq true 0 0x10000 0)))) (.brq true 0 0x10000 0) (fun s c => allEnter s c && (s.quire c.q).hasQp c.now [0] &&
      (s.quire c.q).qpreg 0 == false && c.takers.all (mayNotBranch (c.g.hdr + 0x40000) s)) = true ∧
    ([0x40000, 2] : List Word).all (fun aim => issues (pageless aim (on (.brx 4 0))) (.brx 4 0) (fun s c => allEnter s c && c.takers.all (fun x => (s.thread x).hasV c.now [4, 5] &&
      ((s.thread x).vpair 4).setWidth 48 == BitVec.setWidth 48 aim && mayNotBranch (aim.setWidth 48) s x))) = true ∧
    issues (pageless 0 (on (.call 0x10000 0))) (.call 0x10000 0) (fun s c => allEnter s c && c.takers.all (mayNotBranch (c.g.hdr + 0x40000) s)) = true ∧
    issues (pageless 0x40000 (on (.callx 4 0))) (.callx 4 0) (fun s c => allEnter s c && c.takers.all (mayNotBranch 0x40000 s)) = true ∧
    (let s := (pageless 0 (on (.ret 0))).modQuire 0 (fun q => { q with threads := q.threads.map (fun th => { th with rstack := [8, 0x40000] }) })
    issues s (.ret 0) (fun s c => allEnter s c && c.takers.all (fun x => (s.thread x).rstack == [8] ++ [0x40000] && mayNotBranch 0x40000 s x))) = true := by decide +kernel
/-- Block 0 mapped without R and W. -/
def unread (s : State) : State := (vectored (mapped s)).modCore 0 (fun k => { k with tlb := [{ root := 0, page := 0, pte := 0x33, size := 16 }] })
/-- A check of a private window traps. -/
def trapsP (kind : AccKind) (off : Int) (s : State) (x : ThreadId) : Bool := match s.checkP x kind off 8 with | .trap _ => true | _ => false
/-- ReturnStack: a ninth entry with no room below PRIVLIM (64), and with room on a page without W; RET of an empty stack, and of one whose
spilled entry lies on a page without R; the ninth entry of a spine; the spill of one thread. -/
theorem test_stack_traps_met : ([(8, true), (7, false)] : List (Nat × Bool)).all (fun z => issues (withStack 0 8 z.1 ((if z.2 then vectored ∘ mapped else unread) (on (.call 2 0)))) (.call 2 0)
      (fun s c => allEnter s c && c.takers.all (fun x => mayBranch (c.g.hdr + 8) s x && (decide ((s.recordQ x.quire).privLim < 8 * ((s.thread x).spilled + 1)) || trapsP .write 0 s x)))) = true ∧
    issues (withStack 0 0 0 (vectored (mapped (on (.ret 0))))) (.ret 0) allEnter = true ∧
    issues (withStack 0 0 1 (unread (on (.ret 0)))) (.ret 0) (fun s c => allEnter s c && c.takers.all (trapsP .read 56 s)) = true ∧
    (issues ((alone (withStack 0 8 0 (mapped (on (.call 2 0))))).modQuire 0 (fun q => { q with role := .spine })) (.call 2 0) (fun s c => c.takers == [⟨0, 0⟩] &&
      (s.quire 0).role == .spine && mayBranch (c.g.hdr + 8) s ⟨0, 0⟩) &&
    issues (alone (withStack 0 8 0 (mapped (on (.call 2 0))))) (.call 2 0) (fun s c => c.takers == [⟨0, 0⟩] && (s.quire 0).role != .spine && mayBranch (c.g.hdr + 8) s ⟨0, 0⟩ &&
      decide (c.g.core < s.cores.length) && (match s.checkP ⟨0, 0⟩ .write 56 8 with | .ok ps => ps.map (fun ch => (ch.place, ch.off, ch.size)) == [(.g 1792, 0, 4), (.g 1920, 4, 4)] | _ => false))) = true := by decide +kernel
/-- TrapInstructions: a thread in handler mode, one whose partition has no vector, and a spine's, which may not issue SVC. -/
theorem test_stopped_met : ([.trap h0 255, .svc h0 0, .brk 0 255] : List Instr).all (fun i =>
    issues (handler (alone (vectored (on i)))) i (fun s c => c.takers == [⟨0, 0⟩] && (s.thread ⟨0, 0⟩).hand) &&
    issues (alone (on i)) i (fun s c => c.takers == [⟨0, 0⟩] && (s.part (s.partOfCore (s.quire 0).core)).tvec == 0) &&
    (i == .svc h0 0 || issues ((alone (vectored (on i))).modQuire 0 (fun q => { q with role := .spine })) i (fun s c => c.takers == [⟨0, 0⟩] && (s.quire 0).role == .spine &&
      !(s.gang 0).dead && s.kills.isEmpty && !(s.part 0).dbg.getLsbD 0))) = true := by decide +kernel
/-- StepRunsDecoded, second clause: a word of no instruction, one of another class, one of a feature not accepted. -/
theorem test_illop_met : ([0x2F, 0xFF] : List Nat).all (fun w =>
    let s := vectored (State.reset.withFetchWord 32 w)
    s.agenda == [.issue 0 0] && (s.gaths[0]?).any (fun g => s.mayIssue g && !(s.takersOf g).isEmpty && decide (s.takersOf g).Nodup && !(g.members.any s.isHalted) &&
      (s.takersOf g).all (entersOk s) && (g.words.drop (g.pos - 1)).head? == some (BitVec.ofNat 32 w) &&
      (match decode (g.words.drop (g.pos - 1)) with | .error _ => true | .ok _ => false))) = true ∧ classOf 0xD8 ≠ classOf 0 ∧ Dev.reset.accepts (featureOf 0xD8) = false := by decide +kernel
/-- SystemRegisters: the core and cluster numbers and the save area. -/
theorem test_system_more_met : ([.movs 0 false false 127 5, .movs 0 false false 8 6, .movs 0 true false 8 25, .movs 0 false true 9 25] : List Instr).all
    (fun i => i.wf && issues (on i) i (fun s c => uniReady i s c && vecReady i s c)) = true := by decide +kernel
/-- CoreStores: stores of every thread of the gathering, through `.g`, `.p` and `.k`. -/
theorem test_core_stores_met : ([(.st h0 acc, true), (.st h0 { acc with space := .p, a := 0xFF, imm := 60 }, true), (.st h0 { acc with space := .k, a := 4, size := .n8 }, false)] : List (Instr × Bool)).all (fun z =>
    issues (mapped (on z.1)) z.1 (fun s c => goesOk z.1 s c && decide (c.g.core < s.cores.length) && (c.accessors z.1).length == 32 &&
      (c.accessors z.1).all (fun x => match s.accessOf c x z.1 with | .ok ps => ps.length == 1 && ps.all (fun ch => match ch.place with | .g _ => z.2 | .k _ => !z.2 | _ => false) | _ => false))) = true := by decide +kernel
/-- A walk meets no leaf where no entry has V set. -/
theorem walkStep_noLeaf (s : State) (part va : Nat) (h : ∀ a, (s.pteAt a).getLsbD 0 = false) (k base : Nat) (e : DWord) (sz : Nat) :
    s.walkStep part va (.at_ k base) ≠ .leaf e sz := by
  unfold State.walkStep pteV
  dsimp only
  split
  · nofun
  · rw [h]; nofun
theorem walkSteps_noLeaf (s : State) (part va : Nat) (h : ∀ a, (s.pteAt a).getLsbD 0 = false) (e : DWord) (sz n : Nat) :
    ∀ w : WalkAt, w ≠ .leaf e sz → s.walkSteps part va n w ≠ .leaf e sz := by
  induction n with
  | zero => exact fun w hw => hw
  | succ n ih =>
    intro w hw
    rw [State.walkSteps]
    apply ih
    cases w with
    | at_ k base => exact walkStep_noLeaf s part va h k base e sz
    | _ => first | exact hw | (unfold State.walkStep; exact hw)
/-- Where every byte of memory listed is even, and none is open, no table maps a page. -/
theorem pagesSettled_of (s : State) (h : s.undef = [] ∧ s.garbled = [] ∧ s.mixed = [] ∧ s.watch = [] ∧ s.bags = [])
    (he : (s.mem.all fun c => !c.2.getLsbD 0) = true) : s.pagesSettled := by
  obtain ⟨hu, hg, hm, hw, hb⟩ := h
  have get : ∀ (m : List Host.Cell) (a : Nat), (m.all fun c => !c.2.getLsbD 0) = true → (cellGet m a).getLsbD 0 = false := by
    intro m a hm
    induction m with
    | nil => simp [cellGet]
    | cons d m ih =>
      obtain ⟨b, x⟩ := d
      simp only [List.all_cons, Bool.and_eq_true, Bool.not_eq_true'] at hm
      simp only [cellGet]
      split
      · exact hm.1
      · split
        · exact ih hm.2
        · simp
  have byte : ∀ a, s.memByte a = cellGet s.mem a := by
    intro a
    simp [State.memByte, State.undefMask, hu, hg, State.isOpen, State.isMixed, hm, State.hides, hw, State.inGap, hb]
  have pte : ∀ a, (s.pteAt a).getLsbD 0 = false := by
    intro a
    have h0 := get s.mem a he
    rw [← byte] at h0
    have : leNat (s.memBytes a 8) % 2 = 0 := by
      simp only [State.memBytes, show List.range 8 = 0 :: (List.range 7).map Nat.succ from rfl, List.map_cons, leNat, Nat.add_zero]
      have : (s.memByte a).toNat % 2 = 0 := by
        rw [BitVec.getLsbD, Nat.testBit_zero] at h0
        simpa using h0
      omega
    rw [State.pteAt, BitVec.getLsbD_ofNat]
    simp [Nat.testBit_zero, this]
  intro core root vas
  have step : ∀ {f : State → Nat → State}, (∀ u va, (∃ q m, u = { s with memq := q, mside := m }) → ∃ q m, f u va = { s with memq := q, mside := m }) →
      ∀ (l : List Nat) (u : State), (∃ q m, u = { s with memq := q, mside := m }) → ∃ q m, l.foldl f u = { s with memq := q, mside := m } := by
    intro f hf l
    induction l with
    | nil => exact fun u h => h
    | cons va l ih => exact fun u h => ih _ (hf u va h)
  obtain ⟨q, m, h⟩ : ∃ q m, s.usePages core root vas = { s with memq := q, mside := m } := by
    unfold State.usePages
    refine step (fun u va h => ?_) _ _ ⟨s.memq, s.mside, rfl⟩
    obtain ⟨q, m, h⟩ : ∃ q m, (if (u.tlbFind core 8 root va).isSome then u else u.askWalk (s.partOfCore core) root va) = { s with memq := q, mside := m } := by
      obtain ⟨q, m, rfl⟩ := h
      split
      · exact ⟨q, m, rfl⟩
      · obtain ⟨q', m', h'⟩ := askWalk_asks { s with memq := q, mside := m } (s.partOfCore core) root va
        exact ⟨q', m', h'⟩
    dsimp only
    rw [h]
    split
    · next e sz hl => exact absurd hl (walkSteps_noLeaf { s with memq := q, mside := m } (s.partOfCore core) va pte e sz 4 (.at_ 3 root) nofun)
    · exact ⟨q, m, rfl⟩
  rw [h]
  exact ⟨fun _ => rfl, fun _ => rfl⟩
/-- Stations, CopyCommands, BagInstructions: the tables map no page yet, in the states that meet the other hypotheses. -/
theorem test_pages_settled : (passed (mapped (stationed 32 (on (.mfill h0 (.imm 5) .g 0 8 11 12))))).pagesSettled ∧
    (copying (on (.cpload h0 3 (.imm 4) 8 16))).pagesSettled ∧ (copying (on (.cpdesc h1 2 30))).pagesSettled ∧ (baggy (on (.bagnew h1 8 10 12 13))).pagesSettled :=
  ⟨pagesSettled_of _ (by decide +kernel) (by decide +kernel), pagesSettled_of _ (by decide +kernel) (by decide +kernel),
    pagesSettled_of _ (by decide +kernel) (by decide +kernel), pagesSettled_of _ (by decide +kernel) (by decide +kernel)⟩
/-- The state of a unit's operation that is about to start, or has started, with the rows given. -/
def draining (ad started : Bool) : State :=
  let r := { matrixRun (.drain false ad .g 1 256 128 0 2) started with rows := [[.g 256], [.g 512]], result := List.replicate 2 (List.replicate 32 0x3F800000) }
  placed.modUnit 0 (fun u => { u with ops := [r] })
/-- UnitSteps: an MDRAIN that starts, and one that completes; MSTREAM passes of each kind of format, INT32 among them. -/
theorem test_drain_met : ([(false, false), (false, true), (true, false), (true, true)] : List (Bool × Bool)).all (fun z => let s := draining z.1 z.2
      (s.unit 0).ops.all (fun r => s.runReady 0 r && r.rows.length == 2 && r.result.length == r.rows.length && decide r.rows.flatten.Nodup &&
        r.rows.flatten.all (fun p => match p with | .g a => a % 128 == 0 && s.partOfPa a == s.partOfCore 0 | _ => false) && r.signers.all (fun x => s.replayOn x.1.quire == 0)) &&
      s.watch.isEmpty && decide s.memWf) = true := by decide +kernel
theorem test_stream_met : ([0x80000000, 0x80000001, 0x80000002, 0x80000803, 0x80000804] : List Word).all (fun w =>
      let sl : Slot := { w0 := w, seed := 0 }
      let s := placed.modUnit 0 (fun u => { u with ops := [matrixRun (.stream true sl 3 0 512 112 16) false], planes := u.planes.map (fun p => { p with fmt := some w }) })
      (s.unit 0).ops.all (s.runReady 0) && s.upsets.isEmpty && ((s.unit 0).plane (s.unit 0).active).fmt == some w && !sl.stochastic && sl.bscale == .none && !sl.band &&
      (if sl.accInt then sl.elem == .i4 || sl.elem == .i8 else elemPlain sl.elem 0 && isFinite 8 23 0)) = true := by decide +kernel
/-- UnitSteps: a copy's piece whose leaf may send; operations of a bag at its placer, the bag with records in open groups, beyond its cut and in it. -/
theorem test_piece_met : ([copyOf .load true [piece false], copyOf .store true [piece false]] : List Copy).all (fun x => (moving x).pieceClear x (piece false)) = true := by decide +kernel
def fullBag : Bag := {
  num := 1, gen := 1, part := 0, stack := 0, shape := 0x400 + (2 <<< 19) + (3 <<< 25), cap := 8, vb := 0, frames := [0x50000, 0x20000, 0x30000, 0x40000], keys := [0, 0, 0, 0],
  groups := [{ tag := 7, share := 0, frame := 2, fill := 2 }, { tag := 9, share := 1, frame := 0, fill := 1 }], r := [12, 3, 6, 0], fp := [4, 1, 2, 0], cut := [2, 0, 5, 0], n := 10, k := 3 }
/-- A page of memory lies in one partition, for the pages below 2^20. -/
theorem reset_page {f : Nat} (h : f < 2 ^ 20) (i : Nat) (hi : i < 65536) : State.reset.partOfPa (f + i) = 0 := by
  obtain ⟨ps, hp⟩ : ∃ ps, State.reset.parts = State.reset.part 0 :: ps := ⟨State.reset.parts.tail, rfl⟩
  have hm : (State.reset.part 0).units.mem = [(0, 768 * 10 ^ 9)] := rfl
  unfold State.partOfPa
  rw [hp, List.findIdx_cons, hm]
  simp only [List.any_cons, List.any_nil, Bool.or_false, Nat.zero_le, decide_true, Bool.true_and]
  rw [decide_eq_true (by omega)]
  rfl
theorem test_full_bag : (placing (bagOp .cut .queued) [fullBag]).soundBag fullBag ∧ (placing (bagOp .cut .queued) [fullBag]).memWf ∧
    ([.cut, .drn, .grow 8, .grow 7, .free, .map 3 124, .map 4 124, .cnt (some 3) 9, .cnt (some 4) 9] : List BagWhat).all (fun w => let s := placing (bagOp w .queued) [fullBag]
      !s.fabric.busy && s.placerChoices 0 == [bagOp w .queued] && s.bagOps.find? (fun b => b.id == 3) == some (bagOp w .queued) && s.replayOn 0 == 0 &&
      s.bag? 0 fullBag.word == some fullBag && decide (0 < s.teams.length) && (s.team 0).windows.isEmpty && decide (0 < s.cores.length)) = true := by
  refine ⟨⟨by decide, by decide, by decide, by decide, fun f hf => ?_, by decide, by decide, by decide, by decide, by decide⟩, by decide +kernel, by decide +kernel⟩
  have h : f % 65536 = 0 ∧ f < 2 ^ 20 := by
    have : ([0x50000, 0x20000, 0x30000, 0x40000].all fun f => f % 65536 == 0 && decide (f < 2 ^ 20)) = true := by decide
    have := List.all_eq_true.mp this f hf
    simpa using this
  exact ⟨h.1, fun i hi => reset_page h.2 i hi⟩

/-- ReliabilitySteps: kills of a grid that is relaunched whole, that has had its kills, and of one that is relaunched by gangs; a halt
requested during a save. -/
def killed (cor : Bool) (kills : List (Nat × Nat)) (cause : Nat) : State :=
  { (placed.modGrid 0 (fun g => { g with record := { g.record with attr := if cor then 1 else 0 }, kills := kills })) with kills := [⟨0, cause⟩] }
theorem test_whole_kill_met : ([(true, [], 0x80), (true, [(0, 2)], 0x17), (true, [(0, 3)], 0x17), (false, [(0, 3)], 0x80), (false, [], 0x81), (false, [(0, 2)], 0x17)] : List (Bool × List (Nat × Nat) × Nat)).all (fun z =>
      let s := killed z.1 z.2.1 z.2.2
      s.kills.find? (fun k => k.gang == 0) == some ⟨0, z.2.2⟩ && s.gangsOf 0 == [0] && !(s.gang 0).dead && (s.grid 0).record.cor == z.1 && (s.grid 0).multi == .none && !s.dev.fatal &&
      s.cores.all (fun k => k.unit.ops.isEmpty) && decide s.memWf && decide ((s.grid 0).part < s.parts.length)) = true ∧
    (let s := placed.modPart 0 (fun p => { p with ckSaving := true, ckCtl := 0x80000001 }); (s.part 0).ckSaving && (s.part 0).ckCtl.getLsbD 31 && s.parts.length == 8) = true := by decide +kernel
/-- Two gangs of one co-resident grid, the second of which has had its kills. -/
theorem test_grid_kill_met : (let s := killed true [(1, 3)] 0x80
    let s : State := { s with gangs := s.gangs ++ [{ s.gang 0 with number := 1, teams := [] }] };
    s.gangsOf 0 == [0, 1] && (s.gang 1).number == 1 && s.kills.any (fun k => k.gang == 0)) = true := by decide +kernel
/-- PacketsAndSessions: packets that name a held grid, that name none, and one for another partition. -/
theorem test_grid_packets_met : (let bytes := fun (kind part : Byte) => [kind, part] ++ List.replicate 6 (0 : Byte) ++ leBytes 8 77 ++ List.replicate 16 (0 : Byte)
    let s := placed.modGrid 0 (fun g => { g with gid := 77, chips := 2, multi := .reserved })
    ([3, 4, 5] : List Byte).all (fun kind => let k := Packet.parse (bytes kind 0)
      k.type == kind.toNat && k.part == 0 && k.gid == 77 && (Packet.parse (bytes kind 1)).part != 0 && (s.grid 0).gid == k.gid && (s.grid 0).part == k.part && (s.grid 0).chips != 0 &&
      s.grids.length == 1 && !(s.grid 0).dead && !(s.grid 0).reported && !s.dev.fatal && decide s.memWf && placed.grids.all (fun g => g.chips == 0))) = true := by decide +kernel
/-- DistributorSteps: nothing watches for what an ended team left in a unit; DeviceSteps: a peer's atomic on the last words of memory. -/
theorem test_units_at_rest : (State.reset.unit 255).ops = [] ∧ State.reset.watch = [] := by decide +kernel
theorem test_peer_atomic_met : (768 * 10 ^ 9 - 8) % 8 = 0 ∧ State.reset.partOfPa (768 * 10 ^ 9 - 8) = 0 ∧ State.reset.keySlot ((768 * 10 ^ 9 - 8) / 128) = 0 ∧ State.reset.memWf := by decide +kernel

/-! ### The ordering model: the catalogue of R276 -/

/-- Threads 0 to 3 on cores and clusters of their own; x, y and f are one byte each of three lines. -/
def apartSites (n : Nat) : List Order.Site := (List.range n).map fun i => { quire := i, core := i, cluster := i }
/-- The same with a thread put on core 0. -/
def together (n i : Nat) : List Order.Site := (apartSites n).set i { quire := i }
def lx : Order.Loc := .mem 0
def ly : Order.Loc := .mem 128
def lf : Order.Loc := .mem 256
/-- An `.sh` store, or a release of a scope; an `.sh` load, or an acquire; a FENCE; BARSYN at `.cl` of one phase. -/
def doSt (l : Order.Loc) (n : Nat) (rel : Scope := .none) : Order.Doing :=
  { instr := if rel = .none then .stSh h0 acc else .st h0 { acc with order := .rel, scope := rel }, bytes := [l], val := .const n }
def doLd (l : Order.Loc) (acq : Scope := .none) : Order.Doing :=
  { instr := if acq = .none then .ldSh h1 acc else .ld h1 { acc with order := .acq, scope := acq }, bytes := [l] }
def doFence (k : FenceKind) (s : Scope) : Order.Doing := { instr := .fence h0 k s }
def doBar : Order.Doing := { instr := .barsyn h0 ⟨false, 255, .imm 0, .cl⟩ }
def doAdd : Order.Doing := { instr := .atom h1 atm, bytes := [lx], val := .plus 1 }
/-- Tests of threads alone, or with work of agents that have the sites behind them. -/
def lit (sites : List Order.Site) (ts : List (List Order.Doing)) (more : List (List Order.Work) := []) : Order.Litmus :=
  ⟨sites, ts.zipIdx.flatMap (fun t => Order.threadEvents t.2 t.1) ++ more.zipIdx.flatMap (fun w => Order.workEvents (ts.length + w.2) w.1), []⟩
/-- The write-back, by an eviction, of the store at a place. -/
def evicts (p : Order.Place) : List (List Order.Work) := [[.evict [(lx, p)]]]
/-- Tests 1 to 4: message passing; a plane's death gives no event, so Test 2's second row is its first. -/
theorem test_message_passing :
    (lit (apartSites 2) [[doSt lx 1, doSt ly 1], [doLd ly, doLd lx]]).shows [1, 0] = true ∧
    ([[1, 0], [0, 0], [0, 1], [1, 1]].map (lit (apartSites 2) [[doSt lx 1, doSt ly 1 .dv], [doLd ly .dv, doLd lx]]).shows) = [false, true, true, true] ∧
    (lit (apartSites 2) [[doSt lx 1, ({ instr := .planeDeclareDead 1 } : Order.Doing), doSt ly 1 .dv], [doLd ly .dv, doLd lx]]).shows [1, 0] = false ∧
    (lit (apartSites 2) [[doSt lx 1, doFence .rel .dv, doSt ly 1], [doLd ly, doFence .acq .dv, doLd lx]]).shows [1, 0] = false ∧
    (lit (apartSites 2) [[doSt lx 1, doSt ly 1 .cr], [doLd ly .cr, doLd lx]]).shows [1, 0] = true := by decide +kernel
/-- Tests 5 and 6: one core with local data; local-class data across a barrier, as shown, without T0's CMAINT, without T1's, where
the read is the one that filled its line (T1 read x before the barrier). -/
theorem test_local_class : ([[1, 0], [0, 0], [0, 1], [1, 1]].map (lit (together 2 1) [[doSt lx 1, doSt ly 1 .cr], [doLd ly .cr, doLd lx]]).shows) =
      [false, true, true, true] ∧
    (let sites : List Order.Site := (apartSites 2 ++ [({ agent := .eviction } : Order.Site)]).map (fun (x : Order.Site) => { x with cluster := 0 })
    let store : Order.Doing := { instr := .st h0 acc, bytes := [lx], val := .const 1 }
    let clean : Order.Doing := { instr := .cmaint h0 0 .g 10 0xFF 0, bytes := [lx], merge := [(lx, ⟨0, 0⟩)] }
    let load : Order.Doing := { instr := .ld h1 acc, bytes := [lx] }
    let other : Order.Doing := { instr := .ld h1 acc, bytes := [.mem 1], fills := [lx] }
    let inv : Order.Doing := { instr := .cmaint h0 1 .g 10 0xFF 0, drops := [lx] }
    let kept : Order.Doing := { load with fill := [(lx, ⟨1, 0⟩)] }
    ([[0, 0], [1, 0], [0, 1]].map (lit sites [[store, clean, doBar], [load, doBar, inv, load]]).shows) = [false, false, true] ∧
    (lit sites [[store, clean, doBar], [load, doBar, inv, kept]]).shows [0, 0] = false ∧
    (lit sites [[store, doBar], [load, doBar, inv, load]] (evicts ⟨0, 0⟩)).shows [0, 0] = true ∧
    ([[0, 0], [0, 1]].map (lit sites [[store, clean, doBar], [load, doBar, kept]]).shows) = [true, false] ∧
    ([[0, 0], [0, 1]].map (lit sites [[store, clean, doBar], [other, doBar, kept]]).shows) = [true, true] ∧
    (lit sites [[store, clean, doBar], [other, doBar, inv, kept]]).shows [0, 0] = false) := by
  decide +kernel
/-- Tests 7 to 10: store buffering, with full fences, with a release and an acquire; load buffering, with releases, and with the
stores' data computed from the loads. -/
theorem test_buffering : (lit (apartSites 2) [[doSt lx 1, doLd ly], [doSt ly 1, doLd lx]]).shows [0, 0] = true ∧
    ([[0, 0], [0, 1], [1, 0], [1, 1]].map (lit (apartSites 2) [[doSt lx 1, doFence .full .dv, doLd ly], [doSt ly 1, doFence .full .dv, doLd lx]]).shows) =
      [false, true, true, true] ∧
    (lit (apartSites 2) [[doSt lx 1 .dv, doLd ly .dv], [doSt ly 1 .dv, doLd lx .dv]]).shows [0, 0] = true ∧
    ([.none, .dv].map fun rel => (lit (apartSites 2) [[doLd lx, doSt ly 1 rel], [doLd ly, doSt lx 1 rel]]).shows [1, 1]) = [true, false] ∧
    (let pass := fun (l : Order.Loc) (site : Nat) (from_ : Order.Loc) => ({ doSt l 0 with val := .copied ⟨site, 0⟩ from_ } : Order.Doing)
    (lit (apartSites 2) [[doLd lx, pass ly 0 lx], [doLd ly, pass lx 1 ly]]).shows [1, 1] = true) := by decide +kernel
/-- Tests 11 and 12: independent reads of independent writes on four cores, and with T2 on T0's core; write to read causality. -/
theorem test_causality : ([apartSites 4, together 4 2].map fun sites =>
      (lit sites [[doSt lx 1], [doSt ly 1], [doLd lx .dv, doLd ly], [doLd ly .dv, doLd lx]]).shows [1, 0, 1, 0]) = [false, true] ∧
    ([.dv, .none].map fun rel => (lit (together 3 1) [[doSt lx 1], [doLd lx, doSt ly 1 rel], [doLd ly .dv, doLd lx]]).shows [1, 1, 0]) =
      [false, true] := by decide +kernel
/-- Tests 13, 14, 18 and 21 (no event between T0's store and its handler's read). -/
theorem test_coherence : ([[2, 1], [2, 0], [1, 0], [0, 0], [0, 2], [1, 2]].map (lit (apartSites 2) [[doSt lx 1, doSt lx 2], [doLd lx, doLd lx]]).shows) =
      [false, false, false, true, true, true] ∧
    ([.dv, .none].map fun rel => (lit (apartSites 2) [[doSt lx 1, doSt ly 2 rel], [doSt ly 1, doSt lx 2 rel]]).shows [] [(lx, 1), (ly, 1)]) = [false, true] ∧
    (([([0, 1], 2), ([1, 0], 2), ([0, 0], 1), ([1, 1], 2)] : List (List Nat × Nat)).map fun z => (lit (apartSites 2) [[doAdd], [doAdd]]).shows z.1 [(lx, z.2)]) =
      [true, true, false, false] ∧
    (let store : Order.Doing := { instr := .st h0 acc, bytes := [lx], val := .const 1 }
    [[1, 0], [0, 0], [0, 1]].map (lit (apartSites 2 ++ [{ agent := .eviction }]) [[store, { instr := .ld h1 acc, bytes := [lx] }], [doLd lx]] (evicts ⟨0, 0⟩)).shows) =
      [true, false, false] := by decide +kernel
/-- Test 17: a stamp that adds one and replies with its post-image (one more than it read), against a write-through and against
the merge of a plain store. -/
theorem test_stamp_store : (let stamp : Order.Doing := { instr := .stamp h1 false 1 1 0 0 4 2 0xFF, bytes := [lx], val := .plus 1 }
    let plain : Order.Doing := { instr := .st h0 acc, bytes := [lx], val := .const 5 }
    ([lit (apartSites 2) [[doSt lx 5], [stamp]], lit (apartSites 2 ++ [{ agent := .eviction }]) [[plain], [stamp]] (evicts ⟨0, 0⟩)].map fun t =>
      ([([5], 6), ([0], 5), ([0], 1), ([5], 5)] : List (List Nat × Nat)).map fun z => t.shows z.1 [(lx, z.2)]) =
      [[true, true, false, false], [true, true, false, false]]) := by decide +kernel
/-- Test 15: a copy from x (1 at the start) into h0's buffer, whose bytes hold 9 before: as shown, without the FENCE, without HTAKE. -/
theorem test_copy_handle : (let sites : List Order.Site := [{}, { quire := 1 }, { agent := .engine }, { agent := .handle }]
    let engines : List (List Order.Work) := [[.copy 0 (some (0, 1)) [(lx, .scratch 0 0)]], [.full 0 1]]
    let spine := fun (fence : Bool) => [doSt lx 2] ++ (if fence then [doFence .rel .cr] else []) ++ [{ instr := .cpload h0 0 (.imm 0) 2 10 }]
    let quire := fun (take : Bool) => (if take then [{ instr := .htake h0 (.imm 0) 14, phase := 1 }] else []) ++
      ([{ instr := .ld h1 { acc with space := .s }, bytes := [.scratch 0 0] }, { instr := .hfree h0 (.imm 0), bytes := [.scratch 0 0], phase := 1 }] : List Order.Doing)
    ([(true, true), (false, true), (true, false)].map fun v =>
      [[2], [1], [9]].map ({ lit sites [spine v.1, quire v.2] engines with init := [(lx, 1), (.scratch 0 0, 9)] } : Order.Litmus).shows) =
      [[true, false, false], [true, true, false], [true, false, true]]) := by decide +kernel
/-- Test 16: a pass reads row A (3 before the store of 4) into an accumulator, and a drain writes z (5 before): as shown, and without
MOPF; and a drain `.add`. -/
theorem test_matrix_order : (let sites : List Order.Site := apartSites 2 ++ [{ agent := .engine }]
    let row : Order.Loc := .scratch 0 0
    let tile : Order.Loc := .acc 0 0
    let unit := fun (add : Bool) => ([[.pass 0 [row] [tile] (.copied ⟨2, 0⟩ row), .drain 1 add [(tile, lx)]]] : List (List Order.Work))
    let signer := fun (mopf : Bool) => [{ instr := .st h0 { acc with space := .s }, bytes := [row], val := .const 4 }] ++
      (if mopf then [{ instr := .mopf 0, ops := [0] }] else []) ++ ([{ instr := .mwait h0, ops := [1] }, doSt lf 1 .dv] : List Order.Doing)
    ([(true, false), (false, false), (true, true)].map fun v => [[1, 4], [1, 3], [1, 5], [0, 5], [1, 9]].map
      ({ lit sites [signer v.1, [doLd lf .dv, doLd lx]] (unit v.2) with init := [(row, 3), (tile, 2), (lx, 5)] } : Order.Litmus).shows) =
      [[true, false, false, true, false], [true, true, false, true, false], [false, false, false, true, true]]) := by decide +kernel
/-- Test 19: a put against a cut: as shown, without the fence, and with it at `.cr`; the count is what the cut covers. -/
theorem test_bag_cut : ([[doFence .rel .dv], [], [doFence .rel .cr]].map fun fence =>
      let t := lit (apartSites 2 ++ [{ agent := .memory }]) [[{ instr := .bagput h0 0 8 4 5 0 }] ++ fence ++ [doSt lf 1], [doLd lf .dv, { instr := .bagcut h0 4, num := 1 }]]
        [[.bag 0 0 [(lx, .const 7)]]]
      [t.shows [1] [] [0], t.shows [1] [] [1], t.shows [0] [] [0]]) = [[false, true, true], [true, true, true], [true, true, true]] := by decide +kernel
/-- Table 14.6, row 4 (R349, R352): T1 puts, cuts and maps, then reads the record's byte with a plain load. -/
theorem test_bag_map : (let put : Order.Doing := { instr := .bagput h0 0 8 4 5 0 }
    let load : Order.Doing := { instr := .ld h1 acc, bytes := [lx] }
    let t := fun (last : Order.Doing) => lit (apartSites 1 ++ [{ agent := .memory }]) [[put, { instr := .bagcut h0 4, num := 1 }, last, load]] [[.bag 0 0 [(lx, .const 7)]]]
    ([{ instr := .bagmap h1 8 4 6, num := 2 }, { instr := .nop 0 }].map fun last => [(t last).shows [0] [] [1], (t last).shows [7] [] [1]]) =
      [[false, true], [true, true]]) := by decide +kernel
/-- Test 20: a condition monitor, at `.dv` and at `.cr`; polling gives no other event. -/
theorem test_monitor_order : ([.dv, .cr].map fun s => [[1, 0], [1, 1]].map
      (lit (apartSites 2) [[doSt lx 1, doSt ly 1 .dv], [{ instr := .waitc h1 false 0 false s 8 4 9, bytes := [ly] }, doLd lx]]).shows) =
      [[false, true], [true, true]] := by decide +kernel
/-- R261: a local-class store that a later one of its core overwrote is seen by no other core, and stands next to it; the bytes of
one store take one tag; R220: the lanes of one gathering's atomics go by rising lane. -/
theorem test_coherence_order : (let store := fun (n : Nat) => ({ instr := .st h0 acc, bytes := [lx], val := .const n } : Order.Doing)
    ([[0], [1], [2]].map (lit (apartSites 2 ++ [{ agent := .eviction }]) [[{ store 1 with behind := [(lx, ⟨0, 1⟩)] }, store 2], [doLd lx]] (evicts ⟨0, 1⟩)).shows) =
      [true, false, true]) ∧
    (let both := fun (n : Nat) => ({ instr := .stSh h0 acc, bytes := [lx, .mem 1], val := .const n } : Order.Doing)
    [(1, 1), (2, 2), (1, 2)].map (fun z => (lit (apartSites 2) [[both 1], [both 2]]).shows [] [(lx, z.1), (.mem 1, z.2)]) = [true, true, false]) ∧
    ([[0, 1], [1, 0]].map (lit (together 2 1) [[{ doAdd with gath := some 0 }], [{ doAdd with gath := some 0, lane := 1 }]]).shows) = [true, false] ∧
    (let lane := fun (n : Nat) => ({ doSt lx n with gath := some 0, lane := n } : Order.Doing)
    ([1, 2].map fun n => (lit (together 2 1) [[lane 1], [lane 2]]).shows [] [(lx, n)]) = [false, true]) ∧
    (let cas := fun (done : Bool) (n : Nat) => ({ instr := .cas h1 atm, bytes := [lx], ok := done, val := .plus 1, gath := some 0, lane := n } : Order.Doing)
    ([[0, 0], [1, 0]].map (lit (together 2 1) [[cas false 0], [cas true 1]]).shows) = [true, false]) := by
  decide +kernel
/-- R266: an arrival at one barrier meets no wait at another. -/
theorem test_barrier_names : (let bar := fun (n : Nat) => ({ doBar with bar := { n := n } } : Order.Doing)
    let sites : List Order.Site := (apartSites 2).map (fun (x : Order.Site) => { x with cluster := 0 })
    ([0, 1].map fun n => (lit sites [[doSt lx 1, bar 0], [bar n, doLd lx]]).shows [0]) = [false, true]) := by decide +kernel
/-- Table 18.8 (R417): the stamp that follows the WAITC reads no store of a writer that fenced, but for WAITC at `.cr`, and where the
fence is left out. -/
theorem test_line_variants : (let stamp : Order.Doing := { instr := .stamp h1 false 3 8 0 0 12 10 0xFF, bytes := [lx], val := .plus 1 }
    ([([doFence .rel .dv], .dv), ([doFence .rel .dv], .cr), ([], .dv)].map fun v =>
      (lit (apartSites 2) [[doSt lx 1] ++ v.1 ++ [doSt lf 1], [{ instr := .waitc h1 false 0 false v.2 8 4 9, bytes := [lf] }, stamp]]).shows [1, 0]) =
      [false, true, true]) := by decide +kernel
/-- Table 20.8 (R423): CNT as it was before the last reservation, read after a grid barrier at `.dv` and after one with scope 0. -/
theorem test_grid_scopes : (let bar := fun (sc : Scope) => ({ instr := .gbar h0 2 0xFF 0xFF sc 0, bar := { kind := 2 } } : Order.Doing)
    ([.dv, .none].map fun sc => (lit (apartSites 2) [[doAdd, bar sc], [bar sc, doLd lx]]).shows [0, 0]) = [false, true]) := by decide +kernel
end Sys2Proof.Tests
end

section
/-! SUPPORT. The integer operations of Table 2.6 by their 32-bit results, and the forms over single registers that share them
(R114, R116, R117, R119). -/

namespace Sys2Proof.Machine

/-! ### Forms over single registers -/

@[simp] theorem out32_val (w : Word) : (out32 w).val.setWidth 32 = w := by simp [out32]

theorem inputOf_a32 (n : Nat) (b d : Src) (rd cin : Bool) (th : Thread) : (inputOf (.one n) b d rd cin th).a32 = th.vreg n := by
  simp [inputOf, Src.value]

theorem inputOf_b32 (a d : Src) (n : Nat) (rd cin : Bool) (th : Thread) : (inputOf a (.one n) d rd cin th).b32 = th.vreg n := by
  simp [inputOf, Src.value]

theorem inputOf_d32 (a b : Src) (n : Nat) (cin : Bool) (th : Thread) : (inputOf a b (.one n) true cin th).d32 = th.vreg n := by
  simp [inputOf, Src.value]

section
variable {i : Instr} {lat : Nat} {op : IntIn → IntOut} {d a b : Reg7}

/-- `VecGives` for D := op(A, B). -/
theorem vec3_gives {f : Thread → Word} (hx : ∀ s, exec i s = vec3 i lat op d a b s) (hc : true = i.checked)
    (hop : ∀ x th, x.a32 = th.vreg a.toNat → x.b32 = th.vreg b.toNat → (op x).val.setWidth 32 = f th) :
    VecGives i [a.toNat, b.toNat] d.toNat f :=
  vecInt_gives hx hc (by simp [Src.regs]) (by simp [Src.regs])
    (fun th => hop _ th (inputOf_a32 ..) (inputOf_b32 ..))

/-- `VecGives` for D := op(A, B, D). -/
theorem vec3d_gives {f : Thread → Word} (hx : ∀ s, exec i s = vec3d i lat op d a b s) (hc : true = i.checked)
    (hop : ∀ x th, x.a32 = th.vreg a.toNat → x.b32 = th.vreg b.toNat → x.d32 = th.vreg d.toNat →
      (op x).val.setWidth 32 = f th) :
    VecGives i [a.toNat, b.toNat] d.toNat f :=
  vecInt_gives hx hc (by simp [Src.regs]) (by simp [Src.regs])
    (fun th => hop _ th (inputOf_a32 ..) (inputOf_b32 ..) (inputOf_d32 ..))

/-- `PairGives` for pair D := op(A, B, pair D). -/
theorem vecWide_gives {f : Thread → DWord}
    (hx : ∀ s, exec i s = vecInt i lat op (.two d.toNat) (.one a.toNat) (.one b.toNat) true none none s) (hc : true = i.checked)
    (hop : ∀ x th, x.a32 = th.vreg a.toNat → x.b32 = th.vreg b.toNat → x.d = th.vpair d.toNat → (op x).val = f th) :
    PairGives i [a.toNat, b.toNat] d.toNat f :=
  vecInt_pairGives hx hc (by simp [Src.regs]) (by simp [Src.regs])
    (fun th => hop _ th (inputOf_a32 ..) (inputOf_b32 ..) rfl)

/-- The model's sat is the clamp to an interval that is not empty. -/
theorem satInt_eq_clamp {x lo hi : Int} (h : lo ≤ hi) : satInt x lo hi = max lo (min hi x) := by
  unfold satInt
  split
  · omega
  · split <;> omega

/-- R114: D := op(A, B) for a saturating form, whose result is `x` clamped and whose SAT flag says that this differs from `x`. -/
theorem vec3_satGives {x : Thread → Int} {lo hi : Int} (hx : ∀ s, exec i s = vec3 i lat op d a b s) (hc : true = i.checked)
    (hle : lo ≤ hi)
    (hop : ∀ y th, y.a32 = th.vreg a.toNat → y.b32 = th.vreg b.toNat → op y = outSat (x th) lo hi) :
    VecGives i [a.toNat, b.toNat] d.toNat (fun th => BitVec.ofInt 32 (max lo (min hi (x th)))) ∧
      FlagGives i [a.toNat, b.toNat] fSAT (fun th => decide (max lo (min hi (x th)) ≠ x th)) := by
  refine ⟨vec3_gives hx hc fun y th ha hb => ?_,
    vecInt_flagGives hx hc (by simp [Src.regs]) (by simp [Src.regs]) fun th v => ?_⟩
  · rw [hop y th ha hb, outSat, satInt_eq_clamp hle]
    simp
  · rw [hop _ th (by simp [Src.value]) (by simp [Src.value]), outSat, satInt_eq_clamp hle]
    simp [flagIf]

end

/-! ### Addition, subtraction, minimum, maximum (R114) -/

theorem ofInt_toNat (w : Word) : BitVec.ofInt 32 w.toNat = w := by
  rw [BitVec.ofInt_natCast, BitVec.ofNat_toNat, BitVec.setWidth_eq]

theorem opAdd_val (x : IntIn) : (opAdd x).val.setWidth 32 = BitVec.ofInt 32 (x.a32.toNat + x.b32.toNat) := by
  rw [opAdd, out32_val, BitVec.ofInt_add, ofInt_toNat, ofInt_toNat]

theorem opSub_val (x : IntIn) : (opSub x).val.setWidth 32 = BitVec.ofInt 32 (x.a32.toNat - x.b32.toNat) := by
  rw [opSub, out32_val, Int.sub_eq_add_neg, BitVec.ofInt_add, BitVec.ofInt_neg, ofInt_toNat, ofInt_toNat, BitVec.sub_eq_add_neg]

theorem opMinI32_val (x : IntIn) : (opMinI32 x).val.setWidth 32 = BitVec.ofInt 32 (min x.a32.toInt x.b32.toInt) := by
  rw [opMinI32, out32_val, Int.min_def]
  split <;> rw [BitVec.ofInt_toInt]

theorem opMaxI32_val (x : IntIn) : (opMaxI32 x).val.setWidth 32 = BitVec.ofInt 32 (max x.a32.toInt x.b32.toInt) := by
  rw [opMaxI32, out32_val, Int.max_def]
  split <;> rw [BitVec.ofInt_toInt]

theorem opMinN32_val (x : IntIn) :
    (opMinN32 x).val.setWidth 32 = BitVec.ofInt 32 (min (x.a32.toNat : Int) x.b32.toNat) := by
  rw [opMinN32, out32_val, Int.min_def]
  simp only [Int.ofNat_le]
  split <;> rw [ofInt_toNat]

theorem opMaxN32_val (x : IntIn) :
    (opMaxN32 x).val.setWidth 32 = BitVec.ofInt 32 (max (x.a32.toNat : Int) x.b32.toNat) := by
  rw [opMaxN32, out32_val, Int.max_def]
  simp only [Int.ofNat_le]
  split <;> rw [ofInt_toNat]

/-! ### Products (R116) -/

theorem opMul_val (x : IntIn) : (opMul x).val.setWidth 32 = BitVec.ofInt 32 (x.a32.toNat * x.b32.toNat) := by
  rw [opMul, out32_val, BitVec.ofInt_mul, ofInt_toNat, ofInt_toNat]

theorem opMad_val (x : IntIn) :
    (opMad x).val.setWidth 32 = BitVec.ofInt 32 (x.a32.toNat * x.b32.toNat + x.d32.toNat) := by
  rw [opMad, out32_val, BitVec.ofInt_add, BitVec.ofInt_mul, ofInt_toNat, ofInt_toNat, ofInt_toNat]

/-- The high half of a 64-bit string is its integer's quotient by 2^32. -/
theorem highHalf_ofInt (x : Int) : (BitVec.ofInt 64 x).extractLsb' 32 32 = BitVec.ofInt 32 (x / 2 ^ 32) := by
  apply BitVec.eq_of_toNat_eq
  rw [BitVec.extractLsb'_toNat, BitVec.toNat_ofInt, BitVec.toNat_ofInt, Nat.shiftRight_eq_div_pow]
  omega

theorem opMulhI32_val (x : IntIn) :
    (opMulhI32 x).val.setWidth 32 = BitVec.ofInt 32 (x.a32.toInt * x.b32.toInt / 2 ^ 32) := by
  rw [opMulhI32, out32_val, highHalf_ofInt]

theorem opMulhN32_val (x : IntIn) :
    (opMulhN32 x).val.setWidth 32 = BitVec.ofInt 32 ((x.a32.toNat : Int) * x.b32.toNat / 2 ^ 32) := by
  rw [opMulhN32, out32_val, ← BitVec.ofInt_natCast, highHalf_ofInt, Int.natCast_mul]

theorem opMadwN32_val (x : IntIn) :
    (opMadwN32 x).val = BitVec.ofInt 64 ((x.a32.toNat : Int) * x.b32.toNat + x.d.toNat) := by
  rw [opMadwN32, out64, ← BitVec.ofInt_natCast, Int.natCast_add, Int.natCast_mul]

/-! ### Shifts and rotation (R117) -/

theorem shlW_eq_mul {w : Nat} (x : BitVec w) (n : Nat) : shlW x n = if n ≥ w then 0 else BitVec.ofNat w (x.toNat * 2 ^ n) := by
  have h : x <<< n = BitVec.ofNat w (x.toNat * 2 ^ n) := by
    apply BitVec.eq_of_toNat_eq
    rw [BitVec.toNat_shiftLeft, BitVec.toNat_ofNat, Nat.shiftLeft_eq]
  rw [shlW, h]

theorem shrW_eq_div {w : Nat} (x : BitVec w) (n : Nat) : shrW x n = if n ≥ w then 0 else BitVec.ofNat w (x.toNat / 2 ^ n) := by
  rw [shrW, ← Nat.shiftRight_eq_div_pow, ← BitVec.toNat_ushiftRight, BitVec.ofNat_toNat, BitVec.setWidth_eq]

theorem shraW_eq_floor {w : Nat} (x : BitVec w) (n : Nat) :
    shraW x n = if n ≥ w then (if x.msb then BitVec.allOnes w else 0) else BitVec.ofInt w (x.toInt / 2 ^ n) := by
  rw [shraW, BitVec.sshiftRight_eq, Int.shiftRight_eq_div_pow, Int.natCast_pow, Int.cast_ofNat_Int]

/-- A rotation to the left reads its window of the string written twice. -/
theorem rotateLeft_eq_window (x : Word) {m : Nat} (hm : m < 32) :
    x.rotateLeft m = (x ++ x : BitVec 64).extractLsb' (32 - m) 32 := by
  apply BitVec.eq_of_getLsbD_eq
  intro j hj
  rw [BitVec.getLsbD_rotateLeft, BitVec.getLsbD_extractLsb', BitVec.getLsbD_append, Nat.mod_eq_of_lt hm]
  by_cases hjm : j < m
  · have h : 32 - m + j < 32 := by omega
    simp [hj, hjm, h]
  · have h : ¬ 32 - m + j < 32 := by omega
    have e : 32 - m + j - 32 = j - m := by omega
    simp [hj, hjm, h, e]

/-! ### Bit fields and bytes (R119) -/

theorem bfePos_eq (b : Word) : bfePos b = min (b.toNat % 256) 32 := by
  rw [bfePos, BitVec.extractLsb'_toNat]
  rfl

theorem bfeWidth_eq (b : Word) : bfeWidth b = min (b.toNat / 256 % 256) (32 - bfePos b) := by
  rw [bfeWidth, BitVec.extractLsb'_toNat, Nat.shiftRight_eq_div_pow]

theorem opFunnel_val (x : IntIn) :
    (opFunnel x).val.setWidth 32 = BitVec.ofNat 32 ((x.a32 ++ x.b32 : BitVec 64).toNat / 2 ^ min x.d32.toNat 32) := by
  rw [opFunnel, out32_val, ← Nat.shiftRight_eq_div_pow, ← BitVec.toNat_ushiftRight, BitVec.ofNat_toNat]

/-- The field of `a` that `b` names, as a number. -/
def bitField (a b : Word) : Nat := a.toNat / 2 ^ bfePos b % 2 ^ bfeWidth b

theorem opBfeN32_val (x : IntIn) :
    (opBfeN32 x).val.setWidth 32 = if bfeWidth x.b32 = 0 then 0 else BitVec.ofNat 32 (bitField x.a32 x.b32) := by
  rw [opBfeN32, out32_val]
  split
  · next hw => simp [hw, Nat.mod_one]
  · rfl

/-- A string of a field sign-extended: its integer, the top bit of the field counting down. -/
theorem signExtend_ofNat {w f : Nat} (hw : w ≠ 0) (hf : f < 2 ^ w) :
    (BitVec.ofNat w f).signExtend 32 = BitVec.ofInt 32 (if f < 2 ^ (w - 1) then (f : Int) else f - 2 ^ w) := by
  have hp : 2 ^ (w - 1) * 2 = 2 ^ w := Nat.two_pow_pred_mul_two (Nat.pos_of_ne_zero hw)
  rw [BitVec.signExtend, BitVec.toInt_eq_toNat_cond, BitVec.toNat_ofNat, Nat.mod_eq_of_lt hf]
  congr 1
  by_cases h : f < 2 ^ (w - 1)
  · rw [if_pos h, if_pos (by omega)]
  · rw [if_neg h, if_neg (by omega), Int.natCast_pow, Int.cast_ofNat_Int]

theorem opBfeI32_val (x : IntIn) : (opBfeI32 x).val.setWidth 32 =
    if bfeWidth x.b32 = 0 then 0 else BitVec.ofInt 32 (if bitField x.a32 x.b32 < 2 ^ (bfeWidth x.b32 - 1)
      then (bitField x.a32 x.b32 : Int) else bitField x.a32 x.b32 - 2 ^ bfeWidth x.b32) := by
  simp only [opBfeI32, out32_val]
  split
  · rfl
  · next hw => exact signExtend_ofNat hw (Nat.mod_lt _ (Nat.two_pow_pos _))

/-- BFI by bits: those of the field come from A, the others stay. -/
theorem opBfi_bit (x : IntIn) {j : Nat} (hj : j < 32) : ((opBfi x).val.setWidth 32).getLsbD j =
    if bfePos x.b32 ≤ j ∧ j < bfePos x.b32 + bfeWidth x.b32 then x.a32.getLsbD (j - bfePos x.b32) else x.d32.getLsbD j := by
  simp only [opBfi, out32_val, BitVec.getLsbD_or, BitVec.getLsbD_and, BitVec.getLsbD_not, BitVec.getLsbD_shiftLeft,
    BitVec.getLsbD_ofNat, Nat.testBit_shiftLeft, Nat.testBit_two_pow_sub_one, hj]
  by_cases hp : bfePos x.b32 ≤ j
  · by_cases hw : j < bfePos x.b32 + bfeWidth x.b32
    · have : j - bfePos x.b32 < bfeWidth x.b32 := by omega
      simp [hp, hw, this, Nat.not_lt.mpr hp]
    · have : ¬ j - bfePos x.b32 < bfeWidth x.b32 := by omega
      simp [hw, this]
  · simp [hp]

/-- R119: the byte `byte` as selector byte `e` fills it. -/
def filledByte (e byte : Nat) : Nat :=
  match e / 8 % 4 with | 0 => byte | 1 => 0 | 2 => if byte ≥ 128 then 255 else 0 | _ => 255

/-- Byte `k` of the result of BSWZ with source string `y` and selector `s`. -/
def swizzledByte (y : DWord) (s : Word) (k : Nat) : Nat :=
  filledByte (s.toNat / 2 ^ (8 * k) % 256) (y.toNat / 2 ^ (8 * (s.toNat / 2 ^ (8 * k) % 256 % 8)) % 256)

theorem bswzByte_toNat (y : DWord) (e : Byte) :
    (bswzByte y e).toNat = filledByte e.toNat (y.toNat / 2 ^ (8 * (e.toNat % 8)) % 256) := by
  have hmode : (e.extractLsb' 3 2).toNat = e.toNat / 8 % 4 := by
    rw [BitVec.extractLsb'_toNat, Nat.shiftRight_eq_div_pow]
  have hbyte : ((y >>> (8 * (e.extractLsb' 0 3).toNat)).setWidth 8).toNat = y.toNat / 2 ^ (8 * (e.toNat % 8)) % 256 := by
    rw [BitVec.toNat_setWidth, BitVec.toNat_ushiftRight, BitVec.extractLsb'_toNat, Nat.shiftRight_eq_div_pow]
    rfl
  have hmsb := BitVec.msb_eq_decide ((y >>> (8 * (e.extractLsb' 0 3).toNat)).setWidth 8)
  rw [hbyte] at hmsb
  simp only [bswzByte, filledByte, hmode, hmsb]
  have hlt : e.toNat / 8 % 4 < 4 := Nat.mod_lt _ (by decide)
  generalize e.toNat / 8 % 4 = mode at hlt
  match mode, hlt with
  | 0, _ => exact hbyte
  | 1, _ => rfl
  | 2, _ => by_cases h : y.toNat / 2 ^ (8 * (e.toNat % 8)) % 256 ≥ 128 <;> simp [h]
  | 3, _ => rfl

theorem bswzByte_extract (y : DWord) (s : Word) (k : Nat) :
    (bswzByte y (s.extractLsb' (8 * k) 8)).toNat = swizzledByte y s k := by
  rw [bswzByte_toNat, BitVec.extractLsb'_toNat, Nat.shiftRight_eq_div_pow]
  rfl

theorem append_toNat {m n : Nat} (x : BitVec m) (y : BitVec n) : (x ++ y).toNat = x.toNat * 2 ^ n + y.toNat := by
  rw [BitVec.toNat_append, ← Nat.shiftLeft_add_eq_or_of_lt y.isLt, Nat.shiftLeft_eq]

/-- Four bytes written one after another, as a number. -/
theorem fourBytes_eq (b3 b2 b1 b0 : Byte) : (b3 ++ b2 ++ b1 ++ b0 : BitVec (8 + 8 + 8 + 8)) =
    BitVec.ofNat 32 (b0.toNat + 2 ^ 8 * b1.toNat + 2 ^ 16 * b2.toNat + 2 ^ 24 * b3.toNat) := by
  apply BitVec.eq_of_toNat_eq
  simp only [append_toNat, BitVec.toNat_ofNat]
  omega

theorem opBswz_val (x : IntIn) : (opBswz x).val.setWidth 32 =
    let swz := swizzledByte (x.b32 ++ x.a32) x.d32
    BitVec.ofNat 32 (swz 0 + 2 ^ 8 * swz 1 + 2 ^ 16 * swz 2 + 2 ^ 24 * swz 3) := by
  simp only [opBswz, ← bswzByte_extract, ← fourBytes_eq]
  exact out32_val _

end Sys2Proof.Machine
end

section
/-! The statements on integer arithmetic, products, shifts and bit fields (chapter 05), each from the results of its operations. -/

namespace Sys2Proof.Machine

/-- Settles O1: each operation by its result (R114, Table 5.3), and each saturating form by the clamp that its meaning names. -/
theorem integerTwoOperand : Obligations.IntegerTwoOperand := by
  unfold Obligations.IntegerTwoOperand
  intro d a b st
  dsimp only
  refine ⟨?add, ?sub, ?minI, ?maxI, ?minN, ?maxN, ?and, ?or, ?xor, ?andn, ?addI, ?addN, ?subI, ?subN⟩
  case add => exact vec3_gives (fun _ => rfl) rfl fun x th ha hb => by rw [opAdd_val, ha, hb]
  case sub => exact vec3_gives (fun _ => rfl) rfl fun x th ha hb => by rw [opSub_val, ha, hb]
  case minI => exact vec3_gives (fun _ => rfl) rfl fun x th ha hb => by rw [opMinI32_val, ha, hb]
  case maxI => exact vec3_gives (fun _ => rfl) rfl fun x th ha hb => by rw [opMaxI32_val, ha, hb]
  case minN => exact vec3_gives (fun _ => rfl) rfl fun x th ha hb => by rw [opMinN32_val, ha, hb]
  case maxN => exact vec3_gives (fun _ => rfl) rfl fun x th ha hb => by rw [opMaxN32_val, ha, hb]
  case and => exact vec3_gives (fun _ => rfl) rfl fun x th ha hb => by rw [opAnd, out32_val, ha, hb]
  case or => exact vec3_gives (fun _ => rfl) rfl fun x th ha hb => by rw [opOr, out32_val, ha, hb]
  case xor => exact vec3_gives (fun _ => rfl) rfl fun x th ha hb => by rw [opXor, out32_val, ha, hb]
  case andn => exact vec3_gives (fun _ => rfl) rfl fun x th ha hb => by rw [opAndn, out32_val, ha, hb]
  case addI => exact vec3_satGives (fun _ => rfl) rfl (by decide) fun y th ha hb => by rw [opAddI32Sat, ha, hb]
  case addN => exact vec3_satGives (fun _ => rfl) rfl (by decide) fun y th ha hb => by rw [opAddN32Sat, ha, hb]
  case subI => exact vec3_satGives (fun _ => rfl) rfl (by decide) fun y th ha hb => by rw [opSubI32Sat, ha, hb]
  case subN => exact vec3_satGives (fun _ => rfl) rfl (by decide) fun y th ha hb => by rw [opSubN32Sat, ha, hb]

/-- Settles O3: each product by its result, and no flag, since a plain 32-bit or 64-bit result sets none (R116). -/
theorem multiplies : Obligations.Multiplies := by
  unfold Obligations.Multiplies
  intro d a b st
  dsimp only
  refine ⟨?mul, ?mulhI, ?mulhN, ?mad, ?madwI, ?madwN, ?flags⟩
  case mul => exact vec3_gives (fun _ => rfl) rfl fun x th ha hb => by rw [opMul_val, ha, hb]
  case mulhI => exact vec3_gives (fun _ => rfl) rfl fun x th ha hb => by rw [opMulhI32_val, ha, hb]
  case mulhN => exact vec3_gives (fun _ => rfl) rfl fun x th ha hb => by rw [opMulhN32_val, ha, hb]
  case mad => exact vec3d_gives (fun _ => rfl) rfl fun x th ha hb hd => by rw [opMad_val, ha, hb, hd]
  case madwI => exact vecWide_gives (fun _ => rfl) rfl fun x th ha hb hd => by rw [opMadwI32, out64, ha, hb, hd]
  case madwN => exact vecWide_gives (fun _ => rfl) rfl fun x th ha hb hd => by rw [opMadwN32_val, ha, hb, hd]
  case flags =>
    simp only [List.forall_mem_cons]
    refine ⟨?_, ?_, ?_, ?_, ?_, ?_, List.forall_mem_nil _⟩ <;> exact vecInt_noFlags (fun _ => rfl) rfl fun _ => rfl

/-- Settles O4: the shifts of R117 by their arithmetic at width 32, and ROT by the window it reads. -/
theorem shifts : Obligations.Shifts := by
  unfold Obligations.Shifts
  intro d a b st
  dsimp only
  refine ⟨?shl, ?shr, ?shra, ?rot⟩
  case shl => exact vec3_gives (fun _ => rfl) rfl fun x th ha hb => by rw [opShl, out32_val, shlW_eq_mul, ha, hb]
  case shr => exact vec3_gives (fun _ => rfl) rfl fun x th ha hb => by rw [opShr, out32_val, shrW_eq_div, ha, hb]
  case shra =>
    exact vec3_gives (fun _ => rfl) rfl fun x th ha hb => by
      rw [opShra, out32_val, shraW_eq_floor, BitVec.msb_eq_getLsbD_last, ha, hb]
      rfl
  case rot =>
    exact vec3_gives (fun _ => rfl) rfl fun x th ha hb => by
      rw [opRot, out32_val, rotateLeft_eq_window _ (Nat.mod_lt _ (by decide)), ha, hb]

/-- Settles O6: FUNNEL, the extractions and BSWZ by their numbers, BFI bit by bit (R119). -/
theorem bitFields : Obligations.BitFields := by
  unfold Obligations.BitFields
  intro d a b st
  dsimp only
  refine ⟨?funnel, ?bfeN, ?bfeI, ?bfi, ?bswz⟩
  case funnel => exact vec3d_gives (fun _ => rfl) rfl fun x th ha hb hd => by rw [opFunnel_val, ha, hb, hd]
  case bfeN =>
    exact vec3_gives (fun _ => rfl) rfl fun x th ha hb => by
      simp only [opBfeN32_val, bitField, bfeWidth_eq, bfePos_eq, ha, hb]
  case bfeI =>
    exact vec3_gives (fun _ => rfl) rfl fun x th ha hb => by
      simp only [opBfeI32_val, bitField, bfeWidth_eq, bfePos_eq, ha, hb]
  case bfi =>
    intro s c h hu
    obtain ⟨t, ht, hv⟩ := vecInt_gives (i := .bfi d a b st) (ns := [a.toNat, b.toNat]) (fun _ => rfl) rfl
      (by simp [Src.regs]) (by simp [Src.regs]) (fun _ => rfl) s c h hu
    refine ⟨t, ht, fun y hy hr => ⟨_, hv y hy hr, fun j hj => ?_⟩⟩
    rw [opBfi_bit _ hj, inputOf_a32, inputOf_b32, inputOf_d32, bfeWidth_eq, bfePos_eq]
  case bswz =>
    exact vec3d_gives (fun _ => rfl) rfl fun x th ha hb hd => by
      rw [opBswz_val, ha, hb, hd]
      rfl

end Sys2Proof.Machine
end

section
/-! SUPPORT. A binary32 word as read (R127, R131): its fields, its kind and class, and its place in the order of values. -/

namespace Sys2Proof.Machine

/-! ### The fields of a word -/

/-- The exponent field of a binary32 word. -/
def expField (w : Word) : Nat := w.toNat / 2 ^ 23 % 256
/-- The fraction field of a binary32 word. -/
def fracField (w : Word) : Nat := w.toNat % 2 ^ 23

theorem fracField_lt (w : Word) : fracField w < 2 ^ 23 := Nat.mod_lt _ (Nat.two_pow_pos 23)

/-- A word without its sign bit: its exponent field above its fraction field. -/
theorem lowBits_eq_fields (w : Word) : w.toNat % 2 ^ 31 = expField w * 2 ^ 23 + fracField w := by
  unfold expField fracField
  omega

theorem signBit_eq_msb (w : Word) : (w.toNat / 2 ^ 31 % 2 == 1) = w.msb := by
  rw [BitVec.msb_eq_decide, Bool.eq_iff_iff, beq_iff_eq, decide_eq_true_eq]
  omega

/-- A word as read, by its fields. -/
theorem readF32_eq (w : Word) : readF32 w =
    if expField w = 255 then
      (if fracField w = 0 then .inf w.msb else .nan (decide (fracField w < 2 ^ 22)))
    else if expField w = 0 then .fin w.msb (fracField w) (-149)
    else .fin w.msb (fracField w + 2 ^ 23) (-149 + ((expField w - 1 : Nat) : Int)) := by
  rw [← signBit_eq_msb]
  change (if expField w = 255 then if fracField w = 0 then _ else _
    else if expField w = 0 then _ else FVal.fin _ _ (-126 + (expField w : Int) - 1 - 23)) = _
  split
  · split <;> rfl
  split
  · rfl
  · next _ h0 =>
    rw [show -126 + (expField w : Int) - 1 - 23 = -149 + ((expField w - 1 : Nat) : Int) by omega]
    rfl

theorem isNaN32_eq (w : Word) : isNaN32 w = (decide (expField w = 255) && decide (fracField w ≠ 0)) := rfl

theorem isSig32_eq (w : Word) : isSig32 w = (isNaN32 w && decide (fracField w < 2 ^ 22)) := by
  have hbit : (!w.getLsbD 22) = decide (fracField w < 2 ^ 22) := by
    rw [BitVec.getLsbD, Nat.testBit_eq_decide_div_mod_eq, ← decide_not, decide_eq_decide, fracField]
    omega
  rw [isSig32, hbit]

@[simp] theorem isNaN_readF32 (w : Word) : (readF32 w).isNaN = isNaN32 w := by
  rw [readF32_eq, isNaN32_eq]
  by_cases he : expField w = 255
  · by_cases h0 : fracField w = 0
    · simp only [he, h0, if_true, FVal.isNaN, decide_true, ne_eq, not_true, decide_false, Bool.and_false]
    · simp only [he, h0, if_true, if_false, FVal.isNaN, decide_true, ne_eq, not_false_iff, Bool.and_true]
  · simp only [he, if_false, decide_false, Bool.false_and]
    split <;> rfl

@[simp] theorem isSig_readF32 (w : Word) : (readF32 w).isSig = isSig32 w := by
  rw [readF32_eq, isSig32_eq, isNaN32_eq]
  by_cases he : expField w = 255
  · by_cases h0 : fracField w = 0
    · simp only [he, h0, if_true, FVal.isSig, ne_eq, not_true, decide_false, Bool.and_false, Bool.false_and]
    · simp only [he, h0, if_true, if_false, FVal.isSig, decide_true, ne_eq, not_false_iff, Bool.true_and]
  · simp only [he, if_false, decide_false, Bool.false_and]
    split <;> rfl

/-! ### Classes (R141) -/

/-- R141: the bit of Table 6.4 for a word. -/
def classBit (w : Word) : Nat :=
  if expField w = 255 then (if fracField w = 0 then (if w.msb then 2 else 9) else if fracField w < 2 ^ 22 then 0 else 1)
  else if expField w = 0 then (if fracField w = 0 then (if w.msb then 5 else 6) else if w.msb then 4 else 7)
  else if w.msb then 3 else 8

theorem f32Class_eq (w : Word) : f32Class w = BitVec.ofNat 32 (2 ^ classBit w) := by
  -- 2 ^ 23 and 2 ^ 22 stand as the numerals that simp makes of them
  have hf : fracField w < 8388608 := fracField_lt w
  rw [f32Class, readF32_eq, classBit]
  by_cases he : expField w = 255
  · by_cases h0 : fracField w = 0
    · cases w.msb <;> simp [he, h0]
    · by_cases hq : fracField w < 4194304 <;> simp [he, h0, hq]
  · by_cases hz : expField w = 0
    · by_cases h0 : fracField w = 0 <;> cases w.msb <;> simp [hz, h0, hf]
    · have hbig : ¬ fracField w + 8388608 < 8388608 := by omega
      cases w.msb <;> simp [he, hz, hbig]

/-! ### Order (R138) -/

theorem place32_eq_signed (w : Word) : place32 w = signed w.msb (w.toNat % 2 ^ 31) := by
  rw [place32, signed]
  split
  · rfl
  · next h =>
    rw [BitVec.msb_eq_decide, decide_eq_true_eq] at h
    omega

theorem sign_eq_sign {x y : Int} (hp : 0 < x ↔ 0 < y) (hn : x < 0 ↔ y < 0) : x.sign = y.sign := by
  rcases Int.lt_trichotomy x 0 with h | h | h
  · rw [Int.sign_eq_neg_one_of_neg h, Int.sign_eq_neg_one_of_neg (hn.mp h)]
  · rw [h, show y = 0 by omega]
  · rw [Int.sign_eq_one_of_pos h, Int.sign_eq_one_of_pos (hp.mp h)]

theorem sign_eq_ite (d : Int) : (if d < 0 then -1 else if d = 0 then 0 else 1 : Int) = d.sign := by
  split
  · next hn => exact (Int.sign_eq_neg_one_of_neg hn).symm
  · split
    · next h0 => rw [h0, Int.sign_zero]
    · exact (Int.sign_eq_one_of_pos (by omega)).symm

/-- A function of magnitudes that rises at every step. -/
def Rising (g : Nat → Nat) : Prop := ∀ n, g n < g (n + 1)

theorem Rising.lt {g : Nat → Nat} (hg : Rising g) {a b : Nat} (h : a < b) : g a < g b := by
  induction h with
  | refl => exact hg a
  | step _ ih => exact Nat.lt_trans ih (hg _)

theorem Rising.lt_iff {g : Nat → Nat} (hg : Rising g) (a b : Nat) : g a < g b ↔ a < b := by
  refine ⟨fun h => ?_, hg.lt⟩
  rcases Nat.lt_trichotomy a b with hab | rfl | hba
  · exact hab
  · exact absurd h (Nat.lt_irrefl _)
  · exact absurd (hg.lt hba) (Nat.lt_asymm h)

/-- A rising function of magnitudes that keeps 0 keeps the order of signed magnitudes. -/
theorem sign_signed_sub {g : Nat → Nat} (hg : Rising g) (h0 : g 0 = 0) (s t : Bool) (a b : Nat) :
    (signed s (g a) - signed t (g b)).sign = (signed s a - signed t b).sign := by
  have hab := hg.lt_iff a b
  have hba := hg.lt_iff b a
  have ha := hg.lt_iff 0 a
  have hb := hg.lt_iff 0 b
  refine sign_eq_sign ?_ ?_
  · cases s <;> cases t <;> simp only [signed, if_true, Bool.false_eq_true, if_false] <;> omega
  · cases s <;> cases t <;> simp only [signed, if_true, Bool.false_eq_true, if_false] <;> omega

/-- The order of two finite values, from their magnitudes in units of the smallest subnormal value. -/
theorem cmp_fin (s t : Bool) (m n i j : Nat) : (FVal.fin s m (-149 + i)).cmp (.fin t n (-149 + j)) =
    (signed s (m * 2 ^ i) - signed t (n * 2 ^ j)).sign := by
  have hk : min (-149 + (i : Int)) (-149 + j) = -149 + (min i j : Nat) := by omega
  have hi : ((-149 + (i : Int)) - (-149 + (min i j : Nat))).toNat = i - min i j := by omega
  have hj : ((-149 + (j : Int)) - (-149 + (min i j : Nat))).toNat = j - min i j := by omega
  have hscale : Rising (· * 2 ^ min i j) := fun a => Nat.mul_lt_mul_of_pos_right (Nat.lt_succ_self a) (Nat.two_pow_pos _)
  have hm : m * 2 ^ i = m * 2 ^ (i - min i j) * 2 ^ min i j := by
    rw [Nat.mul_assoc, ← Nat.pow_add, Nat.sub_add_cancel (Nat.min_le_left i j)]
  have hn : n * 2 ^ j = n * 2 ^ (j - min i j) * 2 ^ min i j := by
    rw [Nat.mul_assoc, ← Nat.pow_add, Nat.sub_add_cancel (Nat.min_le_right i j)]
  simp only [FVal.cmp, hk, shiftUp, hi, hj, Nat.shiftLeft_eq]
  rw [sign_eq_ite, hm, hn, sign_signed_sub hscale (Nat.zero_mul _)]

/-- The magnitude of a finite word whose exponent and fraction fields are the number `k`, in units of the smallest subnormal value. -/
def magUnits (k : Nat) : Nat := if k / 2 ^ 23 = 0 then k else (k % 2 ^ 23 + 2 ^ 23) * 2 ^ (k / 2 ^ 23 - 1)

/-- Magnitudes rise with their codes, across the change of exponent too. -/
theorem magUnits_rising : Rising magUnits := by
  intro k
  have hE : k / 2 ^ 23 ≠ 0 → 2 ^ (k / 2 ^ 23) = 2 * 2 ^ (k / 2 ^ 23 - 1) := fun h => by
    rw [Nat.mul_comm, Nat.two_pow_pred_mul_two (Nat.pos_of_ne_zero h)]
  have hpos : 0 < 2 ^ (k / 2 ^ 23 - 1) := Nat.two_pow_pos _
  unfold magUnits
  by_cases hF : k % 2 ^ 23 + 1 < 2 ^ 23
  · have hd : (k + 1) / 2 ^ 23 = k / 2 ^ 23 := by omega
    have hm : (k + 1) % 2 ^ 23 = k % 2 ^ 23 + 1 := by omega
    rw [hd, hm]
    split
    · exact Nat.lt_succ_self k
    · exact Nat.mul_lt_mul_of_pos_right (by omega) hpos
  · have hd : (k + 1) / 2 ^ 23 = k / 2 ^ 23 + 1 := by omega
    have hm : (k + 1) % 2 ^ 23 = 0 := by omega
    have hF' : k % 2 ^ 23 = 2 ^ 23 - 1 := by omega
    rw [hd, hm, if_neg (Nat.succ_ne_zero _), Nat.add_sub_cancel]
    split
    · next h => rw [h]; omega
    · next h => rw [hE h, hF']; omega

/-- A finite word as read, and its place below that of the infinities. -/
theorem readF32_finite {w : Word} (h : expField w ≠ 255) :
    (∃ m j : Nat, readF32 w = .fin w.msb m (-149 + j) ∧ m * 2 ^ j = magUnits (w.toNat % 2 ^ 31)) ∧
      w.toNat % 2 ^ 31 < 255 * 2 ^ 23 := by
  have hf := fracField_lt w
  have he : expField w < 256 := Nat.mod_lt _ (by decide)
  have hd : w.toNat % 2 ^ 31 / 2 ^ 23 = expField w := by rw [lowBits_eq_fields]; omega
  have hm : w.toNat % 2 ^ 31 % 2 ^ 23 = fracField w := by rw [lowBits_eq_fields]; omega
  rw [readF32_eq, if_neg h, magUnits, hd, hm]
  refine ⟨?_, by rw [lowBits_eq_fields]; omega⟩
  split
  · next h0 => exact ⟨_, 0, rfl, by rw [lowBits_eq_fields, h0]; omega⟩
  · exact ⟨_, _, rfl, rfl⟩

theorem readF32_inf {w : Word} (h : expField w = 255) (hn : isNaN32 w = false) :
    readF32 w = .inf w.msb ∧ w.toNat % 2 ^ 31 = 255 * 2 ^ 23 := by
  have hf : fracField w = 0 := by simpa [isNaN32_eq, h] using hn
  rw [readF32_eq, if_pos h, if_pos hf, lowBits_eq_fields, h, hf]
  exact ⟨rfl, rfl⟩

theorem signed_bounds (s : Bool) (m : Nat) : -(m : Int) ≤ signed s m ∧ signed s m ≤ m := by
  cases s <;> simp only [signed, if_true, Bool.false_eq_true, if_false] <;> omega

theorem cmp_inf_fin (s t : Bool) (n : Nat) (e : Int) {a b : Nat} (h : b < a) :
    (FVal.inf s).cmp (.fin t n e) = (signed s a - signed t b).sign := by
  obtain ⟨hlo, hhi⟩ := signed_bounds t b
  cases s with
  | false => exact (Int.sign_eq_one_of_pos (show 0 < (a : Int) - signed t b by omega)).symm
  | true => exact (Int.sign_eq_neg_one_of_neg (show -(a : Int) - signed t b < 0 by omega)).symm

theorem cmp_fin_inf (s t : Bool) (m : Nat) (e : Int) {a b : Nat} (h : a < b) :
    (FVal.fin s m e).cmp (.inf t) = (signed s a - signed t b).sign := by
  obtain ⟨hlo, hhi⟩ := signed_bounds s a
  cases t with
  | false => exact (Int.sign_eq_neg_one_of_neg (show signed s a - b < 0 by omega)).symm
  | true => exact (Int.sign_eq_one_of_pos (show 0 < signed s a - -(b : Int) by omega)).symm

/-- R138, R139: the order of two words that are no NaN is that of their places. -/
theorem cmp_readF32 {x y : Word} (hx : isNaN32 x = false) (hy : isNaN32 y = false) :
    (readF32 x).cmp (readF32 y) = (place32 x - place32 y).sign := by
  rw [place32_eq_signed, place32_eq_signed]
  by_cases ex : expField x = 255
  · obtain ⟨hrx, hkx⟩ := readF32_inf ex hx
    by_cases ey : expField y = 255
    · obtain ⟨hry, hky⟩ := readF32_inf ey hy
      rw [hrx, hry, hkx, hky]
      cases x.msb <;> cases y.msb <;> rfl
    · obtain ⟨⟨m, j, hry, -⟩, hky⟩ := readF32_finite ey
      rw [hrx, hry, hkx, cmp_inf_fin _ _ _ _ hky]
  · obtain ⟨⟨m, i, hrx, hmx⟩, hkx⟩ := readF32_finite ex
    by_cases ey : expField y = 255
    · obtain ⟨hry, hky⟩ := readF32_inf ey hy
      rw [hrx, hry, hky, cmp_fin_inf _ _ _ _ hkx]
    · obtain ⟨⟨n, j, hry, hmy⟩, -⟩ := readF32_finite ey
      rw [hrx, hry, cmp_fin, hmx, hmy, sign_signed_sub magUnits_rising rfl]

/-! ### Zeros (R138) -/

theorem place32_eq_zero {w : Word} : place32 w = 0 ↔ w.toNat % 2 ^ 31 = 0 := by
  rw [place32_eq_signed, signed]
  split <;> omega

@[simp] theorem isZero_readF32 (w : Word) : (readF32 w).isZero = decide (place32 w = 0) := by
  have hp := lowBits_eq_fields w
  rw [Bool.eq_iff_iff, decide_eq_true_eq, place32_eq_zero, readF32_eq]
  have hf := fracField_lt w
  split
  · split <;> simp only [FVal.isZero, Bool.false_eq_true, false_iff] <;> omega
  · split <;> simp only [FVal.isZero, beq_iff_eq] <;> omega

theorem neg_readF32 {w : Word} (h : isNaN32 w = false) : (readF32 w).neg = w.msb := by
  rw [readF32_eq]
  split
  · next he =>
    have h0 : fracField w = 0 := by simpa [isNaN32_eq, he] using h
    rw [if_pos h0]
    rfl
  · split <;> rfl

/-- The zeros: -0 has the sign, +0 has not. -/
theorem msb_of_zero {w : Word} (h : place32 w = 0) : w.msb = decide (w = 0x80000000) ∧ (!w.msb) = decide (w = 0) := by
  rw [place32_eq_zero] at h
  have hw := w.isLt
  rw [BitVec.msb_eq_decide, ← decide_not, decide_eq_decide, decide_eq_decide, ← BitVec.toNat_inj, ← BitVec.toNat_inj]
  change (2 ^ 31 ≤ w.toNat ↔ w.toNat = 2 ^ 31) ∧ (¬ 2 ^ 31 ≤ w.toNat ↔ w.toNat = 0)
  omega

/-- Words that are no zeros and have one place are one word. -/
theorem eq_of_place32 {x y : Word} (h : place32 x = place32 y) (h0 : place32 x ≠ 0) : x = y := by
  have hx := x.isLt
  have hy := y.isLt
  apply BitVec.eq_of_toNat_eq
  rw [place32, place32, BitVec.msb_eq_decide, BitVec.msb_eq_decide] at h
  rw [Ne, place32_eq_zero] at h0
  simp only [decide_eq_true_eq] at h
  split at h <;> split at h <;> omega

end Sys2Proof.Machine
end

section
/-! SUPPORT. What a uniform instruction leaves in the q register that it writes (R9, R41). -/

namespace Sys2Proof.Machine

/-- An instruction that checked execution leaves alone meets no soft error (R107). -/
theorem upset_of_unchecked {s : State} {i : Instr} {c : Ctx} (h : s.ctxOf i = some c) (hi : i.checked = false) : c.upset = none := by
  unfold State.ctxOf at h
  split at h
  · cases h
  · dsimp only at h
    split at h
    · cases h
    · split at h
      · cases h
        simp [hi]
      · cases h

theorem Quire.hasQ_mem {q : Quire} {now : Nat} {hand : Bool} {ns : List Nat} (h : q.hasQ now hand ns = true) {n : Nat} (hn : n ∈ ns) :
    n < 160 ∧ if qName hand n < 160 then qName hand n < q.q.length else qName hand n - 408 < q.hb.length := by
  have hall := List.all_eq_true.mp h n hn
  simp only [Bool.and_eq_true, decide_eq_true_eq] at hall
  obtain ⟨⟨hlt, hlen⟩, -⟩ := hall
  refine ⟨hlt, ?_⟩
  split at hlen
  · next hb => rw [if_pos hb]; exact of_decide_eq_true hlen
  · next hb => rw [if_neg hb]; exact of_decide_eq_true hlen

theorem Quire.qreg_of_bare {a b : Quire} (h : a.bare = b.bare) (hand : Bool) (n : Nat) : a.qreg hand n = b.qreg hand n := by
  have : a.bare.qreg hand n = b.bare.qreg hand n := by rw [h]
  exact this

@[simp] theorem Quire.addFlags_qreg (now : Nat) (tm : Timing) (f : Flags) (q : Quire) (hand : Bool) (n : Nat) :
    (q.addFlags now tm f).qreg hand n = q.qreg hand n := by
  unfold Quire.addFlags
  split <;> rfl

@[simp] theorem Quire.writeQp_qreg (now : Nat) (tm : Timing) (p : Nat) (b : Bool) (q : Quire) (hand : Bool) (n : Nat) :
    (q.writeQp now tm p b).qreg hand n = q.qreg hand n := by
  unfold Quire.writeQp
  split <;> rfl

/-- R41: a q register that is there holds what was written to it last. -/
theorem Quire.writeQ_qreg {now clk : Nat} {tm : Timing} {hand : Bool} {ns : List Nat} {n : Nat} {w : Word} {q : Quire}
    (h : q.hasQ clk hand ns = true) (hn : n ∈ ns) : (q.writeQ now tm hand n w).qreg hand n = w := by
  obtain ⟨-, hlen⟩ := Quire.hasQ_mem h hn
  change Quire.getQ (q.setQ (qName hand n) w) (qName hand n) = w
  unfold Quire.setQ Quire.getQ
  split at hlen
  · next hb => simp [hb, hlen, List.getD_eq_getElem?_getD]
  · next hb => simp [hb, hlen, List.getD_eq_getElem?_getD]

@[simp] theorem State.quires_popPorts (s : State) (c : Ctx) (ns : List Nat) : (s.popPorts c ns).quires = s.quires := by
  unfold State.popPorts
  refine foldl_keeps State.quires _ ?_ _ s
  exact fun _ _ => rfl

@[simp] theorem State.noteMajority_qreg (s : State) (c : Ctx) (lat q : Nat) (hand : Bool) (n : Nat) :
    ((s.noteMajority c lat).quire q).qreg hand n = (s.quire q).qreg hand n := by
  unfold State.noteMajority
  refine foldl_keeps (fun s : State => (s.quire q).qreg hand n) _ (fun s r => ?_) _ s
  rw [State.quire_modQuire]
  split
  · exact Quire.addFlags_qreg ..
  · rfl

/-- R9: a uniform instruction that writes one q register, which is there, leaves its result in it. -/
theorem uniWrite_qreg {i : Instr} {lat clk : Nat} {F : Ctx → State → QOut} {c : Ctx} {s : State} {ns : List Nat} {d : Nat} {w : Word}
    (hu : c.upset ≠ some false) (hns : (s.quire c.q).hasQ clk c.hand ns = true) (hd : d ∈ ns) (hq : c.q < s.quires.length)
    (hF : (F c s).writes = [(d, w)]) : ((uniWrite i lat F c s).quire c.q).qreg c.hand d = w := by
  obtain ⟨hlt, -⟩ := Quire.hasQ_mem hns hd
  have hpop : (s.popPorts c i.uses.rq).quire c.q = s.quire c.q := by
    rw [State.quire, State.quires_popPorts, State.quire]
  have hbody : ∀ tm (ps : List (Nat × Bool)) fl, ((((s.popPorts c i.uses.rq).writeQPort c tm d w).modQuire c.q
      (fun q => (ps.foldl (fun q w => q.writeQp c.now tm w.1 w.2) q).addFlags c.now tm fl)).quire c.q).qreg c.hand d = w := by
    intro tm ps fl
    have hlen : c.q < (s.popPorts c i.uses.rq).quires.length := by rwa [State.quires_popPorts]
    rw [State.writeQPort, if_pos hlt, State.quire_modQuire, if_pos ⟨rfl, by simpa using hlen⟩, Quire.addFlags_qreg,
      foldl_keeps (fun q : Quire => q.qreg c.hand d) _ (fun _ _ => Quire.writeQp_qreg ..), State.quire_modQuire,
      if_pos ⟨rfl, hlen⟩, hpop, Quire.writeQ_qreg hns hd]
  unfold uniWrite
  split
  · next h => exact absurd h hu
  · simp only [hF, List.foldl_cons, List.foldl_nil]
    split
    · rw [State.noteMajority_qreg, hbody]
    · exact hbody ..

end Sys2Proof.Machine
end

section
/-! SUPPORT. FMIN and FMAX by the places of their operands (R138), and the tree of QRED over them (R99). -/

namespace Sys2Proof.Machine

/-! ### FMIN and FMAX -/

/-- R138: FMAX when `mx`, else FMIN, by the places of its operands. -/
def minMax32 (mx : Bool) (x y : Word) : Word :=
  if isNaN32 x ∨ isNaN32 y then 0x7FC00000
  else if place32 x = 0 ∧ place32 y = 0 then
    (if mx then (if x = 0 ∨ y = 0 then 0 else 0x80000000) else if x = 0x80000000 ∨ y = 0x80000000 then 0x80000000 else 0)
  else if (!mx) = decide (place32 x < place32 y) then x else y

theorem f32MinMax_flags (mx : Bool) (x y : Word) : (f32MinMax mx x y).2 = if isSig32 x || isSig32 y then fNV else 0 := by
  rw [← isSig_readF32, ← isSig_readF32]
  simp only [f32MinMax, apply_ite Prod.snd, ite_self]
  rfl

theorem f32MinMax_val (mx : Bool) (x y : Word) : (f32MinMax mx x y).1 = minMax32 mx x y := by
  simp only [f32MinMax, minMax32, isNaN_readF32, isZero_readF32, ← Bool.or_eq_true, Bool.and_eq_true, decide_eq_true_eq]
  by_cases hn : (isNaN32 x || isNaN32 y) = true
  · rw [if_pos hn, if_pos hn]
  rw [if_neg hn, if_neg hn]
  obtain ⟨hx, hy⟩ : isNaN32 x = false ∧ isNaN32 y = false := by simpa using hn
  by_cases hz : place32 x = 0 ∧ place32 y = 0
  · obtain ⟨hxm, hxp⟩ := msb_of_zero hz.1
    obtain ⟨hym, hyp⟩ := msb_of_zero hz.2
    rw [if_pos hz, if_pos hz, neg_readF32 hx, neg_readF32 hy, hxp, hyp, hxm, hym]
    cases mx <;> simp
  · rw [if_neg hz, if_neg hz, cmp_readF32 hx hy]
    cases mx
    · simp only [Bool.false_eq_true, if_false, Bool.not_false, eq_comm (a := true), decide_eq_true_eq, Int.sign_nonpos_iff]
      by_cases he : place32 x = place32 y
      · rw [eq_of_place32 he fun h0 => hz ⟨h0, he ▸ h0⟩, ite_self, ite_self]
      · exact ite_congr (propext (by omega)) (fun _ => rfl) (fun _ => rfl)
    · simp only [if_true, Bool.not_true, eq_comm (a := false), decide_eq_false_iff_not, ge_iff_le, Int.sign_nonneg_iff]
      exact ite_congr (propext (by omega)) (fun _ => rfl) (fun _ => rfl)

@[simp] theorem fop_val (f : Word → Word → Word → Word × Flags) (x : IntIn) :
    (fop f x).val.setWidth 32 = (f x.a32 x.b32 x.d32).1 := by
  simp [fop]

/-- R138, R131: a NaN in either operand gives the canonical NaN. -/
theorem f32MinMax_nan {mx : Bool} {x y : Word} (h : isNaN32 x ∨ isNaN32 y) : (f32MinMax mx x y).1 = 0x7FC00000 := by
  rw [f32MinMax_val, minMax32, if_pos h]

/-- D := FMIN or FMAX of A, after its modifier, and B. -/
theorem minMax_gives {i : Instr} {m : BitVec 2} {mx : Bool} {d a b : Reg7} (hc : true = i.checked)
    (hx : ∀ s, exec i s = vec3 i 4 (fop (fun a b _ => f32MinMax mx (fmodify m a) b)) d a b s) :
    VecGives i [a.toNat, b.toNat] d.toNat (fun th => minMax32 mx (fmodify m (th.vreg a.toNat)) (th.vreg b.toNat)) ∧
      FlagGives i [a.toNat, b.toNat] fNV (fun th => isSig32 (fmodify m (th.vreg a.toNat)) || isSig32 (th.vreg b.toNat)) := by
  refine ⟨vec3_gives hx hc fun x th ha hb => ?_,
    vecInt_flagGives hx hc (by simp [Src.regs]) (by simp [Src.regs]) fun th v => ?_⟩
  · rw [fop_val, f32MinMax_val, ha, hb]
  · change (f32MinMax mx _ _).2 = _
    rw [f32MinMax_flags]
    simp [Src.value, IntIn.a32, IntIn.b32]

/-! ### The tree of QRED -/

/-- R99: one level of the tree, with the flags so far. -/
def redLevel (op : Nat) (a : List Word × Flags) : List Word × Flags := ((redPairs op a.1).1, a.2 ||| (redPairs op a.1).2)

theorem redTree_eq (op : Nat) (xs : List Word) :
    (redTree op xs).1 = ((List.range 5).foldl (fun a _ => redLevel op a) (xs, 0)).1.headD 0 := rfl

/-- R138: an operation of Table 4.4 whose result is the canonical NaN when an operand is a NaN. -/
def NaNWins (op : Nat) : Prop := ∀ x y, isNaN32 x = true ∨ isNaN32 y = true → (redOp op x y).1 = 0x7FC00000

theorem nanWins_fmin : NaNWins 9 := fun _ _ h => f32MinMax_nan h
theorem nanWins_fmax : NaNWins 10 := fun _ _ h => f32MinMax_nan h

@[simp] theorem redPairs_length (op : Nat) : ∀ xs, (redPairs op xs).1.length = xs.length / 2
  | [] => rfl
  | [_] => by simp [redPairs]
  | x :: y :: rest => by
    simp only [redPairs, List.length_cons, redPairs_length op rest]
    omega

/-- A NaN among words in pairs gives the canonical NaN one level down. -/
theorem redPairs_nan {op : Nat} (hop : NaNWins op) {w : Word} (hn : isNaN32 w = true) :
    ∀ {xs : List Word}, xs.length % 2 = 0 → w ∈ xs → 0x7FC00000 ∈ (redPairs op xs).1
  | [], _, hw => by simp at hw
  | [_], hlen, _ => by simp at hlen
  | x :: y :: rest, hlen, hw => by
    simp only [redPairs, List.mem_cons]
    simp only [List.length_cons, Nat.add_mod_right, Nat.add_assoc] at hlen
    rcases List.mem_cons.mp hw with rfl | hw
    · exact .inl (hop _ _ (.inl hn)).symm
    rcases List.mem_cons.mp hw with rfl | hw
    · exact .inl (hop _ _ (.inr hn)).symm
    · exact .inr (redPairs_nan hop hn hlen hw)

/-- The canonical NaN among 2^k words comes down the tree of k levels. -/
theorem redLevels_nan {op : Nat} (hop : NaNWins op) {α : Type} (l : List α) (a : List Word × Flags) (hlen : a.1.length = 2 ^ l.length)
    (hm : 0x7FC00000 ∈ a.1) : (l.foldl (fun a _ => redLevel op a) a).1 = [0x7FC00000] := by
  induction l generalizing a with
  | nil =>
    obtain ⟨y, hy⟩ := List.length_eq_one_iff.mp hlen
    rw [hy, List.mem_singleton] at hm
    rw [List.foldl_nil, hy, hm]
  | cons x l ih =>
    have hlen' : a.1.length = 2 * 2 ^ l.length := by rw [hlen, List.length_cons, Nat.pow_succ, Nat.mul_comm]
    exact ih (redLevel op a) (by rw [redLevel, redPairs_length]; omega) (redPairs_nan hop rfl (by omega) hm)

theorem redTree_nan {op : Nat} (hop : NaNWins op) {xs : List Word} (hlen : xs.length = 32) {w : Word} (hw : w ∈ xs)
    (hn : isNaN32 w = true) : (redTree op xs).1 = 0x7FC00000 := by
  have h := redLevels_nan hop [1, 2, 3, 4] (redLevel op (xs, 0)) (by rw [redLevel, redPairs_length, hlen]; rfl)
    (redPairs_nan hop hn (by rw [hlen]) hw)
  rw [redTree_eq]
  exact congrArg (List.headD · 0) h

/-- R99: a taking thread of the quire gives its register at its lane. -/
theorem mem_lanesOf {c : Ctx} {s : State} {op a : Nat} {z : ThreadId} (hz : z ∈ c.takers) (hq : z.quire = c.q) (hl : z.lane < 32)
    (hv : (s.thread z).hasV c.now [a] = true) : (s.thread z).vreg a ∈ lanesOf c s op a := by
  have hid : (⟨c.q, z.lane⟩ : ThreadId) = z := by rw [← hq]
  refine List.mem_map.mpr ⟨z.lane, List.mem_range.mpr hl, ?_⟩
  rw [Ctx.inP, hid, if_pos (List.contains_iff_mem.mpr hz), State.readV_of hv (List.mem_singleton.mpr rfl)]

/-- R99, R138: QRED by an operation in which a NaN wins, over lanes of which one holds a NaN. -/
theorem qred_nan {op : BitVec 4} {qd qa : Reg8} {st : BitVec 3} {s : State} {c : Ctx} (hop : NaNWins op.toNat)
    (h : s.ctxOf (.qred op qd qa st) = some c) :
    ∃ t, exec (.qred op qd qa st) s = .next t ∧
      ((∀ z ∈ c.takers, (s.thread z).hasV c.now [qa.toNat] = true) → (s.quire c.q).hasQ c.now c.hand [qd.toNat] = true →
        c.q < s.quires.length → (∃ z ∈ c.takers, z.quire = c.q ∧ z.lane < 32 ∧ isNaN32 ((s.thread z).vreg qa.toNat) = true) →
        (t.quire c.q).qreg c.hand qd.toNat = 0x7FC00000) := by
  have hu : c.upset ≠ some false := by simp [upset_of_unchecked h rfl]
  refine ⟨_, issueWith_of_ctx h (alu := false) rfl 0 _, fun hv hd hq ⟨z, hz, hzq, hzl, hzn⟩ => ?_⟩
  rw [Res.after_done, Quire.qreg_of_bare (State.quire_of_bare (State.moved_advance ..).bare _), uniWrite_qreg hu hd
    (List.mem_singleton.mpr rfl) hq rfl]
  exact redTree_nan hop (by simp [lanesOf]) (mem_lanesOf hz hzq hzl (hv z hz)) hzn

end Sys2Proof.Machine
end

section
/-! The statements on FMIN, FMAX and FCLASS (chapter 06), each from the results of its operations. -/

namespace Sys2Proof.Machine

/-- Settles O18: FMIN and FMAX by the places of their operands (R138), QRED by the NaN that comes down its tree (R99). -/
theorem floatMinMax : Obligations.FloatMinMax := by
  unfold Obligations.FloatMinMax
  intro m d a b st
  dsimp only
  obtain ⟨hmin, hminNV⟩ := minMax_gives (i := .fmin m d a b st) rfl fun _ => rfl
  obtain ⟨hmax, hmaxNV⟩ := minMax_gives (i := .fmax m d a b st) rfl fun _ => rfl
  refine ⟨hmin, hmax, hminNV, hmaxNV, fun op qd qa s c hop h => ?_⟩
  rcases hop with rfl | rfl
  · exact qred_nan nanWins_fmin h
  · exact qred_nan nanWins_fmax h

/-- Settles O20: the class by the fields of the word (R141, Table 6.4), and no flag. -/
theorem floatClass : Obligations.FloatClass := by
  unfold Obligations.FloatClass
  intro d a st
  refine ⟨vecInt_gives (fun _ => rfl) rfl (by simp [Src.regs]) (by simp [Src.regs]) fun th => ?_,
    vecInt_noFlags (fun _ => rfl) rfl fun _ => rfl⟩
  rw [fop_val, inputOf_a32, f32Class_eq]
  rfl

end Sys2Proof.Machine
end
